-- ==== Sys2Proof/Word.lean ====
section
/-! DEFINITION. The word types of the Z7 and the one association table every sparse piece of state is kept in. -/
namespace Sys2Proof

/-- A byte, the unit of every memory (R6). -/
abbrev Byte := BitVec 8

/-- A 32-bit lane of a vector register, of an array lane register or of a tile (R12, R220). -/
abbrev Word := BitVec 32

/-- A slice-uniform or control register (R48, R126). -/
abbrev Dword := BitVec 64

/-- A program counter: bits [56:6] the line, [2:0] the slot (R44). -/
abbrev Pc := BitVec 57

/-- An instruction word (R41). -/
abbrev IWord := BitVec 96

/-- A finite table: the value of a key is the one of its first pair; an absent key reads as a default. -/
abbrev Tab (κ α : Type) := List (κ × α)

end Sys2Proof
end

