-- ==== Sys2Proof/Machine/Bits.lean ====
section
/-! DEFINITION. Tables, bit fields, sign and zero extension, and little-endian bytes (R6): the helpers every layer
above uses. -/
namespace Sys2Proof

/-- The value of key `k`, or `d` where the table has none. -/
def Tab.get {κ α : Type} [DecidableEq κ] (t : Tab κ α) (k : κ) (d : α) : α :=
  match t with
  | [] => d
  | (j, v) :: r => if j = k then v else Tab.get r k d

/-- The value of key `k`, if the table has one. -/
def Tab.find {κ α : Type} [DecidableEq κ] (t : Tab κ α) (k : κ) : Option α :=
  match t with
  | [] => none
  | (j, v) :: r => if j = k then some v else Tab.find r k

/-- Key `k` now has the value `v`. -/
def Tab.put {κ α : Type} [DecidableEq κ] (t : Tab κ α) (k : κ) (v : α) : Tab κ α :=
  match t with
  | [] => [(k, v)]
  | (j, w) :: r => if j = k then (k, v) :: r else (j, w) :: Tab.put r k v

/-- Key `k` has no value any more. -/
def Tab.drop {κ α : Type} [DecidableEq κ] (t : Tab κ α) (k : κ) : Tab κ α :=
  t.filter (fun p => p.1 ≠ k)

/-- Bits [lo+n-1 : lo] of `x`, as a number. -/
def bitsAt {w : Nat} (x : BitVec w) (lo n : Nat) : Nat := (x.extractLsb' lo n).toNat

/-- Bit `n` of `x`. -/
def bitAt {w : Nat} (x : BitVec w) (n : Nat) : Bool := x.getLsbD n

/-- 1 for true, 0 for false. -/
def b2n (b : Bool) : Nat := if b then 1 else 0

/-- The number `x` placed at bit `lo` of a 64-bit word. -/
def fieldAt (lo x : Nat) : BitVec 64 := BitVec.ofNat 64 (x <<< lo)

/-- `x` reduced to width `w` and read as signed. -/
def signedAt (w : Nat) (x : Nat) : Int := (BitVec.ofNat w x).toInt

/-- The number of one bits of `x` among its low `n`. -/
def popCount (x : Nat) : Nat → Nat
  | 0 => 0
  | n + 1 => popCount x n + b2n (x.testBit n)

/-- The number of leading zero bits of `x` at width `n` (R109). -/
def leadingZeros (x : Nat) : Nat → Nat
  | 0 => 0
  | n + 1 => if x.testBit n then 0 else leadingZeros x n + 1

/-- The index of the lowest one bit of `x` from `i` on, or `i + fuel` where there is none. -/
def lowestBit (x : Nat) (i : Nat) : Nat → Nat
  | 0 => i
  | n + 1 => if x.testBit i then i else lowestBit x (i + 1) n

/-- The bits of `x` that are set among the low `n`, increasing. -/
def bitsSet (x : Nat) (n : Nat) : List Nat := (List.range n).filter (fun i => x.testBit i)

/-- The number whose set bits are the members of `l`. -/
def maskOf (l : List Nat) : Nat := l.foldl (fun a i => a ||| (1 <<< i)) 0

/-- Little-endian bytes of `x` (R6). -/
def bytesOf (x : Nat) : Nat → List Byte
  | 0 => []
  | n + 1 => BitVec.ofNat 8 x :: bytesOf (x / 256) n

/-- The number a little-endian byte list holds (R6). -/
def ofBytes : List Byte → Nat
  | [] => 0
  | b :: r => b.toNat + 256 * ofBytes r

/-- The least of `a` and the largest `w`-bit number: a saturating count. -/
def satAt (w a : Nat) : Nat := if a < 2 ^ w then a else 2 ^ w - 1

/-- The first `n` items of `l`, padded with `d`. -/
def takePad {α : Type} (l : List α) (n : Nat) (d : α) : List α :=
  (List.range n).map (fun i => l.getD i d)

/-- `l` with the item at the first index that satisfies `p` replaced by `f` of it. -/
def updateFirst {α : Type} (p : α → Bool) (f : α → α) : List α → List α
  | [] => []
  | a :: r => if p a then f a :: r else a :: updateFirst p f r

end Sys2Proof
end

