-- ==== Sys2Proof/Machine/Float.lean ====
section
/-! DEFINITION. Binary floating point (R13 to R16, R25 to R32): decoding, one rounding to a format, sums, products, fused
operations, quotients and roots, conversions, block scales (R21) and trits (R19). Formats go by their type codes (R50). -/
namespace Sys2Proof.Machine

/-- Exception flags, as bits of FSTAT (R33). -/
def fNV : Nat := 1
def fDZ : Nat := 2
def fOF : Nat := 4
def fUF : Nat := 8
def fNX : Nat := 16
def fFMT : Nat := 32

/-- A number as an operand: a NaN, an infinity, or the exact value `(-1)^neg × m × 2^e`. -/
inductive Val where
  | nan (signalling : Bool)
  | inf (neg : Bool)
  | fin (neg : Bool) (m : Nat) (e : Int)
  deriving DecidableEq, Repr

/-- Fraction bits of a format (R13). -/
def fracBits (ty : Nat) : Nat :=
  if ty = 8 then 52 else if ty = 9 then 23 else if ty = 10 then 10 else if ty = 11 then 7
  else if ty = 12 then 3 else if ty = 13 then 2 else 1

/-- Exponent bits of a format (R13). -/
def expBits (ty : Nat) : Nat :=
  if ty = 8 then 11 else if ty = 9 then 8 else if ty = 10 then 5 else if ty = 11 then 8
  else if ty = 12 then 4 else if ty = 13 then 5 else 2

/-- Exponent bias of a format (R13). -/
def bias (ty : Nat) : Nat := if ty = 14 then 1 else 2 ^ (expBits ty - 1) - 1

/-- Width of a format. -/
def fpWidth (ty : Nat) : Nat := 1 + expBits ty + fracBits ty

/-- The canonical NaN of a format (R16); E2M1 has none. -/
def canonNaN (ty : Nat) : Nat :=
  if ty = 8 then 0x7FF8000000000000 else if ty = 9 then 0x7FC00000 else if ty = 10 then 0x7E00 else if ty = 11 then 0x7FC0
  else if ty = 13 then 0x7E else if ty = 12 then 0x7F else 0

/-- Whether a format has infinities (R14). -/
def hasInf (ty : Nat) : Bool := ty != 12 && ty != 14

/-- The magnitude code of the largest finite value (R13, R14, R17). -/
def maxCode (ty : Nat) : Nat :=
  if ty = 12 then 0x7E else if ty = 14 then 7 else (2 ^ expBits ty - 1) * 2 ^ fracBits ty - 1

/-- A code of a format with its sign. -/
def signed (ty : Nat) (neg : Bool) (mag : Nat) : Nat := mag + (if neg then 2 ^ (fpWidth ty - 1) else 0)

/-- The infinity of a format. -/
def infCode (ty : Nat) (neg : Bool) : Nat := signed ty neg ((2 ^ expBits ty - 1) * 2 ^ fracBits ty)

/-- The exact value of a finite code (R13). -/
def finVal (ty x : Nat) : Nat × Int :=
  let p := fracBits ty
  let f := x % 2 ^ p
  let e := x / 2 ^ p % 2 ^ expBits ty
  if e = 0 then (f, 1 - (bias ty : Int) - p) else (2 ^ p + f, (e : Int) - bias ty - p)

/-- The operand a code stands for (R13 to R15, R17). -/
def decodeFp (ty x : Nat) : Val :=
  let p := fracBits ty
  let f := x % 2 ^ p
  let e := x / 2 ^ p % 2 ^ expBits ty
  let neg := x.testBit (fpWidth ty - 1)
  if hasInf ty ∧ e = 2 ^ expBits ty - 1 then
    (if f = 0 then .inf neg else .nan (ty ≠ 13 && !(f.testBit (p - 1))))
  else if ty = 12 ∧ e = 15 ∧ f = 7 then .nan false
  else .fin neg (finVal ty x).1 (finVal ty x).2

/-- Number of bits of `m`. -/
def bitLen (m : Nat) : Nat := if m = 0 then 0 else m.log2 + 1

/-- `m × 2^e` as a whole number of units of `2^q`, rounded in mode `rnd`, and whether that is inexact (R25). -/
def roundUnits (rnd : Nat) (neg : Bool) (m : Nat) (e q : Int) : Nat × Bool :=
  if q ≤ e then (m * 2 ^ (e - q).toNat, false)
  else
    let k := (q - e).toNat
    let n := m / 2 ^ k
    let r := m % 2 ^ k
    let half := 2 ^ (k - 1)
    let up :=
      if r = 0 then false
      else if rnd = 0 then decide (half < r) || (r == half && n % 2 == 1)
      else if rnd = 1 then false
      else if rnd = 2 then !neg
      else if rnd = 3 then neg
      else decide (half ≤ r)
    (if up then n + 1 else n, r != 0)

/-- `n × 2^q` against the least normal number of a format: whether it is smaller. -/
def belowNormal (ty n : Nat) (q : Int) : Bool :=
  let t := 1 - (bias ty : Int)
  if n = 0 then true else decide (q + (bitLen n : Int) - 1 < t)

/-- The code of `n × 2^q`, `n` of at most one bit more than the precision, not above the largest finite value. -/
def packFp (ty : Nat) (neg : Bool) (n : Nat) (q : Int) : Nat :=
  let p := fracBits ty
  let n' := if 2 ^ (p + 1) ≤ n then n / 2 else n
  let q' := if 2 ^ (p + 1) ≤ n then q + 1 else q
  if n' < 2 ^ p then signed ty neg n'
  else signed ty neg ((q' + p + bias ty).toNat * 2 ^ p + (n' - 2 ^ p))

/-- Whether `n × 2^q` exceeds the largest finite value. -/
def exceeds (ty n : Nat) (q : Int) : Bool :=
  let m := finVal ty (maxCode ty)
  if q ≤ m.2 then decide (m.1 * 2 ^ (m.2 - q).toNat < n) else decide (m.1 < n * 2 ^ (q - m.2).toNat)

/-- What an overflow delivers (R27 to R30): code and flags. -/
def overflowFp (ty rnd : Nat) (sat neg : Bool) : Nat × Nat :=
  let max := signed ty neg (maxCode ty)
  let toMax := sat || ty = 14 || rnd = 1 || (rnd = 2 && neg) || (rnd = 3 && !neg)
  (if toMax then max else if ty = 12 then canonNaN 12 else infCode ty neg, fOF + fNX)

/-- One rounding of the exact nonzero `(-1)^neg × m × 2^e` to a format (R26 to R29): code and flags. -/
def roundFp (ty rnd : Nat) (sat neg : Bool) (m : Nat) (e : Int) : Nat × Nat :=
  let p := fracBits ty
  let top : Int := e + (bitLen m : Int) - 1 - p
  let low : Int := 1 - (bias ty : Int) - p
  let q := if top < low then low else top
  let r := roundUnits rnd neg m e q
  let u := roundUnits rnd neg m e top
  if exceeds ty r.1 q then overflowFp ty rnd sat neg
  else (packFp ty neg r.1 q, if r.2 then fNX + (if belowNormal ty u.1 top then fUF else 0) else 0)

/-- Rounding of an exact value that may be zero. -/
def roundVal (ty rnd : Nat) (neg : Bool) (m : Nat) (e : Int) : Nat × Nat :=
  if m = 0 then (signed ty neg 0, 0) else roundFp ty rnd false neg m e

/-- The canonical NaN, with flags. -/
def nanOut (ty flags : Nat) : Nat × Nat := (canonNaN ty, flags)

/-- Flags of a signalling operand (R15). -/
def Val.sig : Val → Nat
  | .nan true => fNV
  | .nan false => 0
  | .inf _ => 0
  | .fin _ _ _ => 0

def Val.isNaN : Val → Bool
  | .nan _ => true
  | .inf _ => false
  | .fin _ _ _ => false

/-- The value with its sign changed (R146). -/
def Val.neg : Val → Val
  | .nan s => .nan s
  | .inf n => .inf (!n)
  | .fin n m e => .fin (!n) m e

/-- The integer `(-1)^neg × m × 2^(e-q)`, `q ≤ e`. -/
def scaledInt (neg : Bool) (m : Nat) (e q : Int) : Int :=
  let x : Int := (m * 2 ^ (e - q).toNat : Nat)
  if neg then -x else x

/-- The sum of two finite values, rounded once (R26). An exact zero of unlike signs is +0, −0 under `.rdn`. -/
def addFin (ty rnd : Nat) (n1 : Bool) (m1 : Nat) (e1 : Int) (n2 : Bool) (m2 : Nat) (e2 : Int) : Nat × Nat :=
  if m1 = 0 ∧ m2 = 0 then (signed ty (if n1 = n2 then n1 else rnd = 3) 0, 0)
  else
    let q := if e1 < e2 then e1 else e2
    let x := scaledInt n1 m1 e1 q + scaledInt n2 m2 e2 q
    if x = 0 then (signed ty (rnd = 3) 0, 0) else roundFp ty rnd false (x < 0) x.natAbs q

/-- a + b (R146). -/
def fAdd (ty rnd : Nat) (a b : Val) : Nat × Nat :=
  match a, b with
  | .nan x, y => nanOut ty (Val.sig (.nan x) ||| y.sig)
  | x, .nan y => nanOut ty (x.sig ||| Val.sig (.nan y))
  | .inf x, .inf y => if x = y then (infCode ty x, 0) else nanOut ty fNV
  | .inf x, .fin _ _ _ => (infCode ty x, 0)
  | .fin _ _ _, .inf y => (infCode ty y, 0)
  | .fin n1 m1 e1, .fin n2 m2 e2 => addFin ty rnd n1 m1 e1 n2 m2 e2

/-- The exact product (R26, R36): flags and value. -/
def fProd (a b : Val) : Nat × Val :=
  match a, b with
  | .nan x, y => (Val.sig (.nan x) ||| y.sig, .nan false)
  | x, .nan y => (x.sig ||| Val.sig (.nan y), .nan false)
  | .inf x, .inf y => (0, .inf (x != y))
  | .inf x, .fin n m _ => if m = 0 then (fNV, .nan false) else (0, .inf (x != n))
  | .fin n m _, .inf y => if m = 0 then (fNV, .nan false) else (0, .inf (n != y))
  | .fin n1 m1 e1, .fin n2 m2 e2 => (0, .fin (n1 != n2) (m1 * m2) (e1 + e2))

/-- A value rounded to a format: NaNs become canonical. -/
def Val.round (ty rnd : Nat) : Val → Nat × Nat
  | .nan _ => nanOut ty 0
  | .inf n => (infCode ty n, 0)
  | .fin n m e => roundVal ty rnd n m e

/-- a × b (R146). -/
def fMul (ty rnd : Nat) (a b : Val) : Nat × Nat :=
  let p := fProd a b
  let r := p.2.round ty rnd
  (r.1, r.2 ||| p.1)

/-- a × b + c with one rounding (R146). -/
def fFma (ty rnd : Nat) (a b c : Val) : Nat × Nat :=
  let p := fProd a b
  let r := fAdd ty rnd p.2 c
  (r.1, r.2 ||| p.1)

/-- a / b (R150). -/
def fDiv (ty rnd : Nat) (a b : Val) : Nat × Nat :=
  match a, b with
  | .nan x, y => nanOut ty (Val.sig (.nan x) ||| y.sig)
  | x, .nan y => nanOut ty (x.sig ||| Val.sig (.nan y))
  | .inf _, .inf _ => nanOut ty fNV
  | .inf x, .fin n _ _ => (infCode ty (x != n), 0)
  | .fin n _ _, .inf y => (signed ty (n != y) 0, 0)
  | .fin n1 m1 e1, .fin n2 m2 e2 =>
    if m2 = 0 then (if m1 = 0 then nanOut ty fNV else (infCode ty (n1 != n2), fDZ))
    else if m1 = 0 then (signed ty (n1 != n2) 0, 0)
    else
      let k := fracBits ty + 4 + bitLen m2
      let q := m1 * 2 ^ k / m2
      let st := if m1 * 2 ^ k % m2 = 0 then 0 else 1
      roundFp ty rnd false (n1 != n2) (2 * q + st) (e1 - e2 - k - 1)

/-- The largest `r` with `r * r ≤ n`, `bits` bits of it. -/
def isqrtBits (n : Nat) : Nat → Nat → Nat
  | 0, r => r
  | b + 1, r =>
    let r' := r + 2 ^ b
    isqrtBits n b (if r' * r' ≤ n then r' else r)

/-- The integer square root. -/
def isqrt (n : Nat) : Nat := isqrtBits n (bitLen n / 2 + 1) 0

/-- √a (R150). -/
def fSqrt (ty rnd : Nat) (a : Val) : Nat × Nat :=
  match a with
  | .nan s => nanOut ty (if s then fNV else 0)
  | .inf n => if n then nanOut ty fNV else (infCode ty false, 0)
  | .fin n m e =>
    if m = 0 then (signed ty n 0, 0)
    else if n then nanOut ty fNV
    else
      let k := 2 * (fracBits ty + 4)
      let odd := e % 2 = 1
      let x := if odd then m * 2 ^ (k + 1) else m * 2 ^ k
      let e' := if odd then e - 1 else e
      let r := isqrt x
      roundFp ty rnd false false (2 * r + (if r * r = x then 0 else 1)) (e' / 2 - k / 2 - 1)

/-- 1/√a for a positive finite value (R150). -/
def rsqrtFin (ty rnd m : Nat) (e : Int) : Nat × Nat :=
  let odd := e % 2 = 1
  let m' := if odd then 2 * m else m
  let e' := if odd then e - 1 else e
  let k := fracBits ty + 4 + bitLen m'
  let x := 2 ^ (2 * k) / m'
  let r := isqrt x
  roundFp ty rnd false false (2 * r + (if r * r * m' = 2 ^ (2 * k) then 0 else 1)) (-(e' / 2) - k - 1)

-- conversions (R30, R31)

/-- A value converted to a floating-point format (R26 to R30). `sat` selects the saturating form. -/
def toFp (ty rnd : Nat) (sat : Bool) (a : Val) : Nat × Nat :=
  match a with
  | .nan s => if ty = 14 then (0, fNV) else nanOut ty (if s then fNV else 0)
  | .inf n =>
    if ty = 14 then (signed 14 n 7, fNV)
    else if ty = 12 then (if sat then signed 12 n (maxCode 12) else canonNaN 12, fNV)
    else if sat then (signed ty n (maxCode ty), 0) else (infCode ty n, 0)
  | .fin n m e => if m = 0 then (signed ty n 0, 0) else roundFp ty rnd sat n m e

/-- Bounds of an integer type of width `w` (R18). -/
def intMin (isSigned : Bool) (w : Nat) : Int := if isSigned then -((2 ^ (w - 1) : Nat) : Int) else 0
def intMax (isSigned : Bool) (w : Nat) : Int :=
  if isSigned then ((2 ^ (w - 1) : Nat) : Int) - 1 else ((2 ^ w : Nat) : Int) - 1

/-- An integer as its low `w` bits. -/
def wrapW (w : Nat) (x : Int) : Nat := (x % ((2 ^ w : Nat) : Int)).toNat

/-- The integral value nearest to a finite value in mode `rnd`, and whether it differs (R30, R151). -/
def toIntegral (rnd : Nat) (n : Bool) (m : Nat) (e : Int) : Int × Bool :=
  let r := roundUnits rnd n m e 0
  (if n then -(r.1 : Int) else r.1, r.2)

/-- A value converted to an integer of width `w` (R30): clamped, invalid where out of range. -/
def toInt (isSigned : Bool) (w rnd : Nat) (a : Val) : Nat × Nat :=
  match a with
  | .nan _ => (0, fNV)
  | .inf n => (wrapW w (if n then intMin isSigned w else intMax isSigned w), fNV)
  | .fin n m e =>
    if m = 0 then (0, 0)
    else if 80 < e + (bitLen m : Int) then (wrapW w (if n then intMin isSigned w else intMax isSigned w), fNV)
    else
      let r := toIntegral rnd n m e
      if r.1 < intMin isSigned w then (wrapW w (intMin isSigned w), fNV)
      else if intMax isSigned w < r.1 then (wrapW w (intMax isSigned w), fNV)
      else (wrapW w r.1, if r.2 then fNX else 0)

/-- An integer as an exact value; zero is +0. -/
def ofInt (x : Int) : Val := .fin (x < 0) x.natAbs 0

-- block scales and trits

/-- A block scale (R21): its value and the flags of its decode. -/
def scaleOf (b : Nat) : Val × Nat :=
  if 0x80 ≤ b then (.nan false, fFMT)
  else if b = 0x7F then (.nan false, 0)
  else
    let f := b % 8
    let e := b / 8
    (if e = 0 then .fin false f (-9) else .fin false (8 + f) ((e : Int) - 10), 0)

/-- An element times its block's scale, exactly (R22): value and flags. -/
def scaleBy (x sc : Val) : Val × Nat :=
  match x, sc with
  | .nan s, _ => (.nan s, 0)
  | .inf _, .nan _ => (.nan false, fNV)
  | .fin _ _ _, .nan _ => (.nan false, fNV)
  | .inf n, .inf _ => (.inf n, 0)
  | .inf n, .fin _ m _ => if m = 0 then (.nan false, fNV) else (.inf n, 0)
  | .fin n _ _, .inf _ => (.inf n, 0)
  | .fin n m e, .fin _ m' e' => (.fin n (m * m') (e + e'), 0)

/-- Trit `t` of a ternary byte (R19): −1, 0 or +1. -/
def tritOf (b t : Nat) : Int :=
  if 242 < b then 0
  else
    let d := b / 3 ^ t % 3
    if d = 0 then 0 else if d = 1 then 1 else -1

/-- Whether a ternary byte raises FMT (R19). -/
def tritBad (b : Nat) : Bool := decide (242 < b)

end Sys2Proof.Machine
end

