-- ==== Sys2Proof/Syntax.lean ====
section
/-! DEFINITION. The steps of a Z7 package as syntax: the seven word formats (R54), the parties that issue and
request, the messages and host accesses that reach the package, and `Instr`, one constructor for each row of
spec/opcode_table.json: the instructions of the opcode map (R55) and the events of engines, host and fabric. -/
namespace Sys2Proof

/-- An issuer (R61, R194, R358, R377, R413). Cores count 0 to 255 as 64 × die + 8 × cluster + core, clusters 0 to 31
as 8 × die + cluster. -/
inductive Who where
  | gang (core gid : Nat)
  | stream (core slot : Nat)
  | clusterSeq (cluster : Nat)
  | dieSeq (die : Nat)
  | packageSeq
  deriving DecidableEq, Repr

/-- Where a party is placed (R287). -/
inductive Place where
  | core (n : Nat)
  | cluster (n : Nat)
  | die (n : Nat)
  | package
  deriving DecidableEq, Repr

/-- Who waits for a translation (R387). -/
inductive Requester where
  | lane (core gid entry lane : Nat)
  | ladle (core gid slice q : Nat)
  | line (holder : Place) (line : Nat)
  | header (who : Who)
  | insert (id : Nat)
  | start (pot slot : Nat)
  | copy (id : Nat)
  | remote (id : Nat)
  | packet (seq : Nat)
  | stop (id : Nat)
  | hint
  deriving DecidableEq, Repr

/-- A fabric message (R438). `rsv` says that a reserved bit of the header is set. -/
structure Msg where
  dest : Nat
  src : Nat
  cls : Nat
  hops : Nat
  nonMin : Bool
  half2 : Bool
  op : Nat
  via : Nat
  key : BitVec 32
  eidx : Nat
  tid : Nat
  offset : BitVec 64
  size : Nat
  aop : Nat
  status : Nat
  count : Nat
  lanes : BitVec 32
  rsv : Bool
  data : List Byte
  deriving DecidableEq, Repr

/-- What a system-class message carries (R437): an offset that the PTP messages of a port and domain have measured, the data set that
a master announces there (R394), a pod broadcast (R425, R426), a route event (R435). -/
inductive SysMsg where
  | ptp (port domain : Nat) (offset : Int)
  | announce (port domain dataset : Nat)
  | suspend
  | resume
  | route (d : Nat) (minok direct : Bool) (mid : Nat) (ports : BitVec 36)
  deriving DecidableEq, Repr

/-- A system-class message: its header, and what it carries (R437, R438). -/
structure SystemMsg where
  header : Msg
  body : SysMsg
  deriving DecidableEq, Repr

/-- What the host writes to a register of its window: `len` bytes, of the value `val` (R410). -/
structure HostStore where
  len : Nat
  val : BitVec 64
  deriving DecidableEq, Repr

/-- What one end of a trained link sees, and the digest its peer sends (R432). -/
structure LinkView where
  peer : Nat
  width : Nat
  fast : Bool
  laneMap : List Byte
  peerDigest : BitVec 32
  deriving DecidableEq, Repr

/-- An uncorrectable memory error (R188, R216, R239, R366). `cell` names a byte of the flat memory, `tileRow` a row of
a tile, `copySrc` and `copyDst` the granule an engine's own access meets, `image` the byte of the save area under an image
that is being written (R321). -/
inductive MemError where
  | cell (key : Nat)
  | tileRow (core tile row : Nat)
  | copySrc (id piece : Nat)
  | copyDst (id piece mem : Nat)
  | image (of : Place) (off : Nat)
  deriving DecidableEq, Repr

/-- A host access to package memory through its window (R421). -/
inductive HostAccess where
  | read (addr len : Nat)
  | write (addr : Nat) (bytes : List Byte)
  | fetchAdd (addr : Nat) (v : BitVec 64)
  deriving DecidableEq, Repr

/-- Why a word is not a legal instruction (R57: ILLEGAL), by name. -/
inductive Reject where
  | reservedOpcode
  | reservedField
  | guardNever
  | badType
  | badRounding
  | badRegister
  | badField
  | noImmediate
  | extensionWord
  deriving DecidableEq, Repr

/-- Bits [85:80] of every word: the sync marker and the guard (R46, R47). -/
structure Hdr where
  y : Bool
  g : BitVec 5
  deriving DecidableEq, Repr

/-- The S format (R54). -/
structure SFmt where
  sd : BitVec 6
  sa : BitVec 6
  sb : BitVec 6
  cx : BitVec 4
  ty : BitVec 4
  aux : BitVec 4
  i : Bool
  rsv : BitVec 4
  wid : BitVec 7
  pos : BitVec 6
  imm : BitVec 32
  deriving DecidableEq, Repr

/-- The V format (R54). -/
structure VFmt where
  vd : BitVec 8
  va : BitVec 8
  vb : BitVec 8
  vc : BitVec 8
  ty : BitVec 4
  aux : BitVec 4
  rnd : BitVec 3
  sat : Bool
  i : Bool
  sel : BitVec 3
  imm : BitVec 32
  deriving DecidableEq, Repr

/-- The M format (R54). -/
structure MFmt where
  vt : BitVec 8
  sb : BitVec 6
  vi : BitVec 8
  space : BitVec 3
  q : BitVec 3
  ty : BitVec 4
  aop : BitVec 4
  ord : BitVec 2
  scope : BitVec 3
  w : BitVec 4
  x : Bool
  rsv : BitVec 2
  disp : BitVec 32
  deriving DecidableEq, Repr

/-- The B format (R54). -/
structure BFmt where
  sl : BitVec 6
  cb : BitVec 4
  inv : Bool
  mt : BitVec 4
  st : BitVec 6
  q : BitVec 3
  dim : BitVec 3
  ind : Bool
  rsv : BitVec 4
  disp : BitVec 45
  slot : BitVec 3
  deriving DecidableEq, Repr

/-- The X format (R54). -/
structure XFmt where
  zd : BitVec 4
  za : BitVec 4
  vx : BitVec 8
  vy : BitVec 8
  h : BitVec 4
  ax : BitVec 4
  ay : BitVec 4
  sa : BitVec 6
  sb : BitVec 6
  ty : BitVec 4
  bsel : BitVec 2
  k : BitVec 2
  b : BitVec 4
  lfrom : BitVec 3
  lto : BitVec 3
  aux : BitVec 4
  imm10 : BitVec 10
  deriving DecidableEq, Repr

/-- The L format (R54). -/
structure LFmt where
  lvl : BitVec 3
  se : BitVec 6
  sk : BitVec 6
  sp : BitVec 6
  sd : BitVec 6
  b : BitVec 4
  cd : BitVec 4
  op : BitVec 4
  scope : BitVec 3
  ord : BitVec 2
  c : Bool
  nb : Bool
  ns : Bool
  rsv : Bool
  imm : BitVec 32
  deriving DecidableEq, Repr

/-- The D format (R54). -/
structure DFmt where
  sd : BitVec 6
  sa : BitVec 6
  sv : BitVec 4
  vt : BitVec 8
  gid : BitVec 5
  q : BitVec 3
  csr : BitVec 16
  imm : BitVec 32
  deriving DecidableEq, Repr

/-- One constructor for each row of spec/opcode_table.json. An instruction carries its header and the fields of its
format; `sli` carries its extension word (R53); an event carries what identifies it. -/
inductive Instr where
  /-- SADD (R109): Adds two slice-uniform operands at the type width and writes the wrapped, extended result. -/
  | sadd (h : Hdr) (f : SFmt)
  /-- SSUB (R109): Subtracts two slice-uniform operands at the type width. -/
  | ssub (h : Hdr) (f : SFmt)
  /-- SMUL (R109): Multiplies two slice-uniform operands, keeping the low w bits. -/
  | smul (h : Hdr) (f : SFmt)
  /-- SMULH (R109): Writes the high w bits of the exact 2w-bit product. -/
  | smulh (h : Hdr) (f : SFmt)
  /-- SDIV (R110): Divides rounding toward zero, with defined results for a zero divisor and for overflow. -/
  | sdiv (h : Hdr) (f : SFmt)
  /-- SREM (R110): Writes the remainder that goes with the truncating quotient. -/
  | srem (h : Hdr) (f : SFmt)
  /-- SAND (R109): Bitwise AND at the type width. -/
  | sand (h : Hdr) (f : SFmt)
  /-- SOR (R109): Bitwise OR at the type width. -/
  | sor (h : Hdr) (f : SFmt)
  /-- SXOR (R109): Bitwise XOR at the type width. -/
  | sxor (h : Hdr) (f : SFmt)
  /-- SANDN (R109): Bitwise AND NOT at the type width. -/
  | sandn (h : Hdr) (f : SFmt)
  /-- SSHL (R111): Shifts left with zero fill; an amount of w or more gives zero. -/
  | sshl (h : Hdr) (f : SFmt)
  /-- SSHR (R111): Shifts right with zero fill. -/
  | sshr (h : Hdr) (f : SFmt)
  /-- SSAR (R111): Shifts right, filling with copies of bit w-1. -/
  | ssar (h : Hdr) (f : SFmt)
  /-- SMIN (R109): Writes the minimum, signed or unsigned by type. -/
  | smin (h : Hdr) (f : SFmt)
  /-- SMAX (R109): Writes the maximum, signed or unsigned by type. -/
  | smax (h : Hdr) (f : SFmt)
  /-- SMOV (R109): Moves a register or an immediate, reduced to the type width. -/
  | smov (h : Hdr) (f : SFmt)
  /-- SLI (R53): Loads a 64-bit immediate held across two slots of one line. -/
  | sli (h : Hdr) (f : SFmt) (ext : IWord)
  /-- SPOPC (R109): Counts the one bits of the low w bits. -/
  | spopc (h : Hdr) (f : SFmt)
  /-- SCLZ (R109): Counts the leading zero bits of the low w bits. -/
  | sclz (h : Hdr) (f : SFmt)
  /-- SBFX (R112): Extracts a bit field and extends it by type. -/
  | sbfx (h : Hdr) (f : SFmt)
  /-- SBFI (R112): Inserts a bit field of sa into the destination. -/
  | sbfi (h : Hdr) (f : SFmt)
  /-- SLEA (R109): Computes a + b × 2^pos at the type width. -/
  | slea (h : Hdr) (f : SFmt)
  /-- SCMP (R113): Compares under a condition code and writes a condition flag per slice. -/
  | scmp (h : Hdr) (f : SFmt)
  /-- SSEL (R113): Selects sa or the second source by each slice's copy of a flag. -/
  | ssel (h : Hdr) (f : SFmt)
  /-- MAND (R114): ANDs masks nibble by nibble in the fragment's slices. -/
  | mand (h : Hdr) (f : SFmt)
  /-- MOR (R114): ORs masks in the fragment's slices. -/
  | mor (h : Hdr) (f : SFmt)
  /-- MXOR (R114): XORs masks in the fragment's slices. -/
  | mxor (h : Hdr) (f : SFmt)
  /-- MANDN (R114): ANDs a mask with the complement of another. -/
  | mandn (h : Hdr) (f : SFmt)
  /-- MNOT (R114): Complements a mask in the fragment's slices. -/
  | mnot (h : Hdr) (f : SFmt)
  /-- MPOPC (R114): Counts the one bits of a mask as read into an s register. -/
  | mpopc (h : Hdr) (f : SFmt)
  /-- MFFS (R114): Writes the index of the lowest set mask bit, or 32. -/
  | mffs (h : Hdr) (f : SFmt)
  /-- MGET (R114): Copies a mask as read into an s register. -/
  | mget (h : Hdr) (f : SFmt)
  /-- MPUT (R114): Writes each slice's nibble of a mask from its own copy of an s register. -/
  | mput (h : Hdr) (f : SFmt)
  /-- MMOV (R114): Moves a mask or an immediate into a mask nibble by nibble. -/
  | mmov (h : Hdr) (f : SFmt)
  /-- NOP (R116): Does nothing beyond its step and its Y bit. -/
  | nop (h : Hdr) (f : BFmt)
  /-- BRA (R116): Transfers unconditionally to a checked target. -/
  | bra (h : Hdr) (f : BFmt)
  /-- BRC (R116): Transfers in each slice whose copy of a flag XOR inv is 1, splitting the fragment where slices differ. -/
  | brc (h : Hdr) (f : BFmt)
  /-- BRZ (R116): Transfers the whole fragment when a mask as read is zero. -/
  | brz (h : Hdr) (f : BFmt)
  /-- BRNZ (R116): Transfers the whole fragment when a mask as read is nonzero. -/
  | brnz (h : Hdr) (f : BFmt)
  /-- BRV_ANY (R116): Transfers in each slice having an active lane whose mask bit is set. -/
  | brvAny (h : Hdr) (f : BFmt)
  /-- BRV_ALL (R116): Transfers in each slice where every active lane has its mask bit set. -/
  | brvAll (h : Hdr) (f : BFmt)
  /-- BRL (R117): Transfers on a ladle dimension's end-of-dimension flag. -/
  | brl (h : Hdr) (f : BFmt)
  /-- CALL (R118): Writes the return PC to a link register in taken slices and transfers. -/
  | call (h : Hdr) (f : BFmt)
  /-- RET (R118): Transfers to the PC held in each slice's copy of the link register. -/
  | ret (h : Hdr) (f : BFmt)
  /-- REGANG (R94): Parks the fragment until every live fragment is parked, then fuses fragments grouped by PC. -/
  | regang (h : Hdr) (f : BFmt)
  /-- EXIT (R120): Waits for the fragment's logged accesses and array work, then ends its slices, the stream or the sequencer's record. -/
  | exit (h : Hdr) (f : BFmt)
  /-- TRAP (R122): Raises cause SOFT with a software code. -/
  | trap (h : Hdr) (f : BFmt)
  /-- YIELD (R121): Resets the fragment's AGE and lowers its issue priority for 16 cycles. -/
  | yield (h : Hdr) (f : BFmt)
  /-- VADD (R140): Adds vector elements, wrapping or saturating. -/
  | vadd (h : Hdr) (f : VFmt)
  /-- VSUB (R140): Subtracts vector elements. -/
  | vsub (h : Hdr) (f : VFmt)
  /-- VMUL (R140): Multiplies vector elements. -/
  | vmul (h : Hdr) (f : VFmt)
  /-- VMULH (R140): Writes the high half of each element product. -/
  | vmulh (h : Hdr) (f : VFmt)
  /-- VMAD (R140): Computes a × b + c per element, without intermediate wrap. -/
  | vmad (h : Hdr) (f : VFmt)
  /-- VAND (R140): Bitwise AND per element. -/
  | vand (h : Hdr) (f : VFmt)
  /-- VOR (R140): Bitwise OR per element. -/
  | vor (h : Hdr) (f : VFmt)
  /-- VXOR (R140): Bitwise XOR per element. -/
  | vxor (h : Hdr) (f : VFmt)
  /-- VANDN (R140): Bitwise AND NOT per element. -/
  | vandn (h : Hdr) (f : VFmt)
  /-- VSHL (R141): Shifts elements left, optionally saturating. -/
  | vshl (h : Hdr) (f : VFmt)
  /-- VSHR (R141): Shifts elements right with zero fill. -/
  | vshr (h : Hdr) (f : VFmt)
  /-- VSAR (R141): Shifts elements right with sign fill. -/
  | vsar (h : Hdr) (f : VFmt)
  /-- VMIN (R140): Element minimum by type. -/
  | vmin (h : Hdr) (f : VFmt)
  /-- VMAX (R140): Element maximum by type. -/
  | vmax (h : Hdr) (f : VFmt)
  /-- VABS (R142): Absolute value of signed elements. -/
  | vabs (h : Hdr) (f : VFmt)
  /-- VNEG (R142): Negation of signed elements. -/
  | vneg (h : Hdr) (f : VFmt)
  /-- VCMP (R143): Compares one element position and writes a mask bit per active lane. -/
  | vcmp (h : Hdr) (f : VFmt)
  /-- VSEL (R143): Selects va or vb per lane by a stored mask bit. -/
  | vsel (h : Hdr) (f : VFmt)
  /-- VPOPC (R140): Counts the one bits of each element. -/
  | vpopc (h : Hdr) (f : VFmt)
  /-- VCLZ (R140): Counts the leading zeros of each element. -/
  | vclz (h : Hdr) (f : VFmt)
  /-- VBFX (R144): Extracts a bit field of each element. -/
  | vbfx (h : Hdr) (f : VFmt)
  /-- VBFI (R144): Inserts a bit field into each element. -/
  | vbfi (h : Hdr) (f : VFmt)
  /-- VDOT4 (R142): Adds a four-byte dot product to an INT32 accumulator. -/
  | vdot4 (h : Hdr) (f : VFmt)
  /-- VMOV (R140): Moves a register or an immediate into each active lane. -/
  | vmov (h : Hdr) (f : VFmt)
  /-- VSPL (R145): Splats each slice's copy of an s register into its lanes. -/
  | vspl (h : Hdr) (f : VFmt)
  /-- VFADD (R146): Adds floating-point elements with one rounding. -/
  | vfadd (h : Hdr) (f : VFmt)
  /-- VFSUB (R146): Subtracts floating-point elements. -/
  | vfsub (h : Hdr) (f : VFmt)
  /-- VFMUL (R146): Multiplies floating-point elements. -/
  | vfmul (h : Hdr) (f : VFmt)
  /-- VFMA (R146): Fused multiply-add, a × b + c, with one rounding. -/
  | vfma (h : Hdr) (f : VFmt)
  /-- VFMS (R146): Fused a × b − c. -/
  | vfms (h : Hdr) (f : VFmt)
  /-- VFNMA (R146): Fused −(a × b) + c. -/
  | vfnma (h : Hdr) (f : VFmt)
  /-- VFMIN (R147): Floating minimum with defined NaN handling. -/
  | vfmin (h : Hdr) (f : VFmt)
  /-- VFMAX (R147): Floating maximum with defined NaN handling. -/
  | vfmax (h : Hdr) (f : VFmt)
  /-- VFCMP (R148): Floating comparison writing mask bits. -/
  | vfcmp (h : Hdr) (f : VFmt)
  /-- VFCLASS (R149): Writes a one-hot class of each floating element. -/
  | vfclass (h : Hdr) (f : VFmt)
  /-- VRCP (R150): Correctly rounded reciprocal. -/
  | vrcp (h : Hdr) (f : VFmt)
  /-- VRSQ (R150): Correctly rounded reciprocal square root. -/
  | vrsq (h : Hdr) (f : VFmt)
  /-- VSQRT (R150): Correctly rounded square root. -/
  | vsqrt (h : Hdr) (f : VFmt)
  /-- VDIV (R150): Correctly rounded division. -/
  | vdiv (h : Hdr) (f : VFmt)
  /-- VEXP2 (R150): Correctly rounded 2^a in FP32. -/
  | vexp2 (h : Hdr) (f : VFmt)
  /-- VLOG2 (R150): Correctly rounded log2 in FP32. -/
  | vlog2 (h : Hdr) (f : VFmt)
  /-- VSIN (R150): Correctly rounded sin(π × a). -/
  | vsin (h : Hdr) (f : VFmt)
  /-- VCOS (R150): Correctly rounded cos(π × a). -/
  | vcos (h : Hdr) (f : VFmt)
  /-- VFRND (R151): Rounds each element to an integral value in the selected mode. -/
  | vfrnd (h : Hdr) (f : VFmt)
  /-- VFTRUNC (R151): Rounds each element toward zero to an integral value. -/
  | vftrunc (h : Hdr) (f : VFmt)
  /-- VFSCALE (R151): Computes a × 2^n with one rounding. -/
  | vfscale (h : Hdr) (f : VFmt)
  /-- VCVT (R152): Converts one element per lane between formats. -/
  | vcvt (h : Hdr) (f : VFmt)
  /-- VPACK (R153): Converts a run of registers into packed narrow elements. -/
  | vpack (h : Hdr) (f : VFmt)
  /-- VUNPACK (R153): Widens packed elements, or decodes ternary, into a run of registers. -/
  | vunpack (h : Hdr) (f : VFmt)
  /-- VQUANT (R155): Derives a block scale over the active lanes, writes it and quantises the block. -/
  | vquant (h : Hdr) (f : VFmt)
  /-- VDEQ (R154): Dequantises an element by its block scale exactly. -/
  | vdeq (h : Hdr) (f : VFmt)
  /-- VSCALE (R154): Divides by a block scale and converts with saturation. -/
  | vscale (h : Hdr) (f : VFmt)
  /-- QSWAP (R157): Exchanges values within each quad horizontally, vertically or diagonally. -/
  | qswap (h : Hdr) (f : VFmt)
  /-- QBCAST (R157): Broadcasts one quad position within each quad. -/
  | qbcast (h : Hdr) (f : VFmt)
  /-- VSHFL (R159): Shuffles lanes by index, up, down or xor. -/
  | vshfl (h : Hdr) (f : VFmt)
  /-- VBCAST (R158): Broadcasts one lane to all active lanes. -/
  | vbcast (h : Hdr) (f : VFmt)
  /-- VRED (R160): Reduces over the active lanes in a fixed tree. -/
  | vred (h : Hdr) (f : VFmt)
  /-- VSCAN (R161): Inclusive or exclusive scan over the active lanes. -/
  | vscan (h : Hdr) (f : VFmt)
  /-- VBALLOT (R162): Writes a bit mask of the nonzero active lanes to an s register. -/
  | vballot (h : Hdr) (f : VFmt)
  /-- VELECT (R162): Marks the first active lane of each distinct value. -/
  | velect (h : Hdr) (f : VFmt)
  /-- VCOMPACT (R162): Packs the selected active lanes into the first active lanes. -/
  | vcompact (h : Hdr) (f : VFmt)
  /-- VLD (R167): Loads consecutive 4- or 8-byte elements per lane, committing at the next marker. -/
  | vld (h : Hdr) (f : MFmt)
  /-- VST (R167): Stores consecutive elements per active lane. -/
  | vst (h : Hdr) (f : MFmt)
  /-- VLDX (R167): Gathers one element per lane at indexed addresses. -/
  | vldx (h : Hdr) (f : MFmt)
  /-- VSTX (R167): Scatters one element per lane at indexed addresses. -/
  | vstx (h : Hdr) (f : MFmt)
  /-- FLD (R167): Loads from die SRAM or package memory per lane. -/
  | fld (h : Hdr) (f : MFmt)
  /-- FST (R167): Stores to die SRAM or package memory per lane. -/
  | fst (h : Hdr) (f : MFmt)
  /-- SLD (R169): Loads one value into each slice's copy of an s register. -/
  | sld (h : Hdr) (f : MFmt)
  /-- SST (R169): Stores each slice's copy of an s register. -/
  | sst (h : Hdr) (f : MFmt)
  /-- VATOM (R170): Performs one read-modify-write per active lane, returning the old value. -/
  | vatom (h : Hdr) (f : MFmt)
  /-- SATOM (R170): Performs one read-modify-write per group of agreeing slices. -/
  | satom (h : Hdr) (f : MFmt)
  /-- LADLE (R176): Reads a walk descriptor and binds a ladle to it at the next marker. -/
  | ladle (h : Hdr) (f : MFmt)
  /-- LDRAIN (R180): Unbinds a ladle and discards its fetched elements. -/
  | ldrain (h : Hdr) (f : MFmt)
  /-- PREF (R190): Asks the die to translate and bring granules toward the core. -/
  | pref (h : Hdr) (f : MFmt)
  /-- RLD (R444): Loads elements from a peer's exported window. -/
  | rld (h : Hdr) (f : MFmt)
  /-- RST (R445): Stores, or reduce-stores, elements into a peer's window. -/
  | rst (h : Hdr) (f : MFmt)
  /-- RATOM (R444): Performs an atomic in a peer's window, returning the old value. -/
  | ratom (h : Hdr) (f : MFmt)
  /-- RCAS (R444): Compare-and-swap, 4 to 16 bytes, in a peer's window. -/
  | rcas (h : Hdr) (f : MFmt)
  /-- RSIG (R447): Releases at pod scope and sends a tagged message to a peer's context. -/
  | rsig (h : Hdr) (f : MFmt)
  /-- LAUNCH_CORE (R197): Forks up to 16 gangs of the block, all or nothing. -/
  | launchCore (h : Hdr) (f : LFmt)
  /-- LAUNCH_STOCKPOT (R334): Reads a record image and inserts it into the stockpot of a level from cluster to pod. -/
  | launchStockpot (h : Hdr) (f : LFmt)
  /-- JOIN_CORE (R201): Waits until no gang of the named join groups is live, then reports failures. -/
  | joinCore (h : Hdr) (f : LFmt)
  /-- JOIN_STOCKPOT (R350): Waits until a group's count in a stockpot reaches zero. -/
  | joinStockpot (h : Hdr) (f : LFmt)
  /-- BAR (R207): Arrives at a barrier and waits for the phase to flip. -/
  | bar (h : Hdr) (f : LFmt)
  /-- BARA (R207): Arrives at a barrier and continues. -/
  | bara (h : Hdr) (f : LFmt)
  /-- BARW (R207): Waits for the flip that closes the issuer's latest unconsumed arrival. -/
  | barw (h : Hdr) (f : LFmt)
  /-- COPY (R212): Queues a bulk copy between adjacent levels that adds its bytes to a barrier. -/
  | copy (h : Hdr) (f : XFmt)
  /-- MCAST (R363): Queues a multicast from cluster memory into the scratch of member cores. -/
  | mcast (h : Hdr) (f : XFmt)
  /-- CWAIT (R217): Waits until at most n copies of the issuer are outstanding and returns a completion record. -/
  | cwait (h : Hdr) (f : XFmt)
  /-- REDUCE (R369): Contributes a value to a keyed reduction in a stockpot of level 2 to 4. -/
  | reduce (h : Hdr) (f : LFmt)
  /-- REDUCE_POD (R454): Contributes to a pod-wide two-level reduction rooted at the package named by the key. -/
  | reducePod (h : Hdr) (f : LFmt)
  /-- FENCE (R296): Parks until earlier accesses are performed at its scope, acting as release or acquire. -/
  | fence (h : Hdr) (f : LFmt)
  /-- BIND (R297): Binds a memory region to a barrier or a word of the context. -/
  | bind (h : Hdr) (f : LFmt)
  /-- UNBIND (R297): Removes a binding, or every binding of an object. -/
  | unbind (h : Hdr) (f : LFmt)
  /-- ARM_AT (R395): Copies a record image into a time arm entry of the die. -/
  | armAt (h : Hdr) (f : LFmt)
  /-- ARM_TAG (R395): Copies a record image into a tag arm entry, one-shot or persistent. -/
  | armTag (h : Hdr) (f : LFmt)
  /-- DISARM (R401): Removes a live arm entry named by its handle. -/
  | disarm (h : Hdr) (f : LFmt)
  /-- MMA (R229): Queues a 64 × 64 matrix multiply into an accumulator tile. -/
  | mma (h : Hdr) (f : XFmt)
  /-- MMAS (R229): Queues a block-scaled matrix multiply. -/
  | mmas (h : Hdr) (f : XFmt)
  /-- MMAT (R229): Queues an INT8 × ternary matrix multiply. -/
  | mmat (h : Hdr) (f : XFmt)
  /-- HLD (R232): Loads and checks a weight image into a weight slot. -/
  | hld (h : Hdr) (f : XFmt)
  /-- ZCLR (R235): Clears an accumulator tile. -/
  | zclr (h : Hdr) (f : XFmt)
  /-- ZLD (R235): Loads a tile row by row from memory. -/
  | zld (h : Hdr) (f : XFmt)
  /-- ZLD_A (R235): Loads an array lane register of the stream. -/
  | zldA (h : Hdr) (f : XFmt)
  /-- ZLD_K (R235): Loads a permutation register. -/
  | zldK (h : Hdr) (f : XFmt)
  /-- ZST (R235): Stores a tile row by row, optionally counting bytes on a barrier. -/
  | zst (h : Hdr) (f : XFmt)
  /-- ZST_A (R235): Stores an array lane register. -/
  | zstA (h : Hdr) (f : XFmt)
  /-- ZST_K (R235): Stores a permutation register. -/
  | zstK (h : Hdr) (f : XFmt)
  /-- ZEPI (R237): Scales, biases, activates and converts a tile, then stores it row by row. -/
  | zepi (h : Hdr) (f : XFmt)
  /-- MWAIT (R240): Waits until at most n array instructions of the issuer are outstanding. -/
  | mwait (h : Hdr) (f : XFmt)
  /-- FACT_LU (R253): Queues a pivoted LU factorisation of a tile region. -/
  | factLu (h : Hdr) (f : XFmt)
  /-- FACT_CH (R255): Queues a Cholesky factorisation of a tile region. -/
  | factCh (h : Hdr) (f : XFmt)
  /-- FACT_QR (R256): Queues a Householder QR factorisation delivering τ. -/
  | factQr (h : Hdr) (f : XFmt)
  /-- TRSM (R259): Queues a triangular solve that overwrites B with X. -/
  | trsm (h : Hdr) (f : XFmt)
  /-- QAPPLY (R258): Queues the application of Q or Qᵀ from stored reflectors. -/
  | qapply (h : Hdr) (f : XFmt)
  /-- PERM (R261): Queues the row interchanges recorded in a permutation register. -/
  | perm (h : Hdr) (f : XFmt)
  /-- ZTR (R260): Queues a tile update C ∓ A × B. -/
  | ztr (h : Hdr) (f : XFmt)
  /-- SVSET (R274): Writes a sieve's descriptor and operands and clears its count. -/
  | svset (h : Hdr) (f : DFmt)
  /-- SVCLR (R274): Disables the sieves named by a mask. -/
  | svclr (h : Hdr) (f : DFmt)
  /-- DGET (R277): Reads a stopped register of a target gang. -/
  | dget (h : Hdr) (f : DFmt)
  /-- DPUT (R277): Writes a stopped register of a target gang. -/
  | dput (h : Hdr) (f : DFmt)
  /-- DSTEP (R278): Runs a halted target for n steps, then stops it again. -/
  | dstep (h : Hdr) (f : DFmt)
  /-- DRUN (R278): Makes a halted target eligible with no step limit. -/
  | drun (h : Hdr) (f : DFmt)
  /-- DSTAT (R277): Reads a split-table entry, a halt PC or GDBG of a target gang. -/
  | dstat (h : Hdr) (f : DFmt)
  /-- MARK (R282): Writes a MARK trace record. -/
  | mark (h : Hdr) (f : DFmt)
  /-- TRACE (R282): Writes a TRACE record with a value and a tag. -/
  | trace (h : Hdr) (f : DFmt)
  /-- CSRR (R129): Reads a control register into an s register. -/
  | csrr (h : Hdr) (f : DFmt)
  /-- CSRW (R129): Writes a control register by that register's write rule. -/
  | csrw (h : Hdr) (f : DFmt)
  /-- GROW (R101): Requests more vector registers, granting, blocking or failing. -/
  | grow (h : Hdr) (f : DFmt)
  /-- SHRINK (R101): Gives up vector registers to the core pool. -/
  | shrink (h : Hdr) (f : DFmt)
  /-- TRAPRET.next (R125): Restores the split table and latency image and resumes at TEPC or after it. -/
  | trapret (h : Hdr) (f : DFmt)
  /-- PROG (R132): Writes the block's progress estimate. -/
  | prog (h : Hdr) (f : DFmt)
  /-- CLOCK (R133): Samples the cycle count or the die time base. -/
  | clock (h : Hdr) (f : DFmt)
  /-- IDLE (R135): Parks the issuer until a barrier flip, a time limit or a stop. -/
  | idle (h : Hdr) (f : DFmt)
  /-- RESERVED_OPCODE (R55): Issue of a word whose opcode is unassigned, or of the SLI extension word reached on its own, raises ILLEGAL. -/
  | reservedOpcode (w : IWord)
  /-- CORE_CYCLE (R105): Each core cycle ages eligible fragments that do not issue, ends YIELD windows and adds to the stall histograms. -/
  | coreCycle (core : Nat) (issued : List (Who × Nat))
  /-- ROW_PERFORMED (R237): The core's store path performs an accepted ZST or ZEPI row, adding its bytes to the barrier under .bar. -/
  | rowPerformed (core row : Nat)
  /-- INSERT (R336): An insert arrives at a stockpot and combines, is refused or creates a record. -/
  | insert (id : Nat)
  /-- STOCKPOT_RETRY (R338): A stalled insert, firing or packet is attempted afresh when the stockpot's state changes. -/
  | stockpotRetry (id : Nat)
  /-- DISPATCH (R345): A stockpot takes its first eligible placeable record and hands it to a runner or a lower stockpot. -/
  | dispatch (pot : Nat)
  /-- RECORD_START (R341): After its header read, a TAKEN record starts at ENTRY or retires in error. -/
  | recordStart (pot slot : Nat)
  /-- RECORD_RETIRE (R341): A record retires, freeing its slot and reporting to its group. -/
  | recordRetire (pot slot : Nat)
  /-- BLOCK_RETIRE (R202): A block whose stream, gangs and copies have all finished retires and reports its status. -/
  | blockRetire (core slot : Nat)
  /-- POOL_GRANT (R102): Freed registers grant the oldest waiting GROW or blocked launch. -/
  | poolGrant (core : Nat)
  /-- GROW_FAIL (R102): When every resident gang is GROW-blocked, the youngest waiting request fails. -/
  | growFail (core : Nat)
  /-- IDLE_TIMEOUT (R135): An IDLE's cycle limit elapses and the issuer wakes. -/
  | idleTimeout (who : Who)
  /-- LINE_FETCH (R43): A fetched line returns and is checked, refetched or faulted. -/
  | lineFetch (holder : Place) (ctx line : Nat)
  /-- ACCESS_RETURN (R183): A logged access's data returns or a store is accepted, freeing the entry when complete. -/
  | accessReturn (core gid entry : Nat) (lanes : BitVec 32)
  /-- LADLE_FETCH (R179): A ladle fetches an element of its walk ahead of use. -/
  | ladleFetch (core gid slice q ahead : Nat)
  /-- WALK (R385): A walker reads table entries and yields a translation or a replayable fault. -/
  | walk (die ctx page : Nat) (kind : Nat) (req : Requester)
  /-- FILL (R389): A FILL resolution makes every requester of the entry walk again. -/
  | fill (die : Nat) (fid : BitVec 32)
  /-- DENY (R389): A DENY resolution fails every requester of the entry. -/
  | deny (die : Nat) (fid : BitVec 32)
  /-- COPY_PIECE (R215): An engine performs one 16-byte piece of a copy and adds its bytes to the barrier. -/
  | copyPiece (id piece mem : Nat)
  /-- ARRAY_STEP (R241): The array completes one chunk, row or column step of the head instruction. -/
  | arrayStep (core : Nat)
  /-- PREEMPT_REQUEST (R312): A pre-emption request reaches a core and each block is flushed, drained or saved. -/
  | preemptRequest (core kind : Nat)
  /-- QUANTUM_EXPIRY (R311): A context's quantum expires and pre-empts the core or restarts. -/
  | quantumExpiry (core : Nat)
  /-- BUDGET_EXPIRY (R315): A draining block not retired when BUDGET expires is converted to save. -/
  | budgetExpiry (core slot : Nat)
  /-- CORE_IMAGE_SAVE (R318): Once every block is treated, the core captures its shared state and writes its tagged image. -/
  | coreImageSave (core : Nat)
  /-- RESTORE (R325): A saved image is checked and restored onto a free core. -/
  | restore (image core : Nat)
  /-- CLUSTER_OWNERSHIP_PASS (R355): The cluster's owner's memory and state are saved when ownership passes. -/
  | clusterOwnershipPass (cluster : Nat)
  /-- DIE_OWNERSHIP_PASS (R375): The die's owner's SRAM and state are saved as a die image when ownership passes. -/
  | dieOwnershipPass (die : Nat)
  /-- SCALES_PERIOD (R391): Each period the scales compare surpluses and may issue a migration command. -/
  | scalesPeriod (die : Nat) (dies : Bool)
  /-- MIGRATION (R348): A waiting record is transferred between stockpots and may combine at the destination. -/
  | migration (die : Nat) (dies : Bool)
  /-- ARM_TIME_FIRE (R398): A time arm reaches its time and inserts its record. -/
  | armTimeFire (die entry : Nat)
  /-- ARM_TAG_FIRE (R398): A tagged message matches a tag arm and inserts its record, or is refused. -/
  | armTagFire (ctx : Nat) (tag : BitVec 32) (payload : BitVec 64)
  /-- REDUCE_TIMEOUT (R372): A reduction record's timeout elapses and completes it with TIMEOUT. -/
  | reduceTimeout (pot slot : Nat)
  /-- INTERMEDIATE_FLUSH (R455): A pod intermediate record's timeout elapses and sends its partial. -/
  | intermediateFlush (slot : Nat)
  /-- REDUCTION_PARTIAL (R455): A partial arrives at the root and folds into the root record. -/
  | reductionPartial (m : Msg)
  /-- REDUCTION_RESULT (R456): The root's result arrives at an intermediate record for its contributors. -/
  | reductionResult (m : Msg)
  /-- REMOTE_REQUEST (R442): A remote request arrives at its target and is checked, translated and performed. -/
  | remoteRequest (m : Msg)
  /-- REMOTE_RESPONSE (R448): A response returns to the requester, completing or refusing lanes. -/
  | remoteResponse (m : Msg)
  /-- RESPONSE_TIMEOUT (R448): No response within RTIME makes the lanes fail as NOPEER. -/
  | responseTimeout (tid : Nat)
  /-- RETRY_RESEND (R459): Lanes answered RETRY are sent again every 1 ms. -/
  | retryResend (tid : Nat)
  /-- REMOTE_INSERT (R450): A pod-level insert arrives at the target package stockpot. -/
  | remoteInsert (m : Msg)
  /-- REMOTE_INSERT_RESEND (R450): A requester resends a remote insert every 1 µs while the target queue is full. -/
  | remoteInsertResend (tid : Nat)
  /-- REMOTE_JOIN (R451): A pod-level JOIN request waits for a group in a peer's stockpot. -/
  | remoteJoin (m : Msg)
  /-- SAMPLE (R283): Every 2^SP cycles the core records a sample of the next gang. -/
  | sample (core : Nat)
  /-- FXREVOKE (R441): Completes the revocation of an export entry. -/
  | fxrevoke (e : Nat)
  /-- PORT_DGET (R477): The host debug port performs DGET on a core. -/
  | portDget (core : Nat)
  /-- PORT_DPUT (R477): The host debug port performs DPUT on a core. -/
  | portDput (core : Nat)
  /-- PORT_DSTEP (R477): The host debug port steps a halted target. -/
  | portDstep (core : Nat)
  /-- PORT_DRUN (R477): The host debug port releases a halted target. -/
  | portDrun (core : Nat)
  /-- PORT_DSTAT (R477): The host debug port reads debug status of a gang. -/
  | portDstat (core : Nat)
  /-- PORT_BADOP (R477): A DOPHI write whose word names an opcode outside 0x342 to 0x346, or has a nonzero guard or Y, returns STATUS 7 BADOP. -/
  | portBadop (core : Nat)
  /-- DOORBELL (R414): A write to a queue's doorbell prompts a read of WI. -/
  | doorbell (q : Nat)
  /-- WI_POLL (R414): The package rereads a queue's WI every 10 µs. -/
  | wiPoll (q : Nat)
  /-- PACKET_LAUNCH (R417): An accepted LAUNCH packet inserts its image into the package stockpot. -/
  | packetLaunch (q : Nat)
  /-- PACKET_COPY (R417): An accepted COPY packet moves bytes through the package copy engine. -/
  | packetCopy (q : Nat)
  /-- PACKET_ARM (R417): An accepted ARM packet makes an arm on die 0. -/
  | packetArm (q : Nat)
  /-- PACKET_SIGNAL (R417): An accepted SIGNAL packet stores or adds a value at a word. -/
  | packetSignal (q : Nat)
  /-- PACKET_FENCE (R417): A FENCE packet waits for earlier packets to reach final status. -/
  | packetFence (q : Nat)
  /-- PACKET_SKIP (R414): A SKIP packet is accepted with status 0 and no other effect. -/
  | packetSkip (q : Nat)
  /-- COMPLETION_RECORD (R419): A packet reaching final status updates the journal and writes its completion record. -/
  | completionRecord (seq : Nat)
  /-- JRD_WRITE (R420): The host advances JRD, letting queues accept packets again. -/
  | jrdWrite (v : BitVec 64)
  /-- FRRD_WRITE (R412): The host's write to FRRD frees fault-ring room and writes unreported faults. -/
  | frrdWrite (ctx : Nat) (v : BitVec 64)
  /-- CREATE (R408): Creates a context from its descriptor and draws its keys. -/
  | create (ctx : Nat)
  /-- DESTROY (R408): Discards a context's work and erases its keys. -/
  | destroy (ctx : Nat)
  /-- RESET (R408): Destroys a context and creates it again from the same descriptor. -/
  | reset (ctx : Nat)
  /-- REVOKE (R408): Revokes a context's key and faults the context. -/
  | revoke (ctx : Nat)
  /-- SWITCH (R408): Pre-empts every core of a context with PKIND 3. -/
  | switch (ctx : Nat)
  /-- SUSPEND (R425): Saves all package state and puts HBM into retention. -/
  | suspend
  /-- POD_SUSPEND (R425): Suspends the package and broadcasts suspend to every package of the pod. -/
  | podSuspend
  /-- RESUME (R426): Restores the package image, dies, clusters and cores and restarts queues. -/
  | resume
  /-- POD_RESUME (R426): Resumes the package and broadcasts resume to the pod. -/
  | podResume
  /-- SYSTEM_MESSAGE (R437): A system-class message arrives: PTP, suspend or resume broadcast, or route event. -/
  | systemMessage (m : SystemMsg)
  /-- TINV_RANGE (R386): Invalidates cached translations of a virtual range of one context. -/
  | tinvRange (ctx : Nat) (va : BitVec 64) (len : Nat)
  /-- TINV_CONTEXT (R386): Invalidates every cached translation and window entry of one context. -/
  | tinvContext (ctx : Nat)
  /-- TINV_ALL (R386): Invalidates every cached translation of every context. -/
  | tinvAll
  /-- SCCMD (R392): A host migration command moves records between stockpots. -/
  | sccmd (die : Nat) (v : BitVec 64)
  /-- ELPOP (R390): Frees the oldest die error-log entry. -/
  | elpop (die : Nat)
  /-- PELPOP (R422): Frees the oldest package error-log entry. -/
  | pelpop
  /-- HCTL_CLR (R285): Clears every stall histogram register. -/
  | hctlClr (core : Nat)
  /-- LOGCTL_DROP (R186): Marks the reported faulting lanes to be abandoned at TRAPRET. -/
  | logctlDrop (core gid : Nat)
  /-- PORT_ENABLE (R431): Setting PORTCTL.EN clears FAILS and REASON and starts DETECT. -/
  | portEnable (n : Nat)
  /-- PORT_DISABLE (R431): Clearing PORTCTL.EN moves the port to DISABLED with REASON 4. -/
  | portDisable (n : Nat)
  /-- DETECT (R431): Every 10 ms a port looks for a receiver and starts training on finding one. -/
  | detect (n : Nat) (found : Bool)
  /-- LINK_UP (R431): The data link comes up and the ends exchange parameters and digests. -/
  | linkUp (n : Nat) (p : LinkView)
  /-- TRAINING_TIMEOUT (R431): A training attempt fails after 100 ms and falls back or goes DOWN. -/
  | trainingTimeout (n : Nat)
  /-- RETRAIN (R431): An active data link requests retraining. -/
  | retrain (n : Nat)
  /-- UNCORRECTABLE_ERROR (R188): An uncorrectable memory error poisons its granule and is logged. -/
  | uncorrectableError (e : MemError)
  /-- SCRUB (R406): The patrol scrubber reads, corrects and rewrites lines each period. -/
  | scrub (stack corrected : Nat)
  /-- RAIL_ALARM (R424): A rail alarm or cap breach lowers the arithmetic clock. -/
  | railAlarm (lower : Bool)
  /-- IDLE_GATING (R424): With no context on a core for 10 ms the package enters S2. -/
  | idleGating
  /-- PACKAGE_RESET (R423): At reset the boot chain verifies and measures firmware. -/
  | packageReset (boots : Bool)
  /-- SPDM_REQUEST (R423): An SPDM request over DOE is answered for attestation. -/
  | spdmRequest (code : BitVec 8)
  /-- HOST_REGISTER_WRITE (R410): A host write to a window register without behaviour of its own. -/
  | hostRegisterWrite (off : Nat) (v : HostStore)
  /-- HOST_MEMORY_ACCESS (R421): The host reads or writes package memory through its memory window, including WI atomics and queue slot writes, with poison and reserved-region refusal. -/
  | hostMemoryAccess (a : HostAccess)
  /-- HOST_LINK_TRAINING (R421): The host link trains to the highest mode both ends support, choosing CXL 3.1, CXL 2.0 or PCIe 6.0 and its width. -/
  | hostLinkTraining (mode width : Nat)
  /-- PRECISION_TIME_MEASUREMENT (R393): A PCIe PTM exchange from the host corrects the time base when TBCFG.SRC is 2. -/
  | precisionTimeMeasurement (t : BitVec 64)
  /-- MESSAGE_RELAY (R436): A fabric message arriving at an intermediate package is relayed on its next hop's channel, or answered RETRY when its destination is in S3. -/
  | messageRelay (m : Msg)
  /-- FABID_WRITE (R431): Writing FABID while PORTCTL.EN is 1 moves disabled ports to DETECT. -/
  | fabidWrite (v : BitVec 64)
  /-- QUEUE_ENABLE (R415): A write setting a queue descriptor's EN is checked against VER, QSIZE, CRSIZE and a LIVE CTX and enables the queue or is ignored. -/
  | queueEnable (q : Nat)
  /-- DEBUG_HOLD (R310): A debug hold through the host debug port pre-empts the context's cores with PKIND 3. -/
  | debugHold (core : Nat)
  deriving DecidableEq, Repr

end Sys2Proof
end

