-- ==== Sys2Proof/Machine/Form.lean ====
section
/-! DEFINITION. The opcode, header and format fields of every instruction (R46, R54, R55): what the encoder writes, the
decoder reads and the legality checks judge. Events have no word. -/
namespace Sys2Proof

/-- The fields behind the header, by format (R54). -/
inductive Body where
  | s (f : SFmt)
  | sli (f : SFmt) (ext : IWord)
  | v (f : VFmt)
  | m (f : MFmt)
  | b (f : BFmt)
  | x (f : XFmt)
  | l (f : LFmt)
  | d (f : DFmt)
  deriving DecidableEq, Repr

/-- Opcode, header and fields of a word instruction (R55); none for an event and for an unassigned opcode. -/
def Instr.form : Instr → Option (Nat × Hdr × Body)
  | .sadd h f => some (0x000, h, .s f)
  | .ssub h f => some (0x001, h, .s f)
  | .smul h f => some (0x002, h, .s f)
  | .smulh h f => some (0x003, h, .s f)
  | .sdiv h f => some (0x004, h, .s f)
  | .srem h f => some (0x005, h, .s f)
  | .sand h f => some (0x006, h, .s f)
  | .sor h f => some (0x007, h, .s f)
  | .sxor h f => some (0x008, h, .s f)
  | .sandn h f => some (0x009, h, .s f)
  | .sshl h f => some (0x00A, h, .s f)
  | .sshr h f => some (0x00B, h, .s f)
  | .ssar h f => some (0x00C, h, .s f)
  | .smin h f => some (0x00D, h, .s f)
  | .smax h f => some (0x00E, h, .s f)
  | .smov h f => some (0x00F, h, .s f)
  | .sli h f ext => some (0x010, h, .sli f ext)
  | .spopc h f => some (0x011, h, .s f)
  | .sclz h f => some (0x012, h, .s f)
  | .sbfx h f => some (0x013, h, .s f)
  | .sbfi h f => some (0x014, h, .s f)
  | .slea h f => some (0x015, h, .s f)
  | .scmp h f => some (0x040, h, .s f)
  | .ssel h f => some (0x041, h, .s f)
  | .mand h f => some (0x080, h, .s f)
  | .mor h f => some (0x081, h, .s f)
  | .mxor h f => some (0x082, h, .s f)
  | .mandn h f => some (0x083, h, .s f)
  | .mnot h f => some (0x084, h, .s f)
  | .mpopc h f => some (0x085, h, .s f)
  | .mffs h f => some (0x086, h, .s f)
  | .mget h f => some (0x087, h, .s f)
  | .mput h f => some (0x088, h, .s f)
  | .mmov h f => some (0x089, h, .s f)
  | .nop h f => some (0x0C0, h, .b f)
  | .bra h f => some (0x0C1, h, .b f)
  | .brc h f => some (0x0C2, h, .b f)
  | .brz h f => some (0x0C3, h, .b f)
  | .brnz h f => some (0x0C4, h, .b f)
  | .brvAny h f => some (0x0C5, h, .b f)
  | .brvAll h f => some (0x0C6, h, .b f)
  | .brl h f => some (0x0C7, h, .b f)
  | .call h f => some (0x0C8, h, .b f)
  | .ret h f => some (0x0C9, h, .b f)
  | .regang h f => some (0x0CA, h, .b f)
  | .exit h f => some (0x0CB, h, .b f)
  | .trap h f => some (0x0CC, h, .b f)
  | .yield h f => some (0x0CD, h, .b f)
  | .vadd h f => some (0x100, h, .v f)
  | .vsub h f => some (0x101, h, .v f)
  | .vmul h f => some (0x102, h, .v f)
  | .vmulh h f => some (0x103, h, .v f)
  | .vmad h f => some (0x104, h, .v f)
  | .vand h f => some (0x105, h, .v f)
  | .vor h f => some (0x106, h, .v f)
  | .vxor h f => some (0x107, h, .v f)
  | .vandn h f => some (0x108, h, .v f)
  | .vshl h f => some (0x109, h, .v f)
  | .vshr h f => some (0x10A, h, .v f)
  | .vsar h f => some (0x10B, h, .v f)
  | .vmin h f => some (0x10C, h, .v f)
  | .vmax h f => some (0x10D, h, .v f)
  | .vabs h f => some (0x10E, h, .v f)
  | .vneg h f => some (0x10F, h, .v f)
  | .vcmp h f => some (0x110, h, .v f)
  | .vsel h f => some (0x111, h, .v f)
  | .vpopc h f => some (0x112, h, .v f)
  | .vclz h f => some (0x113, h, .v f)
  | .vbfx h f => some (0x114, h, .v f)
  | .vbfi h f => some (0x115, h, .v f)
  | .vdot4 h f => some (0x116, h, .v f)
  | .vmov h f => some (0x117, h, .v f)
  | .vspl h f => some (0x118, h, .v f)
  | .vfadd h f => some (0x140, h, .v f)
  | .vfsub h f => some (0x141, h, .v f)
  | .vfmul h f => some (0x142, h, .v f)
  | .vfma h f => some (0x143, h, .v f)
  | .vfms h f => some (0x144, h, .v f)
  | .vfnma h f => some (0x145, h, .v f)
  | .vfmin h f => some (0x146, h, .v f)
  | .vfmax h f => some (0x147, h, .v f)
  | .vfcmp h f => some (0x148, h, .v f)
  | .vfclass h f => some (0x149, h, .v f)
  | .vrcp h f => some (0x14A, h, .v f)
  | .vrsq h f => some (0x14B, h, .v f)
  | .vsqrt h f => some (0x14C, h, .v f)
  | .vdiv h f => some (0x14D, h, .v f)
  | .vexp2 h f => some (0x14E, h, .v f)
  | .vlog2 h f => some (0x14F, h, .v f)
  | .vsin h f => some (0x150, h, .v f)
  | .vcos h f => some (0x151, h, .v f)
  | .vfrnd h f => some (0x152, h, .v f)
  | .vftrunc h f => some (0x153, h, .v f)
  | .vfscale h f => some (0x154, h, .v f)
  | .vcvt h f => some (0x180, h, .v f)
  | .vpack h f => some (0x181, h, .v f)
  | .vunpack h f => some (0x182, h, .v f)
  | .vquant h f => some (0x183, h, .v f)
  | .vdeq h f => some (0x184, h, .v f)
  | .vscale h f => some (0x185, h, .v f)
  | .qswap h f => some (0x1C0, h, .v f)
  | .qbcast h f => some (0x1C1, h, .v f)
  | .vshfl h f => some (0x1C2, h, .v f)
  | .vbcast h f => some (0x1C3, h, .v f)
  | .vred h f => some (0x1C4, h, .v f)
  | .vscan h f => some (0x1C5, h, .v f)
  | .vballot h f => some (0x1C6, h, .v f)
  | .velect h f => some (0x1C7, h, .v f)
  | .vcompact h f => some (0x1C8, h, .v f)
  | .vld h f => some (0x200, h, .m f)
  | .vst h f => some (0x201, h, .m f)
  | .vldx h f => some (0x202, h, .m f)
  | .vstx h f => some (0x203, h, .m f)
  | .fld h f => some (0x20B, h, .m f)
  | .fst h f => some (0x20C, h, .m f)
  | .sld h f => some (0x204, h, .m f)
  | .sst h f => some (0x205, h, .m f)
  | .vatom h f => some (0x206, h, .m f)
  | .satom h f => some (0x207, h, .m f)
  | .ladle h f => some (0x208, h, .m f)
  | .ldrain h f => some (0x209, h, .m f)
  | .pref h f => some (0x20A, h, .m f)
  | .rld h f => some (0x240, h, .m f)
  | .rst h f => some (0x241, h, .m f)
  | .ratom h f => some (0x242, h, .m f)
  | .rcas h f => some (0x243, h, .m f)
  | .rsig h f => some (0x244, h, .m f)
  | .launchCore h f => some (0x280, h, .l f)
  | .launchStockpot h f => some (0x280, h, .l f)
  | .joinCore h f => some (0x281, h, .l f)
  | .joinStockpot h f => some (0x281, h, .l f)
  | .bar h f => some (0x282, h, .l f)
  | .bara h f => some (0x283, h, .l f)
  | .barw h f => some (0x284, h, .l f)
  | .copy h f => some (0x285, h, .x f)
  | .mcast h f => some (0x286, h, .x f)
  | .cwait h f => some (0x287, h, .x f)
  | .reduce h f => some (0x288, h, .l f)
  | .reducePod h f => some (0x288, h, .l f)
  | .fence h f => some (0x289, h, .l f)
  | .bind h f => some (0x28A, h, .l f)
  | .unbind h f => some (0x28B, h, .l f)
  | .armAt h f => some (0x28C, h, .l f)
  | .armTag h f => some (0x28C, h, .l f)
  | .disarm h f => some (0x28D, h, .l f)
  | .mma h f => some (0x2C0, h, .x f)
  | .mmas h f => some (0x2C1, h, .x f)
  | .mmat h f => some (0x2C2, h, .x f)
  | .hld h f => some (0x2C3, h, .x f)
  | .zclr h f => some (0x2C4, h, .x f)
  | .zld h f => some (0x2C5, h, .x f)
  | .zldA h f => some (0x2C5, h, .x f)
  | .zldK h f => some (0x2C5, h, .x f)
  | .zst h f => some (0x2C6, h, .x f)
  | .zstA h f => some (0x2C6, h, .x f)
  | .zstK h f => some (0x2C6, h, .x f)
  | .zepi h f => some (0x2C7, h, .x f)
  | .mwait h f => some (0x2C8, h, .x f)
  | .factLu h f => some (0x300, h, .x f)
  | .factCh h f => some (0x301, h, .x f)
  | .factQr h f => some (0x302, h, .x f)
  | .trsm h f => some (0x303, h, .x f)
  | .qapply h f => some (0x304, h, .x f)
  | .perm h f => some (0x305, h, .x f)
  | .ztr h f => some (0x306, h, .x f)
  | .svset h f => some (0x340, h, .d f)
  | .svclr h f => some (0x341, h, .d f)
  | .dget h f => some (0x342, h, .d f)
  | .dput h f => some (0x343, h, .d f)
  | .dstep h f => some (0x344, h, .d f)
  | .drun h f => some (0x345, h, .d f)
  | .dstat h f => some (0x346, h, .d f)
  | .mark h f => some (0x347, h, .d f)
  | .trace h f => some (0x348, h, .d f)
  | .csrr h f => some (0x380, h, .d f)
  | .csrw h f => some (0x381, h, .d f)
  | .grow h f => some (0x382, h, .d f)
  | .shrink h f => some (0x383, h, .d f)
  | .trapret h f => some (0x384, h, .d f)
  | .prog h f => some (0x385, h, .d f)
  | .clock h f => some (0x386, h, .d f)
  | .idle h f => some (0x387, h, .d f)
  | .insert _ => none
  | .stockpotRetry _ => none
  | .dispatch _ => none
  | .recordStart _ _ => none
  | .recordRetire _ _ => none
  | .blockRetire _ _ => none
  | .poolGrant _ => none
  | .growFail _ => none
  | .idleTimeout _ => none
  | .lineFetch _ _ _ => none
  | .accessReturn _ _ _ _ => none
  | .ladleFetch _ _ _ _ _ => none
  | .walk _ _ _ _ _ => none
  | .fill _ _ => none
  | .deny _ _ => none
  | .copyPiece _ _ _ => none
  | .arrayStep _ => none
  | .preemptRequest _ _ => none
  | .quantumExpiry _ => none
  | .budgetExpiry _ _ => none
  | .coreImageSave _ => none
  | .restore _ _ => none
  | .clusterOwnershipPass _ => none
  | .dieOwnershipPass _ => none
  | .scalesPeriod _ _ => none
  | .migration _ _ => none
  | .armTimeFire _ _ => none
  | .armTagFire _ _ _ => none
  | .reduceTimeout _ _ => none
  | .intermediateFlush _ => none
  | .reductionPartial _ => none
  | .reductionResult _ => none
  | .remoteRequest _ => none
  | .remoteResponse _ => none
  | .responseTimeout _ => none
  | .retryResend _ => none
  | .remoteInsert _ => none
  | .remoteInsertResend _ => none
  | .remoteJoin _ => none
  | .sample _ => none
  | .doorbell _ => none
  | .wiPoll _ => none
  | .packetLaunch _ => none
  | .packetCopy _ => none
  | .packetArm _ => none
  | .packetSignal _ => none
  | .packetFence _ => none
  | .packetSkip _ => none
  | .completionRecord _ => none
  | .jrdWrite _ => none
  | .frrdWrite _ _ => none
  | .create _ => none
  | .destroy _ => none
  | .reset _ => none
  | .revoke _ => none
  | .switch _ => none
  | .suspend => none
  | .podSuspend => none
  | .resume => none
  | .podResume => none
  | .systemMessage _ => none
  | .tinvRange _ _ _ => none
  | .tinvContext _ => none
  | .tinvAll => none
  | .sccmd _ _ => none
  | .fxrevoke _ => none
  | .elpop _ => none
  | .pelpop => none
  | .hctlClr _ => none
  | .logctlDrop _ _ => none
  | .portDget _ => none
  | .portDput _ => none
  | .portDstep _ => none
  | .portDrun _ => none
  | .portDstat _ => none
  | .portEnable _ => none
  | .portDisable _ => none
  | .detect _ _ => none
  | .linkUp _ _ => none
  | .trainingTimeout _ => none
  | .retrain _ => none
  | .uncorrectableError _ => none
  | .scrub _ _ => none
  | .railAlarm _ => none
  | .idleGating => none
  | .packageReset _ => none
  | .spdmRequest _ => none
  | .hostRegisterWrite _ _ => none
  | .reservedOpcode _ => none
  | .coreCycle _ _ => none
  | .rowPerformed _ _ => none
  | .hostMemoryAccess _ => none
  | .hostLinkTraining _ _ => none
  | .precisionTimeMeasurement _ => none
  | .messageRelay _ => none
  | .fabidWrite _ => none
  | .queueEnable _ => none
  | .portBadop _ => none
  | .debugHold _ => none

end Sys2Proof
end

