-- ==== Sys2Proof/Machine/Legal.lean ====
section
/-! DEFINITION. Which words are instructions (R48, R51, R52, R56, R57): reserved fields, types, registers, immediates; which
level operands an issuer may name (R49); which vector registers a word names (R139). Decided from the word and the
issuer alone (R60). -/
namespace Sys2Proof

/-- The three classes of issuer of R56. -/
inductive IssKind where
  | gang
  | stream
  | seq
  deriving DecidableEq, Repr

/-- The first condition that does not hold, by name. -/
def firstBad : List (Bool × Reject) → Option Reject
  | [] => none
  | (ok, r) :: t => if ok then firstBad t else some r

/-- A field that is not used is zero (R51). -/
def z {w : Nat} (x : BitVec w) : Bool × Reject := (x == 0, .reservedField)

/-- A flag that is not used is clear (R51). -/
def zf (b : Bool) : Bool × Reject := (!b, .reservedField)

def tyOk (b : Bool) : Bool × Reject := (b, .badType)
def fldOk (b : Bool) : Bool × Reject := (b, .badField)
def regOk (b : Bool) : Bool × Reject := (b, .badRegister)

/-- Width in bits of an element type (R50). -/
def tyBits (ty : Nat) : Nat :=
  if ty = 0 ∨ ty = 4 ∨ ty = 12 ∨ ty = 13 then 8
  else if ty = 1 ∨ ty = 5 ∨ ty = 10 ∨ ty = 11 then 16
  else if ty = 2 ∨ ty = 6 ∨ ty = 9 then 32
  else if ty = 3 ∨ ty = 7 ∨ ty = 8 then 64
  else if ty = 14 then 4 else 8

/-- Whether a type takes a register pair (R137). -/
def pairTy (ty : Nat) : Bool := ty == 3 || ty == 7 || ty == 8

/-- A vector operand of a 64-bit type is even (R48). -/
def even8 (ty : Nat) (r : BitVec 8) : Bool × Reject := regOk (!(pairTy ty) || r.toNat % 2 == 0)

/-- Groups 0 to 2 (R108 to R114). A register field that imm32 replaces (I = 1) is one that the description names, so that it is
not reserved, and holds no operand, so that any value passes (notes/assumptions 115: DESIGN CHOICE). -/
def legalS (op : Nat) (f : SFmt) : Option Reject :=
  let ty := f.ty.toNat
  let w := tyBits ty
  let common := [z f.rsv, (f.i || f.imm == 0, .reservedField)]
  let noImm : Bool × Reject := (!f.i, .noImmediate)
  let plain := common ++ [tyOk (ty < 8), z f.cx, z f.aux, z f.wid]
  let mask := common ++ [z f.ty, z f.aux, z f.cx, z f.wid, z f.pos]
  let mr := fun (r : BitVec 6) => regOk (r.toNat < 16)
  let mb := regOk (f.i || f.sb.toNat < 16)
  if op ≤ 0x00E then firstBad (plain ++ [z f.pos])
  else if op = 0x00F then firstBad (plain ++ [z f.pos, z f.sb])
  else if op = 0x011 ∨ op = 0x012 then firstBad (plain ++ [noImm, z f.pos, z f.sb])
  else if op = 0x013 ∨ op = 0x014 then
    firstBad (common ++ [noImm, tyOk (ty < 8), z f.cx, z f.aux, z f.sb,
      fldOk (1 ≤ f.wid.toNat && f.wid.toNat ≤ 64 && f.pos.toNat + f.wid.toNat ≤ w)])
  else if op = 0x015 then firstBad plain
  else if op = 0x040 then
    firstBad (common ++ [tyOk (ty < 8), z f.sd, z f.wid, z f.pos, fldOk (f.aux.toNat ≤ 5)])
  else if op = 0x041 then firstBad (common ++ [tyOk (ty == 3), z f.aux, z f.wid, z f.pos])
  else if op ≤ 0x083 then firstBad (mask ++ [mr f.sd, mr f.sa, mb])
  else if op = 0x084 then firstBad (mask ++ [noImm, mr f.sd, mr f.sa, z f.sb])
  else if op ≤ 0x087 then firstBad (mask ++ [noImm, mr f.sa, z f.sb])
  else if op = 0x088 then firstBad (mask ++ [noImm, mr f.sd, z f.sb])
  else firstBad (mask ++ [mr f.sd, z f.sa, mb])

/-- SLI (R53, R109): with I = 0 there would be no imm32 (R52), which is ILLEGAL (notes/assumptions 116: DESIGN CHOICE). -/
def legalSli (f : SFmt) (ext : IWord) : Option Reject :=
  firstBad [z f.rsv, tyOk (f.ty == 3), (f.i, .badField), z f.sa, z f.sb, z f.cx, z f.aux, z f.wid, z f.pos,
            (ext.extractLsb' 32 64 == 0xFFC0000000000000, .extensionWord)]

/-- Group 3 (R116 to R122). -/
def legalB (op : Nat) (f : BFmt) : Option Reject :=
  let none_ := [z f.rsv, z f.cb, zf f.inv, z f.mt, z f.q, z f.dim]
  let tgt := [(if f.ind then f.disp == 0 && f.slot == 0 else f.st == 0, Reject.reservedField)]
  let noTgt := [z f.st, zf f.ind, z f.disp, z f.slot]
  if op = 0x0C1 then firstBad ([z f.sl] ++ none_ ++ tgt)
  else if op = 0x0C2 then firstBad ([z f.sl, z f.rsv, z f.mt, z f.q, z f.dim] ++ tgt)
  else if op = 0x0C3 ∨ op = 0x0C4 ∨ op = 0x0C5 ∨ op = 0x0C6 then
    firstBad ([z f.sl, z f.rsv, z f.cb, zf f.inv, z f.q, z f.dim] ++ tgt)
  else if op = 0x0C7 then firstBad ([z f.sl, z f.rsv, z f.cb, z f.mt, fldOk (f.dim.toNat ≤ 4)] ++ tgt)
  else if op = 0x0C8 then firstBad (none_ ++ tgt ++ [regOk (f.sl != 0)])
  else if op = 0x0C9 then firstBad (none_ ++ noTgt)
  else if op = 0x0CC then
    firstBad (none_ ++ [z f.sl, z f.st, zf f.ind, z f.slot, (f.disp.toNat < 2 ^ 16, .reservedField)])
  else firstBad ([z f.sl] ++ none_ ++ noTgt)

/-- The run of registers a VPACK reads or a VUNPACK writes (R153). -/
def runLen (ty : Nat) : Nat := if ty = 15 then 5 else 32 / tyBits ty

/-- Groups 4 to 7 (R137 to R162). A register field that imm32 replaces holds no operand: any value of it passes (notes/assumptions
115: DESIGN CHOICE). VRED and VSCAN use rnd in a floating sum alone (notes/assumptions 117: DESIGN CHOICE). -/
def legalV (op : Nat) (f : VFmt) : Option Reject :=
  let ty := f.ty.toNat
  let aux := f.aux.toNat
  let w := tyBits ty
  let e := even8 ty
  let imm : List (Bool × Reject) := [(f.i || f.imm == 0, .reservedField)]
  let noImm : List (Bool × Reject) := [(!f.i, .noImmediate), z f.imm]
  let noRnd : Bool × Reject := (f.rnd == 0, .badRounding)
  let rnd : Bool × Reject := (f.rnd.toNat ≤ 4, .badRounding)
  let noSat : Bool × Reject := (!f.sat, .badField)
  let m8 := fun (r : BitVec 8) => regOk (r.toNat < 16)
  let elems := if w = 8 then 4 else if w = 16 then 2 else 1
  let vb := regOk (f.i || !(pairTy ty) || f.vb.toNat % 2 == 0)
  let bin := imm ++ [tyOk (ty < 8), z f.aux, noRnd, z f.sel, e f.vd, e f.va, vb]
  let un := noImm ++ [z f.aux, noRnd, z f.sel, z f.vb, z f.vc, e f.vd, e f.va]
  let fl := ty == 8 || ty == 9
  let fbin := [tyOk fl, z f.aux, z f.sel, noSat, e f.vd, e f.va, vb]
  let fun_ := noImm ++ [tyOk fl, z f.aux, z f.sel, noSat, z f.vb, z f.vc, e f.vd, e f.va]
  let cross := ty == 2 || ty == 6 || ty == 9 || ty == 3 || ty == 7 || ty == 8
  let redOk := tyOk (cross && aux ≤ 5 && (!fl || aux ≤ 2))
  let redRnd : Bool × Reject := (if fl && aux == 0 then f.rnd.toNat ≤ 4 else f.rnd == 0, .badRounding)
  if op = 0x100 ∨ op = 0x101 ∨ op = 0x102 ∨ op = 0x109 then firstBad (bin ++ [z f.vc])
  else if op = 0x104 then firstBad (bin ++ [e f.vc])
  else if op ≤ 0x10D then firstBad (bin ++ [z f.vc, noSat])
  else if op ≤ 0x10F then firstBad (un ++ [tyOk (ty < 4)])
  else if op = 0x110 then
    firstBad (imm ++ [tyOk (ty < 8), fldOk (aux ≤ 5), noRnd, noSat, fldOk (f.sel.toNat < elems), z f.vc, m8 f.vd, e f.va,
      vb])
  else if op = 0x111 then
    firstBad (imm ++ [tyOk (ty < 14), z f.aux, noRnd, noSat, z f.sel, m8 f.vc, e f.vd, e f.va, vb])
  else if op = 0x112 ∨ op = 0x113 then firstBad (un ++ [tyOk (ty < 8), noSat])
  else if op = 0x114 ∨ op = 0x115 then
    let pos := bitsAt f.imm 0 6
    let wid := bitsAt f.imm 6 7
    firstBad [tyOk (ty < 8), z f.aux, noRnd, noSat, z f.sel, z f.vb, z f.vc, e f.vd, e f.va, fldOk f.i,
      (bitsAt f.imm 13 19 == 0, .reservedField), fldOk (1 ≤ wid && wid ≤ 64 && pos + wid ≤ w)]
  else if op = 0x116 then
    firstBad (imm ++ [tyOk (ty == 0 || ty == 4), tyOk (aux == 0 || aux == 4), noRnd, z f.sel])
  else if op = 0x117 then
    firstBad (imm ++ [tyOk (ty < 8), z f.aux, noRnd, noSat, z f.sel, z f.vb, z f.vc, e f.vd, e f.va,
      (!f.i || f.va == 0, .reservedField)])
  else if op = 0x118 then
    firstBad (noImm ++ [tyOk (ty < 8), z f.aux, noRnd, noSat, z f.sel, z f.vb, z f.vc, e f.vd, regOk (f.va.toNat < 64)])
  else if op = 0x140 ∨ op = 0x141 ∨ op = 0x142 ∨ op = 0x14D then firstBad (imm ++ fbin ++ [rnd, z f.vc])
  else if op = 0x143 ∨ op = 0x144 ∨ op = 0x145 then firstBad (imm ++ fbin ++ [rnd, e f.vc])
  else if op = 0x146 ∨ op = 0x147 then firstBad (imm ++ fbin ++ [noRnd, z f.vc])
  else if op = 0x148 then
    firstBad (imm ++ [tyOk fl, fldOk (aux ≤ 7), noRnd, noSat, z f.sel, z f.vc, m8 f.vd, e f.va, vb])
  else if op = 0x149 then
    firstBad (noImm ++ [tyOk fl, z f.aux, noRnd, noSat, z f.sel, z f.vb, z f.vc, e f.va])
  else if op = 0x14A ∨ op = 0x14B ∨ op = 0x14C ∨ op = 0x152 then firstBad (fun_ ++ [rnd])
  else if op = 0x14E ∨ op = 0x14F ∨ op = 0x150 ∨ op = 0x151 then firstBad (fun_ ++ [rnd, tyOk (ty == 9)])
  else if op = 0x153 then firstBad (fun_ ++ [noRnd])
  else if op = 0x154 then
    firstBad (imm ++ [tyOk fl, z f.aux, z f.sel, noSat, rnd, z f.vc, e f.vd, e f.va])
  else if op = 0x180 then
    let ws := tyBits aux
    let int := fun (t : Nat) => t < 8
    let widening := (!(int ty) && !(int aux) && ws < w)
      || (int ty && int aux && ((ty < 4) == (aux < 4) && ws < w || aux ≥ 4 && ty < 4 && ws < w))
      || (!(int ty) && int aux && (if ty == 8 then ws ≤ 32 else if ty == 9 then ws ≤ 16 else false))
    firstBad (noImm ++ [tyOk (ty < 15 && aux < 15 && ty != aux), tyOk (32 ≤ w || 32 ≤ ws), rnd,
      (!f.sat || !widening, .badField),
      fldOk (if w < 32 then f.sel.toNat < 32 / w else if ws < 32 then f.sel.toNat < 32 / ws else f.sel == 0),
      z f.vb, z f.vc, even8 ty f.vd, even8 aux f.va])
  else if op = 0x181 then
    firstBad (noImm ++ [tyOk (ty == 0 || ty == 4 || ty == 1 || ty == 5 || (10 ≤ ty && ty ≤ 14)),
      tyOk (aux == 9 || aux == 2 || aux == 6), rnd, z f.sel, z f.vb, z f.vc, regOk (f.va.toNat + runLen ty ≤ 256)])
  else if op = 0x182 then
    firstBad (noImm ++ [tyOk (ty == 9 || ty == 2 || ty == 6),
      tyOk (aux == 0 || aux == 4 || aux == 1 || aux == 5 || (10 ≤ aux && aux ≤ 15)),
      tyOk (ty == 9 || aux < 8 || (aux == 15 && ty == 2)), noRnd, noSat,
      fldOk (if aux == 15 then f.sel.toNat < 4 else f.sel == 0), z f.vb, z f.vc,
      regOk (f.vd.toNat + runLen aux ≤ 256)])
  else if op = 0x183 then
    firstBad (noImm ++ [tyOk (12 ≤ ty && ty ≤ 14 && aux == 9), rnd, noSat, z f.vb, fldOk (ty == 14 || f.sel.toNat < 4)])
  else if op = 0x184 then
    firstBad (noImm ++ [tyOk (12 ≤ ty && ty ≤ 14 && aux == 9), noRnd, noSat, z f.vc, fldOk (ty == 14 || f.sel.toNat < 4)])
  else if op = 0x185 then
    firstBad (noImm ++ [tyOk (12 ≤ ty && ty ≤ 14 && aux == 9), rnd, noSat, z f.vc, fldOk (ty == 14 || f.sel.toNat < 4)])
  else if op = 0x1C0 then
    firstBad (noImm ++ [tyOk cross, fldOk (aux ≤ 2), noRnd, noSat, z f.sel, z f.vb, z f.vc, e f.vd, e f.va])
  else if op = 0x1C1 then
    firstBad (noImm ++ [tyOk cross, z f.aux, noRnd, noSat, fldOk (f.sel.toNat ≤ 3), z f.vb, z f.vc, e f.vd, e f.va])
  else if op = 0x1C2 then
    firstBad (imm ++ [tyOk cross, fldOk (aux ≤ 3), noRnd, noSat, z f.sel, z f.vc, e f.vd, e f.va, vb,
      (f.imm.toNat < 32, .reservedField)])
  else if op = 0x1C3 then
    firstBad (imm ++ [tyOk cross, z f.aux, noRnd, noSat, z f.sel, z f.vc, e f.vd, e f.va,
      (if f.i then f.imm.toNat < 32 else f.vb.toNat < 64, .reservedField)])
  else if op = 0x1C4 then
    firstBad (noImm ++ [redOk, redRnd, noSat, z f.sel, z f.vb, z f.vc, e f.vd, e f.va])
  else if op = 0x1C5 then
    firstBad (noImm ++ [redOk, redRnd, noSat, fldOk (f.sel.toNat < 2), z f.vb, z f.vc, e f.vd, e f.va])
  else if op = 0x1C6 then
    firstBad (noImm ++ [tyOk (ty == 6), z f.aux, noRnd, noSat, z f.sel, z f.vb, z f.vc, regOk (f.vd.toNat < 64)])
  else if op = 0x1C7 then
    firstBad (noImm ++ [tyOk cross, z f.aux, noRnd, noSat, z f.sel, z f.vb, z f.vc, m8 f.vd, e f.va])
  else firstBad (noImm ++ [tyOk cross, z f.aux, noRnd, noSat, z f.sel, z f.vb, m8 f.vc, e f.vd, e f.va])

/-- Types an atomic operation accepts (R171). -/
def atomTy (aop ty : Nat) : Bool :=
  if aop = 0 ∨ aop = 7 then ty == 2 || ty == 3 || ty == 6 || ty == 7 || ty == 9
  else if aop ≤ 6 then ty == 2 || ty == 3 || ty == 6 || ty == 7
  else if aop = 8 then ty == 9
  else if aop = 9 then ty == 7
  else false

/-- The register layout of an atomic's vt (R171). -/
def atomReg (aop ty : Nat) (vt : BitVec 8) : Bool :=
  if aop = 9 then vt.toNat % 8 == 0
  else if aop = 7 then (if pairTy ty then vt.toNat % 2 == 0 && vt.toNat + 3 < 256 else vt.toNat + 1 < 256)
  else !(pairTy ty) || vt.toNat % 2 == 0

/-- Groups 8 and 9 (R166 to R180, R190, R443 to R447). -/
def legalM (op : Nat) (f : MFmt) : Option Reject :=
  let ty := f.ty.toNat
  let aop := f.aop.toNat
  let x0 : Bool × Reject := (f.x || f.vi == 0, .reservedField)
  let g8 := [z f.rsv, z f.w, x0]
  let g9 := [z f.rsv, z f.q, x0]
  let noOrd := [z f.ord, z f.scope]
  let ord : List (Bool × Reject) := [(f.ord != 0 || f.scope == 0, .reservedField)]
  let t4 := ty == 2 || ty == 3 || ty == 6 || ty == 7
  if op = 0x200 ∨ op = 0x201 then
    firstBad (g8 ++ noOrd ++ [z f.q, z f.aop, tyOk (t4 || ty == 9 || ty == 8), zf f.x, even8 ty f.vt])
  else if op = 0x202 ∨ op = 0x203 then
    firstBad (g8 ++ noOrd ++ [z f.q, z f.aop, tyOk (ty < 14), fldOk f.x, even8 ty f.vt])
  else if op = 0x20B ∨ op = 0x20C then
    firstBad (g8 ++ noOrd ++ [z f.q, z f.aop, tyOk (ty < 14), even8 ty f.vt])
  else if op = 0x204 ∨ op = 0x205 then
    firstBad (g8 ++ noOrd ++ [z f.q, z f.aop, tyOk (ty < 8), zf f.x, regOk (f.vt.toNat < 64)])
  else if op = 0x206 then
    firstBad (g8 ++ ord ++ [z f.q, fldOk (aop < 10), tyOk (atomTy aop ty), regOk (atomReg aop ty f.vt)])
  else if op = 0x207 then
    firstBad (g8 ++ ord ++ [z f.q, fldOk (aop < 8), tyOk t4, zf f.x, regOk (f.vt.toNat < 64),
      regOk (aop != 7 || f.vt.toNat < 63)])
  else if op = 0x208 then firstBad (g8 ++ noOrd ++ [z f.aop, z f.ty, zf f.x])
  else if op = 0x209 then
    firstBad (g8 ++ noOrd ++ [z f.aop, z f.ty, zf f.x, z f.vt, z f.sb, z f.space, z f.disp])
  else if op = 0x20A then firstBad (g8 ++ noOrd ++ [z f.q, z f.aop, z f.ty, z f.vt])
  else if op = 0x240 then firstBad (g9 ++ noOrd ++ [z f.aop, tyOk (ty < 14), even8 ty f.vt])
  else if op = 0x241 then
    firstBad (g9 ++ noOrd ++ [even8 ty f.vt, fldOk (aop ≤ 8 && aop != 7),
      tyOk (if aop = 0 then ty < 14 else if aop = 8 then ty == 9 else t4)])
  else if op = 0x242 then
    firstBad (g9 ++ ord ++ [fldOk (aop ≤ 8 && aop != 7), tyOk (atomTy aop ty), regOk (atomReg aop ty f.vt)])
  else if op = 0x243 then
    firstBad (g9 ++ ord ++ [fldOk (aop == 7 || aop == 9), tyOk (atomTy aop ty), regOk (atomReg aop ty f.vt)])
  else firstBad (noOrd ++ [z f.rsv, z f.q, z f.ty, z f.aop, zf f.x, regOk (f.vt.toNat < 64), regOk (f.vi.toNat < 64),
    fldOk (f.disp != 0)])

/-- The level a level, scope or space code resolves to for code running at level `lvl` (R2, R49). -/
def resolve (lvl code : Nat) : Option Nat :=
  if code < 6 then some code
  else if code = 6 then some lvl
  else if lvl = 0 then none else some (lvl - 1)

/-- The same in the lfrom and lto fields of COPY and MCAST, where code 7 is `up` (R49). -/
def resolveUp (lvl code : Nat) : Option Nat :=
  if code < 6 then some code
  else if code = 6 then some lvl
  else if 5 ≤ lvl then none else some (lvl + 1)

/-- Group 10 in the L format (R197 to R207, R296, R297, R334, R350, R369, R395, R454). The level of a launch, join or
reduction picks its fields; with no issuer given, a relative level accepts either. -/
def legalL (op : Nat) (f : LFmt) (lvl : Option Nat) : Option Reject :=
  let imm := f.imm
  let r := match lvl with
    | some l => resolve l f.lvl.toNat
    | none => if f.lvl.toNat < 6 then some f.lvl.toNat else none
  let free := r.isNone
  let noFlags := [z f.b, z f.cd, z f.scope, z f.ord, zf f.rsv]
  let core := firstBad (noFlags ++ [z f.op, (!f.c && !f.ns, .badField),
    fldOk (1 ≤ bitsAt imm 0 5 && bitsAt imm 0 5 ≤ 16), fldOk (bitsAt imm 8 6 ≤ 32),
    (bitsAt imm 5 3 == 0 && bitsAt imm 14 2 == 0 && bitsAt imm 20 12 == 0, .reservedField)])
  let sp := fldOk (1 ≤ bitsAt imm 0 3 && bitsAt imm 0 3 ≤ 4)
  let pot := firstBad (noFlags ++ [z f.op, sp, (bitsAt imm 3 29 == 0, .reservedField)])
  let forms := [zf f.c, zf f.nb, zf f.ns]
  if op = 0x280 then
    if free then (if core.isNone then none else pot) else if r = some 1 then core else pot
  else if op = 0x281 then
    let base := noFlags ++ forms ++ [z f.se, z f.sp, z f.op]
    let jc := firstBad (base ++ [z f.sk, (imm.toNat < 2 ^ 16, .reservedField)])
    let jp := firstBad (base ++ [z imm])
    if free then (if jc.isNone then none else jp) else if r = some 1 then jc else jp
  else if op = 0x282 ∨ op = 0x283 ∨ op = 0x284 then
    firstBad (forms ++ [z f.se, z f.sk, z f.sp, z f.sd, z f.op, z f.scope, z f.ord, zf f.rsv, z imm,
      (op != 0x283 || f.cd == 0, .reservedField)])
  else if op = 0x288 then
    firstBad (noFlags ++ [zf f.c, zf f.ns, (f.se == 0 || free || r == some 5, .reservedField),
      regOk (1 ≤ f.sd.toNat && f.sd.toNat ≤ 62), fldOk (1 ≤ f.op.toNat && f.op.toNat ≤ 11),
      fldOk (bitsAt imm 0 12 != 0), (bitsAt imm 12 4 == 0, .reservedField)])
  else if op = 0x289 then
    firstBad (forms ++ [z f.se, z f.sk, z f.sp, z f.sd, z f.b, z f.cd, z f.op, z f.scope, zf f.rsv, z imm,
      fldOk (f.ord != 0)])
  else if op = 0x28A ∨ op = 0x28B then
    let all := imm == 1
    firstBad (forms ++ [z f.cd, z f.ord, zf f.rsv, fldOk (f.op.toNat ≤ 1),
      (imm == 0 || (all && op == 0x28B), .reservedField), (f.op != 0 || f.sk == 0, .reservedField),
      (f.op != 1 || f.b == 0, .reservedField), (!all || (f.lvl == 0 && f.se == 0 && f.sp == 0), .reservedField)])
  else if op = 0x28C then
    let tag := bitAt imm 3
    firstBad (noFlags ++ [zf f.c, zf f.ns, z f.op, sp, fldOk (tag || !(bitAt imm 4)),
      (bitsAt imm 5 27 == 0, .reservedField), (!tag || f.sp == 0, .reservedField)])
  else firstBad (noFlags ++ forms ++ [z f.lvl, z f.se, z f.sp, z f.op, z imm])

/-- Groups 10 (COPY, MCAST, CWAIT), 11 and 12 in the X format (R212, R217, R229 to R240, R248, R249, R363). What only a gang
or only a stream may set is judged once the issuer is known. -/
def legalX (op : Nat) (f : XFmt) (k : Option IssKind) : Option Reject :=
  let ty := f.ty.toNat
  let gangOk := k != some .stream
  let strOk := k != some .gang
  let lv := [z f.lfrom, z f.lto]
  let noVA := [z f.vx, z f.vy, z f.ax, z f.ay]
  let zOk := fun (r : BitVec 4) => regOk (r.toNat < 8)
  let bar : Bool × Reject := (bitAt f.aux 3 || f.b == 0, .reservedField)
  if op = 0x285 then
    firstBad [z f.zd, z f.za, regOk (f.vx.toNat < 64), z f.vy, z f.h, z f.ax, z f.ay, z f.ty, z f.bsel, z f.k,
      (f.aux.toNat ≤ 1, .reservedField), z f.imm10]
  else if op = 0x286 then
    firstBad [z f.zd, z f.za, regOk (f.vx.toNat < 64), regOk (f.vy.toNat < 64), z f.h, z f.ax, z f.ay, z f.ty, z f.bsel,
      z f.k, z f.b, (f.aux.toNat ≤ 1, .reservedField), regOk (f.imm10.toNat < 64)]
  else if op = 0x287 ∨ op = 0x2C8 then
    firstBad (lv ++ noVA ++ [z f.zd, z f.za, z f.h, z f.sb, z f.ty, z f.bsel, z f.k, z f.b, z f.aux,
      fldOk (f.imm10.toNat ≤ if op = 0x287 then 511 else 15)])
  else if op = 0x2C0 ∨ op = 0x2C1 ∨ op = 0x2C2 then
    let bsrc := bitAt f.aux 0
    let kc := bitsAt f.imm10 0 4
    let base := lv ++ [z f.za, z f.k, z f.b, zOk f.zd, (f.aux.toNat < 4, .reservedField),
      (f.imm10.toNat < 16, .reservedField), (!bsrc || f.h == 0, .reservedField), (bsrc || f.sb == 0, .reservedField)]
    if op = 0x2C0 then
      firstBad (base ++ noVA ++ [z f.bsel, tyOk (ty == 0 || (9 ≤ ty && ty ≤ 13))])
    else if op = 0x2C2 then firstBad (base ++ noVA ++ [z f.bsel, tyOk (ty == 15)])
    else
      let g := f.ax == 0 && f.ay == 0 && f.vx.toNat % 2 == 0 && f.vy.toNat % 2 == 0
      let st := f.vx == 0 && f.vy == 0
      firstBad (base ++ [tyOk (12 ≤ ty && ty ≤ 14), fldOk (kc + 1 + f.bsel.toNat ≤ 4),
        regOk ((g && gangOk) || (st && strOk))])
  else if op = 0x2C3 then
    firstBad (lv ++ noVA ++ [z f.zd, z f.za, z f.sb, z f.ty, z f.bsel, z f.k, z f.b, z f.aux, z f.imm10])
  else if op = 0x2C4 then
    firstBad (lv ++ noVA ++ [zOk f.zd, z f.za, z f.h, z f.sa, z f.sb, z f.ty, z f.bsel, z f.k, z f.b, z f.aux, z f.imm10])
  else if op = 0x2C5 ∨ op = 0x2C6 then
    let st := op == 0x2C6
    let kind := bitsAt f.aux 0 2
    let base := [z f.vx, z f.vy, z f.ay, z f.h, z f.ty, z f.bsel, z f.imm10, (!(bitAt f.aux 2), .reservedField),
      (if st then f.lfrom == 0 else f.lto == 0 && f.b == 0 && !(bitAt f.aux 3), .reservedField), bar]
    if kind = 0 then
      firstBad (base ++ [z f.ax, z f.k, if st then zOk f.za else zOk f.zd, if st then z f.zd else z f.za])
    else if kind = 1 then firstBad (base ++ [z f.zd, z f.za, z f.k, z f.sb, fldOk strOk])
    else if kind = 2 then firstBad (base ++ [z f.zd, z f.za, z f.ax, z f.sb])
    else some .badField
  else if op = 0x2C7 then
    let bias := bitAt f.aux 0
    let sc := bitAt f.aux 1
    let one := fun (on : Bool) (v : BitVec 8) (a : BitVec 4) =>
      if on then (gangOk && a == 0 && v.toNat % 2 == 0) || (strOk && v == 0) else v == 0 && a == 0
    firstBad [z f.zd, z f.h, z f.bsel, z f.k, z f.lfrom, zOk f.za,
      tyOk (ty == 0 || ty == 2 || (9 ≤ ty && ty ≤ 14)), bar,
      fldOk (bitsAt f.imm10 0 2 ≤ 1 && bitsAt f.imm10 3 3 ≤ 4), (f.imm10.toNat < 64, .reservedField),
      regOk (one bias f.vx f.ax), regOk (one sc f.vy f.ay)]
  else
    let f64 := ty == 8
    let ev := fun (r : BitVec 4) => regOk (r.toNat < 8 && (!f64 || r.toNat % 2 == 0))
    let base := lv ++ [z f.vy, z f.h, z f.ay, z f.bsel, z f.b, z f.imm10, tyOk (ty == 8 || ty == 9), ev f.zd]
    let noTau := [z f.vx, z f.ax]
    let tau := regOk ((gangOk && f.ax == 0 && f.vx.toNat % 2 == 0)
      || (strOk && f.vx == 0 && (!f64 || f.ax.toNat % 2 == 0)))
    let aux := fun (m : Nat) => fldOk (f.aux.toNat &&& (15 - m) == 0)
    if op = 0x300 then firstBad (base ++ noTau ++ [z f.za, aux 1])
    else if op = 0x301 then firstBad (base ++ noTau ++ [z f.za, z f.k, aux 1])
    else if op = 0x302 then firstBad (base ++ [z f.za, z f.k, aux 0, tau])
    else if op = 0x303 then firstBad (base ++ noTau ++ [ev f.za, z f.k, aux 15])
    else if op = 0x304 then firstBad (base ++ [ev f.za, z f.k, aux 8, tau])
    else if op = 0x305 then firstBad (base ++ noTau ++ [z f.za, aux 8])
    else firstBad (base ++ noTau ++ [ev f.za, z f.k, aux 2])

/-- Groups 13 and 14 (R125, R129 to R135, R274 to R282). The lane subfield of a DSTEP or DRUN that uses none may be anything
(notes/assumptions 158: DESIGN CHOICE). -/
def legalD (op : Nat) (f : DFmt) (k : Option IssKind) : Option Reject :=
  let imm := f.imm
  let base := [z f.q]
  let cls := bitsAt imm 28 4
  let num := bitsAt imm 20 8
  if op = 0x340 then firstBad (base ++ [z f.sd, z f.vt, z f.gid, z f.csr, z imm, regOk (f.sa.toNat ≤ 60)])
  else if op = 0x341 then
    firstBad (base ++ [z f.sd, z f.sa, z f.sv, z f.vt, z f.gid, z f.csr, (imm.toNat < 2 ^ 16, .reservedField)])
  else if op = 0x342 ∨ op = 0x343 then
    firstBad (base ++ [z f.sv, fldOk (cls ≤ 4),
      fldOk (if cls = 0 then true else if cls = 1 then num < 64 else if cls = 4 then num == 0 else num < 16),
      fldOk ((cls != 3 && cls != 0) || bitsAt imm 16 3 == 0),
      (bitsAt imm 0 16 == 0 && bitsAt imm 19 1 == 0, .reservedField), (cls == 4 || f.csr == 0, .reservedField),
      (cls == 0 || f.vt == 0, .reservedField), (op == 0x343 && cls != 0 || f.sa == 0, .reservedField),
      regOk (op == 0x343 || f.sd.toNat ≤ 62)])
  else if op = 0x344 then
    let lane := bitAt imm 21
    let str := bitAt imm 23
    firstBad (base ++ [z f.sv, z f.sa, z f.vt, z f.csr, fldOk (bitsAt imm 0 16 != 0), fldOk (!(lane && str)),
      (!(bitAt imm 22) && bitsAt imm 24 8 == 0, .reservedField), fldOk (lane || str || bitsAt imm 16 5 ≤ 7),
      (!str || f.gid.toNat < 4, .reservedField)])
  else if op = 0x345 then
    let lane := bitAt imm 21
    let gang := bitAt imm 22
    let str := bitAt imm 23
    firstBad (base ++ [z f.sv, z f.sa, z f.vt, z f.csr, fldOk (b2n lane + b2n gang + b2n str ≤ 1),
      (bitsAt imm 0 16 == 0 && bitsAt imm 24 8 == 0, .reservedField),
      fldOk (lane || gang || str || bitsAt imm 16 5 ≤ 7), (!str || f.gid.toNat < 4, .reservedField)])
  else if op = 0x346 then
    let c := bitsAt imm 12 4
    firstBad (base ++ [z f.sv, z f.sa, z f.vt, z f.csr, regOk (f.sd.toNat ≤ 62), fldOk (c ≤ 2),
      (bitsAt imm 16 16 == 0, .reservedField),
      fldOk (if c = 0 then bitsAt imm 0 4 ≤ 8 && bitsAt imm 5 7 == 0 else if c = 1 then bitsAt imm 5 7 == 0
             else bitsAt imm 0 12 == 0)])
  else if op = 0x347 then firstBad (base ++ [z f.sd, z f.sa, z f.sv, z f.vt, z f.gid, z f.csr])
  else if op = 0x348 then
    firstBad (base ++ [z f.sd, z f.sv, z f.vt, z f.gid, z f.csr, (imm.toNat < 2 ^ 16, .reservedField)])
  else
    let b2 := base ++ [z f.sv, z f.vt, z f.gid]
    if op = 0x380 then firstBad (b2 ++ [z f.sa, z imm])
    else if op = 0x381 then firstBad (b2 ++ [z f.sd, z imm])
    else if op = 0x382 then
      firstBad (b2 ++ [z f.sa, z f.csr, regOk (f.sd.toNat < 16), (imm.toNat < 64, .reservedField)])
    else if op = 0x383 then firstBad (b2 ++ [z f.sd, z f.sa, z f.csr, (imm.toNat < 64, .reservedField)])
    else if op = 0x384 then firstBad (b2 ++ [z f.sd, z f.sa, z f.csr, (imm.toNat < 2, .reservedField)])
    else if op = 0x385 then
      firstBad (b2 ++ [z f.sd, z f.csr, (imm == 0 || f.sa == 0, .reservedField), (imm.toNat < 2 ^ 16, .reservedField)])
    else if op = 0x386 then firstBad (b2 ++ [z f.sa, z f.csr, fldOk (imm.toNat ≤ 1)])
    else firstBad (b2 ++ [z f.sd, z f.csr, (imm.toNat < 2 ^ 16, .reservedField),
      (k != some .seq || imm == 0, .reservedField)])

/-- Which groups and functions an issuer has (R56). -/
def issuable (k : IssKind) (op : Nat) : Bool :=
  let g := op / 64
  match k with
  | .gang => g ≠ 15
  | .stream =>
    g == 0 || g == 1 || (g == 3 && !(0x0C3 ≤ op && op ≤ 0x0C7) && op != 0x0CA) || g == 10 || g == 11 || g == 12
    || op == 0x347 || op == 0x348 || (g == 14 && op != 0x382 && op != 0x383)
  | .seq =>
    g == 0 || g == 1 || (g == 3 && !(0x0C3 ≤ op && op ≤ 0x0C7) && op != 0x0CA) || g == 10
    || (g == 14 && op != 0x382 && op != 0x383)

/-- Whether the fields of a word are legal, for an issuer of class `k` at level `lvl` where they are given. -/
def legalBody (op : Nat) (b : Body) (k : Option IssKind) (lvl : Option Nat) : Option Reject :=
  match b with
  | .s f => legalS op f
  | .sli f ext => legalSli f ext
  | .v f => legalV op f
  | .m f => legalM op f
  | .b f => legalB op f
  | .x f => legalX op f k
  | .l f => legalL op f lvl
  | .d f => legalD op f k

/-- Why a word instruction is not legal for an issuer (or, with no issuer, for any), by name (R57: ILLEGAL). Events are
no words and are not judged. -/
def Instr.legal (i : Instr) (k : Option IssKind) (lvl : Option Nat) : Option Reject :=
  match i with
  | .reservedOpcode _ => some .reservedOpcode
  | i =>
    match i.form with
    | none => none
    | some (op, h, b) =>
      if h.g = 16 then some .guardNever
      else match k with
        | none => legalBody op b k lvl
        | some kk => if issuable kk op then legalBody op b k lvl else some .reservedOpcode

/-- The levels from which an issuer reads an image or a region in space `sp`: it has that memory (R164, R334). -/
def reaches (lvl sp : Nat) : Bool :=
  if sp = 1 then lvl ≤ 1 else if sp = 2 then lvl ≤ 2 else if sp = 3 then lvl ≤ 3 else sp == 4

/-- Whether every level, scope and space operand of a word resolves to one the instruction accepts (R49; LEVEL). -/
def levelOk (op : Nat) (b : Body) (k : IssKind) (lvl : Nat) : Bool :=
  let res := resolve lvl
  let isIn := fun (o : Option Nat) (l : List Nat) => match o with
    | none => false
    | some n => l.contains n
  match b with
  | .s _ => true
  | .sli _ _ => true
  | .v _ => true
  | .b _ => true
  | .d _ => true
  | .m f =>
    let sp := res f.space.toNat
    let sc := f.ord == 0 || isIn (res f.scope.toNat) [0, 1, 2, 3, 4, 5]
    if 0x240 ≤ op then f.space.toNat == 5 && sc
    else if op = 0x200 ∨ op = 0x201 ∨ op = 0x202 ∨ op = 0x203 ∨ op = 0x208 then isIn sp [1, 2]
    else if op = 0x20A ∨ op = 0x20B ∨ op = 0x20C then isIn sp [3, 4]
    else if op = 0x209 then true
    else isIn sp [1, 2, 3, 4] && sc
  | .x f =>
    let fr := resolveUp lvl f.lfrom.toNat
    let to_ := resolveUp lvl f.lto.toNat
    if op = 0x285 then
      if lvl ≤ 1 then (fr == some 2 && to_ == some 1) || (fr == some 1 && to_ == some 2)
      else if lvl = 2 then (fr == some 3 && to_ == some 2) || (fr == some 2 && to_ == some 3)
      else if lvl = 3 then (fr == some 4 && to_ == some 3) || (fr == some 3 && to_ == some 4)
      else (fr == some 5 && to_ == some 4) || (fr == some 4 && to_ == some 5)
    else if op = 0x286 then fr == some 2 && to_ == some 1 && lvl ≤ 2
    else if op = 0x2C5 then isIn (res f.lfrom.toNat) [1, 2]
    else if op = 0x2C6 ∨ op = 0x2C7 then isIn (res f.lto.toNat) [1, 2]
    else true
  | .l f =>
    let r := res f.lvl.toNat
    let atOrAbove := fun (o : Option Nat) => match o with
      | none => false
      | some n => 2 ≤ n && lvl ≤ n
    if op = 0x280 then
      if r = some 1 then k == .stream else atOrAbove r && reaches lvl (bitsAt f.imm 0 3)
    else if op = 0x281 then if r = some 1 then k == .stream else atOrAbove r
    else if op = 0x282 ∨ op = 0x283 ∨ op = 0x284 then
      isIn r [1, 2, 3, 4] && (match r with
        | none => false
        | some n => lvl ≤ n || (n == 4 && k == .seq))
    else if op = 0x288 then atOrAbove r
    else if op = 0x289 then (match r with
      | none => false
      | some n => lvl ≤ n)
    else if op = 0x28A ∨ op = 0x28B then
      let sc := res f.scope.toNat
      (f.imm == 1 || (match r with
        | none => false
        | some n => 1 ≤ n && n ≤ 4 && reaches lvl n))
      && (if f.op = 0 then isIn sc [1, 2, 3, 4, 5] else (match sc with
        | none => false
        | some n => 1 ≤ n && n ≤ 4 && reaches lvl n))
    else if op = 0x28C then isIn r [3, 4] && reaches lvl (bitsAt f.imm 0 3)
    else true

/-- The vector registers a word names, with those they imply: `(first, count)` (R139). -/
def Body.vruns (op : Nat) (b : Body) : List (Nat × Nat) :=
  let p := fun (ty : Nat) => if pairTy ty then 2 else 1
  match b with
  | .s _ => []
  | .sli _ _ => []
  | .b _ => []
  | .l _ => []
  | .v f =>
    let ty := f.ty.toNat
    let n := p ty
    let vb := if f.i then [] else [(f.vb.toNat, n)]
    if op = 0x110 ∨ op = 0x148 then [(f.va.toNat, n)] ++ vb
    else if op = 0x104 ∨ op = 0x143 ∨ op = 0x144 ∨ op = 0x145 then
      [(f.vd.toNat, n), (f.va.toNat, n), (f.vc.toNat, n)] ++ vb
    else if op = 0x116 then [(f.vd.toNat, 1), (f.va.toNat, 1), (f.vc.toNat, 1)] ++ vb
    else if op = 0x10E ∨ op = 0x10F ∨ op = 0x112 ∨ op = 0x113 ∨ op = 0x114 ∨ op = 0x115 then
      [(f.vd.toNat, n), (f.va.toNat, n)]
    else if op = 0x117 then [(f.vd.toNat, n)] ++ (if f.i then [] else [(f.va.toNat, n)])
    else if op = 0x118 then [(f.vd.toNat, n)]
    else if op = 0x149 then [(f.vd.toNat, 1), (f.va.toNat, n)]
    else if op = 0x14A ∨ op = 0x14B ∨ op = 0x14C ∨ (0x14E ≤ op ∧ op ≤ 0x153) then [(f.vd.toNat, n), (f.va.toNat, n)]
    else if op = 0x154 then [(f.vd.toNat, n), (f.va.toNat, n)] ++ (if f.i then [] else [(f.vb.toNat, 1)])
    else if op = 0x180 then [(f.vd.toNat, n), (f.va.toNat, p f.aux.toNat)]
    else if op = 0x181 then [(f.vd.toNat, 1), (f.va.toNat, runLen ty)]
    else if op = 0x182 then [(f.vd.toNat, runLen f.aux.toNat), (f.va.toNat, 1)]
    else if op = 0x183 then [(f.vd.toNat, 1), (f.va.toNat, 1), (f.vc.toNat, 1)]
    else if op = 0x184 ∨ op = 0x185 then [(f.vd.toNat, 1), (f.va.toNat, 1), (f.vb.toNat, 1)]
    else if op = 0x1C2 then [(f.vd.toNat, n), (f.va.toNat, n)] ++ vb
    else if op = 0x1C3 ∨ op = 0x1C0 ∨ op = 0x1C1 ∨ op = 0x1C4 ∨ op = 0x1C5 ∨ op = 0x1C8 then
      [(f.vd.toNat, n), (f.va.toNat, n)]
    else if op = 0x1C6 ∨ op = 0x1C7 then [(f.va.toNat, n)]
    else [(f.vd.toNat, n), (f.va.toNat, n)] ++ vb
  | .m f =>
    let n := p f.ty.toNat
    let aop := f.aop.toNat
    let vi := if f.x then [(f.vi.toNat, 1)] else []
    if op = 0x204 ∨ op = 0x205 ∨ op = 0x207 ∨ op = 0x209 ∨ op = 0x244 then []
    else if op = 0x206 ∨ op = 0x242 ∨ op = 0x243 then
      [(f.vt.toNat, if aop = 9 then 8 else if aop = 7 then 2 * n else n)] ++ vi
    else if op = 0x208 then [(f.vt.toNat, 1)]
    else if op = 0x20A then vi
    else [(f.vt.toNat, n)] ++ vi
  | .x f =>
    if op = 0x2C1 then [(f.vx.toNat, 2), (f.vy.toNat, 2)]
    else if op = 0x2C7 then
      (if bitAt f.aux 0 then [(f.vx.toNat, 2)] else []) ++ (if bitAt f.aux 1 then [(f.vy.toNat, 2)] else [])
    else if op = 0x302 ∨ op = 0x304 then [(f.vx.toNat, 2)]
    else []
  | .d f =>
    if (op = 0x342 ∨ op = 0x343) ∧ bitsAt f.imm 28 4 = 0 then [(f.vt.toNat, 1)] else []

/-- Whether every vector register a word names lies in an allocation of `alloc` units of 8 (R100; REGS). -/
def regsOk (op : Nat) (b : Body) (alloc : Nat) : Bool := (b.vruns op).all (fun p => p.1 + p.2 ≤ 8 * alloc)

/-- The vector operands a word reads, as register and whether the whole pair is named (R177). -/
def Body.vsrcs (op : Nat) (b : Body) : List (Nat × Bool) :=
  match b with
  | .s _ => []
  | .sli _ _ => []
  | .b _ => []
  | .l _ => []
  | .d f => if op = 0x343 ∧ bitsAt f.imm 28 4 = 0 then [(f.vt.toNat, false)] else []
  | .v f =>
    let p := pairTy f.ty.toNat
    let vb := if f.i then [] else [(f.vb.toNat, p)]
    if op = 0x110 ∨ op = 0x148 then [(f.va.toNat, p)] ++ vb
    else if op = 0x104 ∨ op = 0x143 ∨ op = 0x144 ∨ op = 0x145 then [(f.va.toNat, p), (f.vc.toNat, p)] ++ vb
    else if op = 0x116 then [(f.va.toNat, false), (f.vc.toNat, false)] ++ vb
    else if op = 0x10E ∨ op = 0x10F ∨ op = 0x112 ∨ op = 0x113 ∨ op = 0x114 ∨ op = 0x115 then [(f.va.toNat, p)]
    else if op = 0x117 then if f.i then [] else [(f.va.toNat, p)]
    else if op = 0x118 then []
    else if op = 0x149 ∨ op = 0x14A ∨ op = 0x14B ∨ op = 0x14C ∨ (0x14E ≤ op ∧ op ≤ 0x153) then [(f.va.toNat, p)]
    else if op = 0x154 then [(f.va.toNat, p)] ++ (if f.i then [] else [(f.vb.toNat, false)])
    else if op = 0x180 then
      [(f.va.toNat, pairTy f.aux.toNat)]
    else if op = 0x181 then (List.range (runLen f.ty.toNat)).map (fun e => (f.va.toNat + e, false))
    else if op = 0x182 then [(f.va.toNat, false)]
    else if op = 0x183 then [(f.va.toNat, false)]
    else if op = 0x184 ∨ op = 0x185 then [(f.va.toNat, false), (f.vb.toNat, false)]
    else if op = 0x1C2 then [(f.va.toNat, p)] ++ vb
    else if 0x1C0 ≤ op ∧ op ≤ 0x1C8 then [(f.va.toNat, p)]
    else [(f.va.toNat, p)] ++ vb
  | .m f =>
    let p := pairTy f.ty.toNat
    let aop := f.aop.toNat
    let vt := f.vt.toNat
    let vi := if f.x then [(f.vi.toNat, false)] else []
    if op = 0x201 ∨ op = 0x203 ∨ op = 0x20C ∨ op = 0x241 then [(vt, p)] ++ vi
    else if op = 0x206 ∨ op = 0x242 ∨ op = 0x243 then
      (if aop = 9 then [(vt, true), (vt + 2, true), (vt + 4, true), (vt + 6, true)]
       else if aop = 7 then (if p then [(vt, true), (vt + 2, true)] else [(vt, false), (vt + 1, false)])
       else [(vt, p)]) ++ vi
    else if op = 0x244 then []
    else vi
  | .x f =>
    if op = 0x2C1 then [(f.vx.toNat, true), (f.vy.toNat, true)]
    else if op = 0x2C7 then
      (if bitAt f.aux 0 then [(f.vx.toNat, true)] else []) ++ (if bitAt f.aux 1 then [(f.vy.toNat, true)] else [])
    else if op = 0x304 then [(f.vx.toNat, true)]
    else []

end Sys2Proof
end

