-- ==== Sys2Proof/Config.lean ====
section
/-! DEFINITION. What the package fixes and the free values of the model. Each `opaque` has no body: nothing can be
proved about which value it has, and a claim holds whatever it is (notes/assumptions 3 and 4). -/
namespace Sys2Proof.Config

/-- Dies of a package, clusters of a die, cores of a cluster (R1). -/
def dies : Nat := 4
def clustersPerDie : Nat := 8
def coresPerCluster : Nat := 8
def clusters : Nat := 32
def cores : Nat := 256

/-- Gang slots and block slots of a core, vector registers of its file (R100, R191). -/
def gangSlots : Nat := 32
def blockSlots : Nat := 4
def poolRegs : Nat := 6144

/-- Capacities of the memories in bytes (R164, R354, R374, R404). -/
def scratchBytes : Nat := 0x80000
def clusterBytes : Nat := 0x800000
def dieBytes : Nat := 0x4000000
def packageBytes : Nat := 0xC000000000
def reservedBase : Nat := 0xBF00000000

/-- FREE VALUE: the 16-bit bank key the random source draws for the context whose key serial is given (R211). -/
opaque drawnShKey : Nat → BitVec 16

/-- FREE VALUE: the 256-bit save key of the context with the given key serial, as its little-endian number (R324). The
serial 0 names the package save key (R425). -/
opaque saveKey : Nat → Nat

/-- FREE VALUE: one byte of a 16-byte block of package memory written under one key and read under another, given
the two key serials, the block's number and the block's sixteen bytes (R405). -/
opaque wrongKeyByte : Nat → Nat → Nat → List Byte → Nat → Byte

/-- FREE VALUE: the byte at an offset of a save-image section whose layout is opaque, given its kind, the image's
generation and the context (R323). -/
opaque opaqueSectionByte : Nat → Nat → Nat → Nat → Byte

/-- FREE VALUE: part number and revision as the eight MODEL bytes of an image (R322). -/
opaque modelBytes : Nat → Byte

/-- FREE VALUE: the draw of an intermediate package for the given counter (R435). -/
opaque drawnIntermediate : Nat → Nat

/-- FREE VALUE: whether the routing entry for the second ID that the package with the first ID holds at a time of the time base has MINOK
(R434, R435): what the ports of another package are like. -/
opaque peerMinOk : Nat → Nat → Nat → Bool

/-- FREE VALUE: byte of a measurement register after the boot of a number (R423). -/
opaque measurementByte : Nat → Nat → Nat → Byte

/-- FREE VALUE: the data set with which the package itself stands in the choice of a PTP master, the lesser the better (R394). -/
opaque ptpDataset : Nat

/-- FREE VALUE: the answer to an SPDM request, given its code and a counter (R423). -/
opaque spdmAnswer : Nat → Nat → List Byte

/-- FREE VALUE: what a byte at a physical address that names no memory, or that the host may not reach, reads as (R404, R421). -/
opaque absentByte : Nat → Byte

/-- FREE VALUE: the number of 4 KiB pages of the package image's content (R425). -/
opaque packagePages : Nat

/-- FREE VALUE: the byte that host memory gives at an address, for a counter of reads (R417). -/
opaque hostByte : Nat → Nat → Byte

/-- FREE VALUE: whether the package with an ID is in S3 when a message for it comes to its last relay, for a counter
(R459). -/
opaque peerAsleep : Nat → Nat → Bool

/-- FREE VALUE: a 64-bit value the spec leaves open, for a counter of such values. -/
opaque freeDword : Nat → BitVec 64

end Sys2Proof.Config
end

