-- ==== Sys2Proof/Machine/State.lean ====
section
/-! DEFINITION. The state of one Z7 package as plain data, the outcomes other than a next state, and the state right
after reset. Tables list only what differs from the value an absent key reads as. -/
namespace Sys2Proof.Machine

/-- Every byte that holds something other than what an unlisted byte reads as, by its place in the flat memory of the
package: package memory at its physical address, die `d` from 2^40 + d·2^26, cluster `n` from 2^41 + n·2^23, core `n` from
2^42 + n·2^19 (R164, R404). -/
abbrev Memory := List Host.Cell

/-- What an unlisted byte reads as (notes/assumptions 1: DESIGN CHOICE). -/
def Memory.unlisted : Byte := 0

/-- The canonical form: addresses strictly rising, no entry equal to what an unlisted byte reads as. -/
def Memory.wf : Memory → Bool
  | [] => true
  | [(_, b)] => b != Memory.unlisted
  | (k, b) :: (j, c) :: r => b != Memory.unlisted && k < j && Memory.wf ((j, c) :: r)

/-- Why an issuer waits (R284). -/
inductive Why where
  | none
  | memory
  | matrix
  | barrier
  | grow
  | queueFull
  | fetch
  | faultParked
  | halted
  | stockpot
  deriving DecidableEq, Repr

/-- STATE of a split-table entry (R88). -/
inductive FragSt where
  | free
  | eligible
  | parked
  | blocked
  | faultParked
  | halted
  deriving DecidableEq, Repr

/-- What a waiting instruction remembers between the cycles in which it is tried (R61: none of them is a step). -/
inductive Wait where
  | none
  /-- BAR or BARA has made its arrival (R207). -/
  | arrived
  /-- an IDLE that began at a cycle (R135) -/
  | idle (start : Nat)
  /-- a pool request, in the order in which they were made (R102, R200) -/
  | pool (id : Nat)
  /-- a refused or granted pool request (R102) -/
  | poolDone (granted : Bool) (mask : BitVec 32)
  /-- a JOIN at pod level that awaits the answer of its peer, and the answer (R451) -/
  | joinSent (tid : Nat)
  | joinDone (v : Dword)
  /-- REGANG: the slot it was reached at (R93) -/
  | regang
  /-- a header or image read that the host has denied (R389) -/
  | denied
  /-- an IDLE that a halt or a trap has stopped (R135) -/
  | woken
  /-- BARW: its slices watch for the next flip (R207) -/
  | watching
  deriving DecidableEq, Repr

/-- One lane's address of a memory access, as the sieves see it (R266). -/
structure AccEv where
  lane : Nat
  space : Nat
  ea : BitVec 64
  len : Nat
  rd : Bool
  wr : Bool
  deriving DecidableEq, Repr

/-- A value event of an issuing instruction (R266): kind, lane, values and the element width. -/
structure ValEv where
  kind : Nat
  lane : Nat
  vals : List Nat
  width : Nat
  deriving DecidableEq, Repr

/-- Events of one instruction of the step in progress, for the sieves (R266); `load` marks the commit of an earlier load
(R269, R271) and `mask` is m0 AND LMASK at the instruction. -/
structure StepEv where
  pc : Pc
  lmask : Word
  mask : Word
  load : Bool
  addrs : List AccEv
  vals : List ValEv
  deriving DecidableEq, Repr

/-- A match of a sieve to be acted on (R268): sieve, action, lanes with the values that matched, PC and m0 AND LMASK of the
instruction. -/
structure Match where
  sv : Nat
  act : Nat
  lanes : List (Nat × Dword)
  pc : Pc
  mask : Word
  deriving DecidableEq, Repr

/-- One split-table entry (R88) with the fragment's step count (R61), its wait, its YIELD window (R121), the check of
R44 it owes before its first step, and the steps a DSTEP leaves it (R278). `held` are the halts and traps of the loads that a marker
has committed, one list for each load, while the marker itself waits or its trap is handled (R271). Of a pair, `wait` is what the
instruction that the model runs first remembers, and `wait2` what the other does (R45). -/
structure Frag where
  pc : Pc
  lmask : BitVec 32
  smask : BitVec 8
  st : FragSt
  age : Nat
  steps : Nat
  why : Why
  wait : Wait
  wait2 : Wait
  yieldLeft : Nat
  entryCheck : Bool
  stepsLeft : Option Nat
  held : List (List Match)
  deriving DecidableEq, Repr

/-- Where one result lands (R64). -/
inductive Tgt where
  | s (slice r : Nat) (v : Dword)
  | c (slice r : Nat) (v : Bool)
  /-- the bits `bits` of nibble `slice` of a mask register -/
  | m (slice r : Nat) (bits v : BitVec 4)
  /-- the bits `bits` of one lane of a vector register -/
  | v (lane r : Nat) (bits v : Word)
  | a (lane r : Nat) (v : Word)
  | fstat (slice : Nat) (bits : BitVec 6)
  /-- a ladle binding with the descriptor read (R176) -/
  | bind (slice q win entry : Nat) (desc : BitVec 512) (addr : BitVec 64)
  deriving DecidableEq, Repr

/-- What a load-value sieve needs when the load commits (R269, R271): the load's issue, with its m0 AND LMASK, the addresses and,
of an atomic, the store values it presented; `inh` says that it issued while a handler ran (R266). -/
structure LoadInfo where
  pc : Pc
  lmask : Word
  mask : Word
  inh : Bool
  addrs : List AccEv
  stored : List ValEv
  elems : List (Nat × List Nat)
  width : Nat
  deriving DecidableEq, Repr

/-- The state of one access of a log entry (R183 to R186). -/
inductive AccSt where
  | pending
  | done
  | failed (cause : Nat)
  | dropped
  deriving DecidableEq, Repr

/-- One access of an operand-log entry: its lane, or four times the lowest slice of a slice-uniform one, the slices it
serves, its address and the data captured at issue (R183). -/
structure Acc where
  lane : Nat
  slices : List Nat
  ea : BitVec 64
  len : Nat
  data : Nat
  data2 : Nat
  st : AccSt
  deriving DecidableEq, Repr

/-- What kind of access an operand-log entry makes. -/
inductive AccKind where
  | load
  | store
  | atomic
  | ladle
  deriving DecidableEq, Repr

/-- An operand-log entry (R183). `old` says that a trap has set it aside (R185, R189); `seq` is its program order; `lanes`
are the lanes that LFLANES names, `act` the lanes active at issue; `uni` marks a slice-uniform access; `smask` holds the slices
where the guard passed, `frag` those of the issuing fragment (R173). -/
structure LogEntry where
  ins : Instr
  pc : Pc
  smask : BitVec 8
  frag : BitVec 8
  lanes : BitVec 32
  act : Word
  uni : Bool
  kind : AccKind
  space : Nat
  accs : List Acc
  tag : Nat
  seq : Nat
  old : Bool
  dbg : Bool
  peer : Option Nat
  deriving DecidableEq, Repr

/-- What an outstanding asynchronous result waits for, for the stall reasons of R284. -/
inductive FlightKind where
  | fixed
  | memory
  | array
  | status
  deriving DecidableEq, Repr

/-- A result on its way (R64 to R69), in the program order of its issuer's list. `left` counts the steps a
fixed-latency result still takes, `ready` says that an asynchronous one has returned. `dbg` marks a result of the
debug fragment (R279). `src` is the operand-log entry of a LADLE, which its binding outlives (R176, R183). A result for a vector
register at or beyond `cap` is discarded: a SHRINK has given that register up (R101). -/
structure Flight where
  slice : Nat
  dbg : Bool
  kind : FlightKind
  left : Option Nat
  ready : Bool
  tag : Nat
  tgts : List Tgt
  load : Option LoadInfo
  src : Option LogEntry
  cap : Nat
  deriving DecidableEq, Repr

/-- An element a ladle has fetched ahead: its offset in the walk from the current element, its lanes' values, and the
fault its lanes met (R179). -/
structure LadleElem where
  ahead : Nat
  vals : List (Nat × BitVec 64)
  bad : List (Nat × Nat)
  deriving DecidableEq, Repr

/-- One slice's binding of a ladle (R175 to R181). `dims` holds COUNT and STRIDE of the dimensions in use, `endsNext` the end
flags that the step in progress sets. -/
structure Ladle where
  win : Nat
  base : BitVec 64
  lstride : BitVec 32
  space : Nat
  ty : Nat
  wrap : Bool
  dims : List (Nat × BitVec 32)
  idx : List Nat
  ends : BitVec 5
  endsNext : Option (BitVec 5)
  pos : BitVec 32
  exhausted : Bool
  got : List LadleElem
  deriving DecidableEq, Repr

/-- What a trap sets aside (R124): the split table, the pending results, the entry that trapped and its SMASK. `logEntry` names the
log entry being reported (R185), `arrayFault` the array instruction whose deferred fault is (R239), `ins` names the insert
that met SPFULL (R338). -/
structure TrapSave where
  frags : Tab Nat Frag
  flights : List Flight
  entry : Nat
  full : BitVec 8
  logEntry : Option Nat
  arrayFault : Option Nat
  ins : Option Nat
  deriving DecidableEq, Repr

/-- Scope of a halt (R270). -/
inductive HaltScope where
  | lane
  | slice
  | gang
  | block
  deriving DecidableEq, Repr

/-- A DSTEP that runs: who asked, the flight its status returns in (0: the host debug port of the core named), its destination, the entry that
steps (8: the debug fragment), the steps run so far (R278). -/
structure Stepping where
  by_ : Who
  tag : Nat
  sd : Nat
  smask : BitVec 8
  entry : Nat
  ran : Nat
  deriving DecidableEq, Repr

/-- A deferred fault of the array waiting for a marker of its issuer (R238, R239): the slices for which the instruction
was outstanding and the flags of its completed steps. -/
structure ArrFault where
  cause : Nat
  info : Nat
  tval : Dword
  pc : Pc
  tag : Nat
  slices : BitVec 8
  flags : List Tgt
  deriving DecidableEq, Repr

/-- Who issues and everything it holds: a gang has eight slices, a stream or sequencer one (R82, R194, R358). -/
structure Issuer where
  ctx : Nat
  level : Nat
  v : Tab Nat Word
  a : Tab Nat Word
  s : Tab Nat Dword
  c : Tab Nat Bool
  m : Tab Nat (BitVec 4)
  fstat : Tab Nat (BitVec 6)
  tscr0 : Tab Nat Dword
  tscr1 : Tab Nat Dword
  tvec : Dword
  tepc : Dword
  tcause : Dword
  tval : Dword
  tmask : Word
  frags : Tab Nat Frag
  flights : List Flight
  nextTag : Nat
  saved : Option TrapSave
  -- gangs
  alloc : Nat
  unfused : BitVec 16
  blk : Nat
  index : Nat
  group : Nat
  born : Nat
  log : Tab Nat LogEntry
  logSeq : Nat
  logFlt : Bool
  logDropped : Bool
  logFent : Nat
  lfpc : Pc
  lflanes : Dword
  ladles : Tab Nat Ladle
  -- debug
  haltPc : Tab Nat Pc
  dlane : Option Nat
  hscope : Nat
  lastSv : Nat
  byHost : Bool
  stepping : List Stepping
  -- copies, the matrix array
  cwDone : Nat
  cwFw : Bool
  cwPois : Bool
  mwDone : Nat
  mpitch : Dword
  mfpc : Pc
  mdrop : BitVec 16
  arrFaults : List ArrFault
  ended : Bool
  deriving DecidableEq, Repr

/-- What a barrier remembers of one arrival or wait (R207): an arrival of a split gang still gathering, an arrival not
consumed, one whose phase has flipped with the ERR of that flip, a wait without an arrival, and one that has seen a flip. -/
inductive ArrSt where
  | gathering
  | open_
  | closed (err : Bool)
  | watch
  | seen (err : Bool)
  deriving DecidableEq, Repr

/-- A numbered barrier (R204 to R206, R359). `recs` is keyed by the issuer and its slice, or 16 plus the fragment entry
for an IDLE. -/
structure Barrier where
  target : BitVec 32
  expect : BitVec 5
  bytes : BitVec 32
  phase : BitVec 16
  err : Bool
  arrived : BitVec 5
  marks : List Who
  recs : Tab (Who × Nat) ArrSt
  deriving DecidableEq, Repr

/-- Which barrier a copy or an issuer names (R203, R359, R379, R413). -/
inductive BarKey where
  | block (core slot n : Nat)
  | cluster (c n : Nat)
  | die (d n : Nat)
  | package (n : Nat)
  deriving DecidableEq, Repr

/-- An end point of a copy: a local space, a virtual address of a context, a pod window as its import entry stood at issue
(R452), host memory (R417). -/
inductive Loc where
  | core (n addr : Nat)
  | cluster (n addr : Nat)
  | die (n addr : Nat)
  | virt (ctx die addr : Nat)
  | pod (peer : Nat) (key : BitVec 32) (eidx addr : Nat)
  | host (addr : Nat)
  deriving DecidableEq, Repr

/-- A bulk copy or multicast of an engine (R212 to R216, R362 to R365, R378, R452). `done` lists the 16-byte pieces
written for each destination, `failed` the destinations that receive no more, each with its reason, `fw` says that the
firmware finishes it. A multicast keeps its MASK and the slices, flight and destination of its status. `home` is the core
and block slot of its issuer, `marked` the granules to which it has carried poison, `gone` says that its issuer has ended, `got` holds the pieces
of a multicast that have been read and not yet written for every member (R365), with their poison; `fwAt` is the address logged
when the firmware took it over (R216). -/
structure Copy where
  id : Nat
  who : Who
  place : Place
  up : Bool
  flying : Bool
  ctx : Nat
  src : Loc
  dsts : List Loc
  rows : Nat
  width : Nat
  sstride : Nat
  dstride : Nat
  bars : List BarKey
  done : List (Nat × Nat)
  failed : List (Nat × Nat)
  fw : Bool
  pois : Bool
  tids : List Nat
  packet : Option Nat
  ret : Option (BitVec 8 × Nat × Nat)
  mask : Nat
  home : Option (Nat × Nat)
  marked : List Nat
  gone : Bool
  got : List (Nat × List Byte × Bool)
  fwAt : Nat
  deriving DecidableEq, Repr

/-- What a pre-emption does with a block (R312). -/
inductive Treat where
  | none
  | drain
  | save
  | flush
  deriving DecidableEq, Repr

/-- A resident block (R191 to R207) with its uniform stream. `pot` and `slot` name the record it runs, `bprogBy` the cycle and the
issuer of the latest write of BPROG (R132). -/
structure Block where
  stream : Issuer
  pot : Nat
  slot : Nat
  hdr : Pc
  array : Bool
  bars : Nat
  bprog : BitVec 16
  bprogBy : Option (Nat × Nat)
  firstDouble : Option (Bool × Nat × Nat)
  failed : List (Nat × Nat)
  exited : Bool
  halted : Bool
  idem : Bool
  preq : Bool
  pkind : Nat
  saves : BitVec 16
  treat : Treat
  deadline : Option Nat
  born : Nat
  deriving DecidableEq, Repr

/-- A sieve (R265) with its count. -/
structure Sieve where
  desc : BitVec 128
  opa : Dword
  opb : Dword
  cnt : Dword
  deriving DecidableEq, Repr

/-- Sieves, trace, sample and histogram registers of a core (R265, R281 to R285) and the sieve hit record; `svWas` is what the sieves
were before SVSET and SVCLR of the cycle given (R274). -/
structure Probe where
  sieves : Tab Nat Sieve
  svWas : Option (Nat × Tab Nat Sieve)
  svhit : Dword
  svhpc : Dword
  trctl : Dword
  trbase : Dword
  trptr : Dword
  trrd : Dword
  trlost : Dword
  lost : Nat
  hctl : Bool
  histe : Tab Nat Dword
  histr : Tab Nat Dword
  lastSample : Option Nat
  deriving DecidableEq, Repr

/-- A weight slot (R232, R233, R244). -/
structure HSlot where
  valid : Bool
  mode : Nat
  kext : Nat
  format : Nat
  payload : List Byte
  deriving DecidableEq, Repr

/-- An instruction in the array queue with the operands captured at its issue and its work area (R222, R263). `va`, `vb`
hold the scale, bias or τ operands lane by lane, `slices` is 0 for the stream, `lmask` is LMASK of the fragment at issue. -/
structure ArrOp where
  who : Who
  slices : BitVec 8
  lmask : Word
  dbg : Bool
  pc : Pc
  ins : Instr
  tag : Nat
  sa : Dword
  sb : Dword
  pitch : Dword
  va : List Word
  vb : List Word
  started : Bool
  ended : Bool
  step : Nat
  maxIn : Nat
  swaps : Nat
  status : Nat
  scol : Nat
  tau : List (Nat × Nat)
  flags : BitVec 6
  cycle : Nat
  deriving DecidableEq, Repr

/-- A 16-byte piece of a row of `len` bytes of a ZST or ZEPI that the store path has accepted and not yet performed (R237); `row`
names its row. -/
structure PendRow where
  id : Nat
  row : Nat
  len : Nat
  tag : Nat
  who : Who
  loc : Loc
  bytes : List Byte
  bar : Option BarKey
  deriving DecidableEq, Repr

/-- A request waiting for the register pool (R102, R200): `n` gangs of `regs` registers each, to start at `start`, or a GROW's
registers with `n = 0`. -/
structure PoolReq where
  id : Nat
  who : Who
  entry : Nat
  regs : Nat
  n : Nat
  cycle : Nat
  start : Pc
  deriving DecidableEq, Repr

/-- The host debug port of a core (R477). -/
structure DebugPort where
  doplo : Dword
  dophi : Dword
  darg : Tab Nat Dword
  dres : Tab Nat Dword
  busy : Bool
  dvec : Tab Nat Word
  deriving DecidableEq, Repr

/-- The fetched copy of one code line, or the fault its fetch met (R43, R44). -/
structure Line where
  place : Place
  ctx : Nat
  line : Nat
  data : BitVec 512
  bad : Option Nat
  deriving DecidableEq, Repr

/-- A core: its context, gangs, block slots, pool queue, the rank of the latest request granted at once (R200), sieves and trace, matrix array and debug port; the pre-emption it
undergoes, whether a SWITCH of the host is one of its reasons (R408), and the context it has been freed for (R310, R311). -/
structure Core where
  ctx : Option Nat
  gangs : Tab Nat Issuer
  blocks : Tab Nat Block
  poolQ : List PoolReq
  poolTaken : Nat
  probe : Probe
  z : Tab Nat Word
  zpoison : List Nat
  hslots : Tab Nat HSlot
  k : Tab Nat Byte
  aq : List ArrOp
  rows : List PendRow
  port : DebugPort
  since : Nat
  preempt : Option Nat
  switched : Bool
  forCtx : Option Nat
  deriving DecidableEq, Repr

/-- A translation a die has cached (R382, R386): a page of `2 ^ size` bytes. -/
structure Tlb where
  ctx : Nat
  va : Nat
  size : Nat
  pa : Nat
  rd : Bool
  wr : Bool
  ex : Bool
  deriving DecidableEq, Repr

/-- An entry of a die's fault buffer (R387, R388). `kind` is KIND[1:0], `flags` KIND[6:2]. -/
structure FaultEnt where
  ctx : Nat
  page : Nat
  kind : Nat
  flags : Nat
  src : Nat
  gen : Nat
  time : Dword
  reqs : List Requester
  reported : Bool
  order : Nat
  deriving DecidableEq, Repr

/-- An entry of a die's or the package's error log (R390, R422). -/
structure LogRec where
  addr : Dword
  ctx : Nat
  src : Nat
  kind : Nat
  info : Nat
  time : Dword
  deriving DecidableEq, Repr

/-- The object of a binding (R298): a barrier (level, number) or a word (space, address). -/
inductive BindObj where
  | bar (level n : Nat)
  | word (space addr : Nat)
  deriving DecidableEq, Repr

/-- A binding (R298). -/
structure Binding where
  space : Nat
  base : Nat
  len : Nat
  obj : BindObj
  deriving DecidableEq, Repr

/-- Whether a context is FREE, LIVE or faulted (R327, R408). -/
inductive CtxSt where
  | free
  | live
  | faulted
  deriving DecidableEq, Repr

/-- What the package holds of a context (R407, R408): its descriptor as CREATE read it, its keys by serial number, its
bindings and its fault-ring indices; `prcfgWas` is what PRCFG held before the writes of the cycle given (R320). -/
structure Ctx where
  st : CtxSt
  revoked : Bool
  troot : Nat
  codebase : Nat
  savebase : Nat
  savepages : Nat
  quantum : Nat
  debug : Bool
  prcfg : Dword
  prcfgWas : Option (Nat × Dword)
  frbase : Nat
  frsize : Nat
  msiv : Nat
  key : Nat
  shKey : BitVec 16
  prgen : Dword
  bindings : List Binding
  frwi : Dword
  frrd : Dword
  deriving DecidableEq, Repr

/-- The 64-byte image of a record without its COUNT (R331): KEY, PAYLOAD, bytes 48–55 and the upper half of 56–63. -/
structure Image where
  key : Dword
  words : List Word
  ctl : Dword
  lim : Word
  deriving DecidableEq, Repr

/-- STATE of a record that occupies a slot (R341). -/
inductive RecSt where
  | waiting
  | taken
  | running
  deriving DecidableEq, Repr

/-- Why a record is sealed (R332). -/
inductive SealWhy where
  | limit
  | flush
  | dispatch
  deriving DecidableEq, Repr

/-- A contribution to a reduction that has not been collected (R371): the contributor, the flight its result returns in,
its destination, its place in the record and its own words. -/
structure Contrib where
  who : Who
  smask : BitVec 8
  tag : Nat
  sd : Nat
  order : Nat
  deriving DecidableEq, Repr

/-- A record in a stockpot slot with its side state (R332). `groups` are the joined groups, by stockpot, that its
retirement decrements (R349); `packets` the journal numbers it finishes (R417); `from_` the intermediates that forwarded
into a root reduction record (R455); `result` a completed reduction's words, STATUS and COUNT. -/
structure Rec where
  ctx : Nat
  img : Image
  count : Nat
  st : RecSt
  sealed : Option SealWhy
  created : Nat
  order : Nat
  gates : List (BarKey × BitVec 16)
  gateErr : Bool
  home : Nat
  groups : List (Nat × Nat)
  runner : Option Who
  contribs : List Contrib
  from_ : List (Nat × Nat)
  flushed : Option Nat
  result : Option (List Word × Nat × Nat)
  timeout : Option Nat
  packets : List Nat
  partition : List Nat
  podN : Option Nat
  cutAt : Option Nat
  deriving DecidableEq, Repr

/-- Who waits in a stockpot JOIN (R350, R451). -/
inductive Joiner where
  | issuer (who : Who) (entry : Nat)
  | remote (src tid : Nat)
  deriving DecidableEq, Repr

/-- An entry of a group table (R349). -/
structure Group where
  count : Nat
  errs : Nat
  joiners : List Joiner
  deriving DecidableEq, Repr

/-- A stockpot (R329): 0 to 31 of the clusters, 32 to 35 of the dies, 36 of the package. `retired` is the latest retirement status that
its sequencer has received (R202). -/
structure Pot where
  recs : Tab Nat Rec
  nextOrder : Nat
  groups : Tab (Nat × Nat) Group
  ageen : Bool
  a : Nat
  retired : BitVec 32
  deriving DecidableEq, Repr

/-- Who made an insert (R334, R370, R399, R417, R450, R455). -/
inductive InsFrom where
  | launch (who : Who) (smask : BitVec 8) (tag sd : Nat) (withCount : Bool)
  | reduce (who : Who) (smask : BitVec 8) (tag sd : Nat)
  | arm (die entry : Nat)
  | packet (seq : Nat)
  | remote (src tid : Nat)
  deriving DecidableEq, Repr

/-- An insert on its way to a stockpot (R335, R336): the image still to be read at `addr` of `space`, or `img`; what replaces
its KEY and words; `seq` its place among its issuer's accesses, `frag` the slices of its fragment; whether it has met SPFULL, waits for a slot, has to be
attempted again before its marker (R338), or has been sent to a peer. `podN` is the count of a pod reduction (R454). `ghost` numbers the block or the
run that issued it, once that has retired: it is an insert of no issuer any more (R337, R338). -/
structure PendIns where
  id : Nat
  pot : Nat
  ctx : Nat
  die : Nat
  src : InsFrom
  space : Nat
  addr : Dword
  bad : Bool
  img : Option Image
  key : Option Dword
  words01 : Option Dword
  nb : Bool
  ns : Bool
  level : Nat
  timeout : Option Nat
  podN : Option Nat
  seq : Nat
  frag : BitVec 8
  dbg : Bool
  old : Bool
  spfull : Bool
  stalled : Bool
  again : Bool
  sent : Option Nat
  ghost : Option Nat
  deriving DecidableEq, Repr

/-- An arm entry of a die (R395 to R401). `level` is 3 or 4. -/
structure Arm where
  ctx : Nat
  img : Image
  level : Nat
  isTag : Bool
  arg : Dword
  period : Dword
  persist : Bool
  gen : Nat
  order : Nat
  fired : Nat
  waiting : Option Nat
  backlog : List Dword
  deriving DecidableEq, Repr

/-- A waiting ARM of a die (R397), with its place in the program of its fragment as in `PendIns`; whether its block or run has retired. -/
structure PendArm where
  id : Nat
  die : Nat
  ctx : Nat
  who : Option (Who × BitVec 8 × Nat)
  packet : Option Nat
  space : Nat
  addr : Dword
  arm : Arm
  nb : Bool
  sd : Nat
  seq : Nat
  frag : BitVec 8
  dbg : Bool
  badArg : Bool
  bad : Bool
  stalled : Bool
  gone : Bool
  deriving DecidableEq, Repr

/-- A cluster (R354 to R362): its owner, and whether the state of an earlier owner is saved is in `images`. -/
structure Cluster where
  owner : Option Nat
  deriving DecidableEq, Repr

/-- A migration command in progress (R392); `waits` says that its next record has found the destination full. -/
structure Migr where
  dies : Bool
  src : Nat
  dst : Nat
  slots : List Nat
  waits : Bool
  deriving DecidableEq, Repr

/-- A die (R374 to R403): its owner, and the context it has been freed for (R375); `walkq` are the walks that wait for a walker, in
arrival order, and `held` those that keep theirs until a fault-buffer entry frees: context, page, KIND, requester (R385, R387). -/
structure Die where
  owner : Option Nat
  forCtx : Option Nat
  tlb : List Tlb
  faults : Tab Nat FaultEnt
  gens : Tab Nat Nat
  stale : BitVec 16
  held : List (Nat × Nat × Nat × Requester)
  walkq : List (Nat × Nat × Nat × Requester)
  elog : List LogRec
  elHead : Nat
  elOvf : BitVec 16
  arms : Tab Nat Arm
  armGens : Tab Nat Nat
  nomatch_ : BitVec 16
  dropped : BitVec 16
  missed : BitVec 16
  sccfg : Dword
  moved : BitVec 32
  cmds : BitVec 32
  migr : List Migr
  scAt : Nat
  scPkgAt : Nat
  tinv0 : Dword
  fres0 : Dword
  lastServed : Nat
  deriving DecidableEq, Repr

/-- A running record of a sequencer (R343, R358). `done` is the cause and original cause of its end (R127, R202). -/
structure Seq where
  iss : Issuer
  pot : Nat
  slot : Nat
  hdr : Pc
  done : Option (Nat × Nat)
  deriving DecidableEq, Repr

/-- A queue descriptor (R415) with the WI value last read. -/
structure Queue where
  qbase : Dword
  qwi : Dword
  crbase : Dword
  qsize : Nat
  crsize : Nat
  ver : Nat
  en : Bool
  ctx : Nat
  msiv : Nat
  ri : Dword
  wi : Dword
  deriving DecidableEq, Repr

/-- A packet accepted and not final, or final with its completion record to be written (R417 to R420). -/
structure Packet where
  seq : Nat
  q : Nat
  ctx : Nat
  kind : Nat
  tag : Nat
  crq : Bool
  slot : Nat
  body : List Byte
  done : Nat
  status : Option Nat
  cause : Nat
  addr : Dword
  open_ : Nat
  rootErr : Bool
  part : List Nat
  late : Nat
  deriving DecidableEq, Repr

/-- A request or insert of this package that awaits its response (R448, R449). -/
inductive ReqOwner where
  | log (core gid entry : Nat)
  | copy (id piece : Nat)
  | insert (id : Nat)
  | join (who : Who) (entry : Nat)
  | partial_ (slot : Nat)
  deriving DecidableEq, Repr

/-- See `ReqOwner`: the message as sent and when. -/
structure Req where
  tid : Nat
  owner : ReqOwner
  msg : Msg
  sentAt : Nat
  retry : Bool
  deriving DecidableEq, Repr

/-- A fabric port (R430, R431, R460). -/
structure Port where
  en : Bool
  peer : Nat
  st : Nat
  reason : Nat
  fails : Nat
  width : Nat
  speed : Bool
  retrains : BitVec 32
  w : BitVec 24
  since : Nat
  fell : Bool
  deriving DecidableEq, Repr

/-- What an image in a save area holds beside its bytes (R318, R323, R356, R376): the saved state of a core under the number of a
core that no package has, the barriers of a cluster or a die. -/
inductive Saved where
  | core (n limbo : Nat)
  | cluster (n : Nat) (bars : List (Nat × Barrier))
  | die (n : Nat) (bars : List (Nat × Barrier))
  deriving DecidableEq, Repr

/-- A saved image (R318, R325): its generation, where it lies, its pages without their tags, its directory (kind, block slot, gang,
first page, pages), the poisoned granules of the memory it holds, and whether a suspend wrote it. -/
structure SavedImg where
  id : Nat
  ctx : Nat
  gen : Nat
  base : Nat
  pages : Nat
  dir : List (Nat × Nat × Nat × Nat × Nat)
  what : Saved
  pois : List Nat
  suspended : Bool
  deriving DecidableEq, Repr

/-- A remote request from a peer that waits here for its translation, its window already checked (R441, R442). -/
structure Held where
  id : Nat
  msg : Msg
  ctx : Nat
  base : Nat
  deriving DecidableEq, Repr

/-- A store of 0 or 1 to a collective's STOP word that is still to be performed (R417). -/
structure StopStore where
  id : Nat
  ctx : Nat
  va : Nat
  value : Nat
  deriving DecidableEq, Repr

/-- What the next step does: an issuer's fragment issues, an event of the opcode table takes place, or cycles and
nanoseconds pass. -/
inductive Turn where
  | issue (who : Who) (entry : Nat)
  | event (i : Instr)
  | pass (cycles ns : Nat)
  deriving DecidableEq, Repr

/-- The part an instruction plays in its step: alone, first of a pair (with the second's instruction), second of one. -/
inductive Role where
  | single
  | first (other : Instr)
  | second (other : Instr)
  deriving DecidableEq, Repr

/-- The issue in progress: the issuer, its fragment, the PC of the step, the PC of this instruction and the PC after the
step; and, of a pair whose first instruction is LDRAIN, the ladles as the step reads them (R63). -/
structure Cur where
  who : Who
  entry : Nat
  pc : Pc
  at_ : Pc
  next : Pc
  role : Role
  lads : Option (Tab Nat Ladle)
  deriving DecidableEq, Repr

/-- A trap about to be taken (R124): its cause and information, its TVAL, the slot that raised it, and, where they are not
the ones of the step in progress, TEPC and TMASK; the log entry it reports (R185); the array instruction of a deferred fault;
the insert that met SPFULL (R338). -/
structure TrapReq where
  cause : Nat
  info : Nat
  tval : Dword
  slot : Nat
  epc : Option Pc
  tmask : Option Word
  entry : Option Nat
  arr : Option Nat
  ins : Option Nat
  deriving DecidableEq, Repr

/-- What became of the latest issue. -/
inductive Ev where
  | none
  | issued
  | stalled (w : Why)
  | trapped (t : TrapReq)
  deriving DecidableEq, Repr

/-- A Z7 package. -/
structure State where
  -- memory (R164, R404) and its poison and key marks (R188, R405)
  mem : Memory
  poison : List Nat
  lineKey : Tab Nat Nat
  -- clocks (R133, R393, R394); by fabric port, the best PTP master announced there and when
  cycles : Nat
  tb : Nat
  tbcfg : Dword
  tbOffset : BitVec 32
  tbLocked : Bool
  masters : Tab Nat (Nat × Nat)
  -- levels
  cores : Tab Nat Core
  clusters : Tab Nat Cluster
  dies : Tab Nat Die
  seqs : Tab Who Seq
  bars : Tab BarKey Barrier
  lines : List Line
  copies : List Copy
  pots : Tab Nat Pot
  inserts : List PendIns
  pendArms : List PendArm
  images : List SavedImg
  -- the package (R404 to R426)
  ctxs : Tab Nat Ctx
  nextKey : Nat
  ctxbase : Dword
  ctxErr : Bool
  pwrcap : BitVec 16
  suspst : Nat
  suspends : Nat
  suspendAt : Nat
  stopped : Bool
  jbase : Dword
  jsize : Nat
  jwr : Dword
  jrd : Dword
  scrub : BitVec 8
  ecccor : Tab Nat (BitVec 32)
  tinvDone : BitVec 32
  queues : Tab Nat Queue
  packets : List Packet
  stops : List StopStore
  pelog : List LogRec
  pelHead : Nat
  pelOvf : BitVec 16
  -- the boot that each measurement register holds, and whether the package is in recovery (R423)
  measure : Tab Nat Nat
  recovery : Bool
  power : Nat
  clockStep : Nat
  linkMode : Nat
  linkWidth : Nat
  answers : List (List Byte)
  hostOut : List (Nat × List Byte × Bool)
  msi : List Nat
  -- the fabric (R427 to R461)
  fabid : BitVec 11
  rtime : BitVec 16
  adapt : BitVec 8
  expbase : Dword
  refused : BitVec 32
  retried : BitVec 32
  podroot : BitVec 11
  fxBusy : Option Nat
  ports : Tab Nat Port
  rtent : Tab Nat Dword
  impbase : Tab Nat Dword
  outbox : List Msg
  reqs : List Req
  nextTid : Nat
  held : List Held
  -- the model's own: whose turn it is, the issue in progress, counters of names and free values
  agenda : List Turn
  cur : Option Cur
  ev : Ev
  evs : List StepEv
  svOld : Tab Nat Sieve
  nextId : Nat
  draws : Nat
  deriving DecidableEq, Repr

/-- Why a step stops without a next state. -/
inductive Fault where
  /-- Raised by `exec` for a word instruction where no issuer is issuing, and by nothing the package does: SAFE. -/
  | noIssuer
  deriving DecidableEq, Repr

/-- Why an instruction has no meaning in this model. -/
inductive Refusal where
  /-- Raised by an arm of `exec` whose instruction has no meaning yet: SAFE. -/
  | notModelled (mnemonic : String)
  deriving DecidableEq, Repr

/-- An issuer with every register at its value at launch (R126, R194, R199), no fragment yet. -/
def Issuer.fresh (ctx level : Nat) : Issuer :=
  { ctx := ctx, level := level, v := [], a := [], s := [], c := [], m := [], fstat := [], tscr0 := [], tscr1 := [], tvec := 0,
    tepc := 0, tcause := 0, tval := 0, tmask := 0, frags := [], flights := [], nextTag := 0, saved := none, alloc := 0,
    unfused := 0, blk := 0, index := 0, group := 0, born := 0, log := [], logSeq := 0, logFlt := false,
    logDropped := false, logFent := 0, lfpc := 0, lflanes := 0, ladles := [], haltPc := [], dlane := none, hscope := 0,
    lastSv := 0, byHost := false, stepping := [], cwDone := 0, cwFw := false, cwPois := false, mwDone := 0, mpitch := 0,
    mfpc := 0, mdrop := 0, arrFaults := [], ended := false }

/-- A fragment about to take its first step at `pc` (R81, R88). -/
def Frag.fresh (pc : Pc) (lmask : BitVec 32) (smask : BitVec 8) : Frag :=
  { pc := pc, lmask := lmask, smask := smask, st := .eligible, age := 0, steps := 0, why := .none, wait := .none,
    wait2 := .none, yieldLeft := 0, entryCheck := true, stepsLeft := none, held := [] }

/-- A free split-table entry (R88). -/
def Frag.none : Frag :=
  { pc := 0, lmask := 0, smask := 0, st := .free, age := 0, steps := 0, why := .none, wait := .none, wait2 := .none,
    yieldLeft := 0, entryCheck := false, stepsLeft := Option.none, held := [] }

/-- Sieves, trace and histograms at reset (R265, R285). -/
def Probe.reset : Probe :=
  { sieves := [], svWas := none, svhit := 0, svhpc := 0, trctl := 0, trbase := 0, trptr := 0, trrd := 0, trlost := 0, lost := 0,
    hctl := false, histe := [], histr := [], lastSample := none }

/-- The debug port at reset (R477; notes/assumptions 2). -/
def DebugPort.reset : DebugPort :=
  { doplo := 0, dophi := 0, darg := [], dres := [], busy := false, dvec := [] }

/-- An empty core. -/
def Core.reset : Core :=
  { ctx := none, gangs := [], blocks := [], poolQ := [], poolTaken := 0, probe := Probe.reset, z := [], zpoison := [], hslots := [],
    k := [], aq := [], rows := [], port := DebugPort.reset, since := 0, preempt := none, switched := false, forCtx := none }

/-- A barrier of a cluster, die or package (R359), and with EXPECT 31 of a block (R204). -/
def Barrier.reset (expect : BitVec 5) : Barrier :=
  { target := 0, expect := expect, bytes := 0, phase := 0, err := false, arrived := 0, marks := [], recs := [] }

/-- An empty stockpot (R352). -/
def Pot.reset : Pot := { recs := [], nextOrder := 0, groups := [], ageen := true, a := 6, retired := 0 }

/-- A die at reset (R392, R402). -/
def Die.reset : Die :=
  { owner := none, forCtx := none, tlb := [], faults := [], gens := [], stale := 0, held := [], walkq := [], elog := [], elHead := 0, elOvf := 0,
    arms := [], armGens := [], nomatch_ := 0, dropped := 0, missed := 0, sccfg := 0x0000006400100401, moved := 0,
    cmds := 0, migr := [], scAt := 0, scPkgAt := 0, tinv0 := 0, fres0 := 0, lastServed := 0 }

/-- A FREE context (R408). -/
def Ctx.reset : Ctx :=
  { st := .free, revoked := false, troot := 0, codebase := 0, savebase := 0, savepages := 0, quantum := 0, debug := false,
    prcfg := 0, prcfgWas := none, frbase := 0, frsize := 0, msiv := 0, key := 0, shKey := 0, prgen := 0, bindings := [], frwi := 0,
    frrd := 0 }

/-- A queue descriptor at reset (R415). -/
def Queue.reset : Queue :=
  { qbase := 0, qwi := 0, crbase := 0, qsize := 0, crsize := 0, ver := 0, en := false, ctx := 0, msiv := 0, ri := 0,
    wi := 0 }

/-- A port at reset (R431, R460). -/
def Port.reset : Port :=
  { en := true, peer := 0x7FF, st := 0, reason := 0, fails := 0, width := 0, speed := false, retrains := 0,
    w := 0x020804, since := 0, fell := false }

/-- A routing entry at reset: no path, MID 0x7FF (R460). -/
def rtentReset : Dword := 0x3FF8000000000000

/-- The package right after reset: nothing runs, no context lives, registers at the values of R402, R410, R415, R460. -/
def State.reset : State :=
  { mem := [], poison := [], lineKey := [], cycles := 0, tb := 0, tbcfg := 0, tbOffset := 0, tbLocked := false, masters := [],
    cores := [], clusters := [], dies := [], seqs := [], bars := [], lines := [], copies := [], pots := [],
    inserts := [], pendArms := [], images := [], ctxs := [], nextKey := 1, ctxbase := 0, ctxErr := false, pwrcap := 3000,
    suspst := 0, suspends := 0, suspendAt := 0, stopped := false, jbase := 0, jsize := 10, jwr := 0, jrd := 0,
    scrub := 24, ecccor := [], tinvDone := 0, queues := [], packets := [], stops := [], pelog := [], pelHead := 0, pelOvf := 0,
    measure := [(0, 1), (1, 1), (2, 1), (3, 1), (4, 1), (5, 1), (6, 1), (7, 1)], recovery := false, power := 0, clockStep := 0, linkMode := 0, linkWidth := 0, answers := [], hostOut := [], msi := [], fabid := 0x7FF,
    rtime := 100, adapt := 16, expbase := 0, refused := 0, retried := 0, podroot := 0x7FF, fxBusy := none, ports := [], rtent := [],
    impbase := [], outbox := [], reqs := [], nextTid := 0, held := [], agenda := [], cur := none, ev := .none, evs := [],
    svOld := [], nextId := 0, draws := 0 }

end Sys2Proof.Machine
end

