-- ==== Sys2Proof/Machine/Memory.lean ====
section
/-! DEFINITION. The memories of the package as one flat list of bytes in canonical form (R6, R164, R404), poison of
64-byte granules (R188), and the keys of package memory (R405). -/
namespace Sys2Proof.Machine

/-- Where the memories start in the flat numbering of bytes. -/
def dieKey (d a : Nat) : Nat := 2 ^ 40 + d * 2 ^ 26 + a
def clusterKey (n a : Nat) : Nat := 2 ^ 41 + n * 2 ^ 23 + a
def coreKey (n a : Nat) : Nat := 2 ^ 42 + n * 2 ^ 19 + a

/-- The byte at `k`. -/
def Memory.get : Memory → Nat → Byte
  | [], _ => Memory.unlisted
  | (j, b) :: r, k => if j = k then b else Memory.get r k

/-- `m` with byte `k` holding `b`: the entry goes where the value is what an unlisted byte reads as. -/
def Memory.put : Memory → Nat → Byte → Memory
  | [], k, b => if b = Memory.unlisted then [] else [(k, b)]
  | (j, c) :: r, k, b =>
    if k < j then (if b = Memory.unlisted then (j, c) :: r else (k, b) :: (j, c) :: r)
    else if k = j then (if b = Memory.unlisted then r else (k, b) :: r)
    else (j, c) :: Memory.put r k b

/-- The bytes `k`, `k+1`, … , `n` of them. -/
def Memory.read (m : Memory) (k n : Nat) : List Byte := (List.range n).map (fun i => m.get (k + i))

/-- `m` with `bs` written from `k` on. -/
def Memory.write : Memory → Nat → List Byte → Memory
  | m, _, [] => m
  | m, k, b :: r => Memory.write (m.put k b) (k + 1) r

/-- The entries that bytes from `k` on make in the canonical form. -/
def Memory.cells : Nat → List Byte → Memory
  | _, [] => []
  | k, b :: r => if b = Memory.unlisted then Memory.cells (k + 1) r else (k, b) :: Memory.cells (k + 1) r

/-- `m` with `bs` in place of what stood from `k` on: `Memory.write` for a whole page or more. -/
def Memory.splice (m : Memory) (k : Nat) (bs : List Byte) : Memory :=
  m.filter (fun c => c.1 < k) ++ Memory.cells k bs ++ m.filter (fun c => k + bs.length ≤ c.1)

/-- The 64-byte granules, numbered in the flat memory, that `n` bytes at `k` touch. -/
def granulesOf (k n : Nat) : List Nat :=
  if n = 0 then [] else (List.range ((k + n - 1) / 64 - k / 64 + 1)).map (fun i => k / 64 + i)

/-- Whether any of `n` bytes at `k` lies in a poisoned granule (R188). -/
def State.poisoned (s : State) (k n : Nat) : Bool := (granulesOf k n).any (fun g => s.poison.contains g)

/-- Granule `g` is poisoned (R188). -/
def State.setPoison (s : State) (g : Nat) : State :=
  if s.poison.contains g then s else { s with poison := g :: s.poison }

/-- A store of `n` bytes at `k` clears the poison of the granules it writes whole (R188). -/
def State.clearPoison (s : State) (k n : Nat) : State :=
  { s with poison := s.poison.filter (fun g => !(k ≤ 64 * g && 64 * g + 64 ≤ k + n)) }

/-- A store of bytes to a memory that is not encrypted by context: scratch, cluster memory, die SRAM. -/
def State.storeFlat (s : State) (k : Nat) (bs : List Byte) : State :=
  { s.clearPoison k bs.length with mem := s.mem.write k bs }

/-- One byte of package memory at physical address `a` as a party with key `key` reads it: under another key it is a
free value (R405). -/
def State.pkgByte (s : State) (key a : Nat) : Byte :=
  match s.lineKey.find (a / 64) with
  | none => s.mem.get a
  | some j =>
    if j = key then s.mem.get a
    else Config.wrongKeyByte j key (a / 16) (s.mem.read (a / 16 * 16) 16) (a % 16)

/-- `n` bytes of package memory under `key` (R405). -/
def State.pkgRead (s : State) (key a n : Nat) : List Byte := (List.range n).map (fun i => s.pkgByte key (a + i))

/-- A line of package memory is read, merged and written back under `key` before part of it is stored to (R405). -/
def State.rekey (s : State) (key line : Nat) : State :=
  match s.lineKey.find line with
  | some j =>
    if j = key then s
    else { s with mem := s.mem.write (64 * line) (s.pkgRead key (64 * line) 64), lineKey := s.lineKey.put line key }
  | none => { s with lineKey := s.lineKey.put line key }

/-- A store to package memory at physical address `a` under `key` (R188, R405). -/
def State.pkgStore (s : State) (key a : Nat) (bs : List Byte) : State :=
  ((granulesOf a bs.length).foldl (fun s l => s.rekey key l) s).storeFlat a bs

/-- Package memory as the package's own engines read it, under the system key (R405); an address at or above the end of package memory
names no memory (R404). -/
def State.sysRead (s : State) (a n : Nat) : List Byte :=
  (List.range n).map (fun i => if a + i < Config.packageBytes then s.pkgByte 0 (a + i) else Config.absentByte (a + i))

/-- A 64-bit word under the system key. -/
def State.sysWord (s : State) (a : Nat) : Nat := ofBytes (s.sysRead a 8)

/-- A store under the system key (R405): bytes that would lie in no memory are lost (R404). -/
def State.sysStore (s : State) (a : Nat) (bs : List Byte) : State := s.pkgStore 0 a (bs.take (Config.packageBytes - a))

/-- The record of context `n` (R407). -/
def State.ctxOf (s : State) (n : Nat) : Ctx := s.ctxs.get n Ctx.reset

/-- Context `n` changed by `f`. -/
def State.updCtx (s : State) (n : Nat) (f : Ctx → Ctx) : State := { s with ctxs := s.ctxs.put n (f (s.ctxOf n)) }

/-- Core, die, cluster, stockpot, barrier `n`. -/
def State.core (s : State) (n : Nat) : Core := s.cores.get n Core.reset
def State.updCore (s : State) (n : Nat) (f : Core → Core) : State := { s with cores := s.cores.put n (f (s.core n)) }
/-- The cores of the package that hold something. -/
def State.coreList (s : State) : List Nat := (s.cores.map (fun c => c.1)).filter (fun n => n < 256)
def State.die (s : State) (d : Nat) : Die := s.dies.get d Die.reset
def State.updDie (s : State) (d : Nat) (f : Die → Die) : State := { s with dies := s.dies.put d (f (s.die d)) }
/-- Whether a pre-emption stops block `b` of core `n` (R313, R316). -/
def State.stoppedAt (s : State) (n b : Nat) : Bool :=
  match (s.core n).blocks.find b with
  | none => false
  | some k => k.treat == Treat.save || k.treat == Treat.flush
def State.clusterOwner (s : State) (c : Nat) : Option Nat := (s.clusters.get c ⟨none⟩).owner
def State.pot (s : State) (p : Nat) : Pot := s.pots.get p Pot.reset
def State.updPot (s : State) (p : Nat) (f : Pot → Pot) : State := { s with pots := s.pots.put p (f (s.pot p)) }

end Sys2Proof.Machine
namespace Sys2Proof

/-- The die of an issuer; the package's is die 0 (R380). -/
def Who.die : Who → Nat
  | .gang c _ => c / 64
  | .stream c _ => c / 64
  | .clusterSeq c => c / 8
  | .dieSeq d => d
  | .packageSeq => 0

/-- The core of an issuer, if it has one. -/
def Who.core? : Who → Option Nat
  | .gang c _ => some c
  | .stream c _ => some c
  | .clusterSeq _ => none
  | .dieSeq _ => none
  | .packageSeq => none

/-- The cluster of an issuer, if it has one. -/
def Who.cluster? : Who → Option Nat
  | .gang c _ => some (c / 8)
  | .stream c _ => some (c / 8)
  | .clusterSeq n => some n
  | .dieSeq _ => none
  | .packageSeq => none

/-- Where an issuer is placed (R287). -/
def Who.place : Who → Place
  | .gang c _ => .core c
  | .stream c _ => .core c
  | .clusterSeq n => .cluster n
  | .dieSeq d => .die d
  | .packageSeq => .package

/-- Whether an issuer is one of a core whose state is saved: such a core has a number that no package has (R318). -/
def Who.isSaved : Who → Bool
  | .gang c _ => 256 ≤ c
  | .stream c _ => 256 ≤ c
  | .clusterSeq _ => false
  | .dieSeq _ => false
  | .packageSeq => false

end Sys2Proof
namespace Sys2Proof.Machine

/-- A record of the error log of die `d` (R390): the first 64 events are kept. -/
def State.logDie (s : State) (d : Nat) (addr : Nat) (ctx src kind info : Nat) : State :=
  s.updDie d (fun e =>
    if e.elog.length < 64 then
      { e with elog := e.elog ++ [⟨BitVec.ofNat 64 addr, ctx, src, kind, info, BitVec.ofNat 64 s.tb⟩] }
    else { e with elOvf := BitVec.ofNat 16 (satAt 16 (e.elOvf.toNat + 1)) })

/-- A record of the package error log (R422): the first 256 events are kept. -/
def State.logPkg (s : State) (addr : Nat) (ctx src kind info : Nat) : State :=
  if s.pelog.length < 256 then
    { s with pelog := s.pelog ++ [⟨BitVec.ofNat 64 addr, ctx, src, kind, info, BitVec.ofNat 64 s.tb⟩] }
  else { s with pelOvf := BitVec.ofNat 16 (satAt 16 (s.pelOvf.toNat + 1)) }

/-- The 32 bytes of an error-log entry (R390). -/
def LogRec.bytes (r : LogRec) : List Byte :=
  bytesOf r.addr.toNat 8 ++ bytesOf r.ctx 2 ++ bytesOf r.src 1 ++ bytesOf r.kind 1 ++ bytesOf r.info 4
    ++ bytesOf r.time.toNat 8 ++ bytesOf 0 8

/-- What an attempted access comes to: it is performed, it waits for a translation, or it fails with a cause (R187). -/
inductive Attempt (α : Type) where
  | ok (a : α)
  | wait
  | bad (cause : Nat)
  deriving DecidableEq, Repr

/-- Access kinds of the fault buffer (R387). -/
def kRead : Nat := 0
def kWrite : Nat := 1
def kAtomic : Nat := 2
def kFetch : Nat := 3

/-- The translation of `va` in context `ctx` that die `d` has cached (R382, R386). -/
def State.tlbOf (s : State) (d ctx va : Nat) : Option Tlb :=
  (s.die d).tlb.find? (fun t => t.ctx = ctx && t.va ≤ va && va < t.va + 2 ^ t.size)

/-- Whether a translation permits an access of a kind (R384). -/
def Tlb.allows (t : Tlb) (kind : Nat) : Bool :=
  if kind = kRead then t.rd else if kind = kFetch then t.ex else t.rd && t.wr

/-- The physical address of a translated access of `len` bytes that stays inside a 4 KiB page (R380 to R384): KEYREV where
the key of the context is revoked (R408). -/
def State.translate (s : State) (d ctx va kind : Nat) : Attempt Nat :=
  if (s.ctxOf ctx).revoked then .bad 0x14
  else match s.tlbOf d ctx va with
    | none => .wait
    | some t => if t.allows kind then .ok (t.pa + (va - t.va)) else .bad 0x12

/-- The memory spaces a party of core, cluster and die placement reaches (R164): space code, then the place of the byte
`a` of it in the flat memory. Package space is translated. -/
def flatOf (core? cluster? : Option Nat) (die space a : Nat) : Option Nat :=
  if space = 1 then core?.map (fun c => coreKey c a)
  else if space = 2 then cluster?.map (fun c => clusterKey c a)
  else if space = 3 then some (dieKey die a)
  else none

/-- The size of a space (R164). -/
def spaceSize (space : Nat) : Nat :=
  if space = 1 then Config.scratchBytes
  else if space = 2 then Config.clusterBytes
  else if space = 3 then Config.dieBytes
  else if space = 4 then 2 ^ 57
  else 0

end Sys2Proof.Machine
end

