-- ==== Sys2Proof/Machine/Regs.lean ====
section
/-! DEFINITION. Registers, masks and flags of an issuer (R48, R82 to R87), results on their way (R64 to R67) and the
ladle bindings that land with them (R175, R176). -/
namespace Sys2Proof.Machine

/-- The issuer named `w`, if it exists. -/
def State.issuer (s : State) : Who → Option Issuer
  | .gang c g => (s.core c).gangs.find g
  | .stream c b => ((s.core c).blocks.find b).map (fun k => k.stream)
  | .clusterSeq n => (s.seqs.find (.clusterSeq n)).map (fun q => q.iss)
  | .dieSeq n => (s.seqs.find (.dieSeq n)).map (fun q => q.iss)
  | .packageSeq => (s.seqs.find .packageSeq).map (fun q => q.iss)

/-- Sequencer `w` with its issuer changed by `f`. -/
def State.updSeq (s : State) (w : Who) (f : Issuer → Issuer) : State :=
  match s.seqs.find w with
  | none => s
  | some q => { s with seqs := s.seqs.put w { q with iss := f q.iss } }

/-- Issuer `w` changed by `f`, if it exists. -/
def State.updIssuer (s : State) (w : Who) (f : Issuer → Issuer) : State :=
  match w with
  | .gang c g =>
    match (s.core c).gangs.find g with
    | none => s
    | some u => s.updCore c (fun k => { k with gangs := k.gangs.put g (f u) })
  | .stream c b =>
    match (s.core c).blocks.find b with
    | none => s
    | some k => s.updCore c (fun e => { e with blocks := e.blocks.put b { k with stream := f k.stream } })
  | .clusterSeq _ => s.updSeq w f
  | .dieSeq _ => s.updSeq w f
  | .packageSeq => s.updSeq w f

end Sys2Proof.Machine
namespace Sys2Proof

/-- Whether an issuer is a gang. -/
def Who.isGang : Who → Bool
  | .gang _ _ => true
  | .stream _ _ => false
  | .clusterSeq _ => false
  | .dieSeq _ => false
  | .packageSeq => false

/-- Whether an issuer is a sequencer. -/
def Who.isSeq : Who → Bool
  | .gang _ _ => false
  | .stream _ _ => false
  | .clusterSeq _ => true
  | .dieSeq _ => true
  | .packageSeq => true

end Sys2Proof
namespace Sys2Proof.Machine

/-- Split-table entry `e` (R88). -/
def Issuer.frag (u : Issuer) (e : Nat) : Frag := u.frags.get e Frag.none

/-- Entry `e` changed by `f`. -/
def Issuer.updFrag (u : Issuer) (e : Nat) (f : Frag → Frag) : Issuer := { u with frags := u.frags.put e (f (u.frag e)) }

/-- Entry `e` freed. -/
def Issuer.freeFrag (u : Issuer) (e : Nat) : Issuer := { u with frags := u.frags.drop e }

/-- The lane of the debug fragment, from its LMASK (R88, R279). -/
def laneOf (lmask : BitVec 32) : Nat := lowestBit lmask.toNat 0 31

/-- Whether a fragment is the debug fragment, whose SMASK is 0 (R88), also while it runs a trap handler (R124). -/
def Frag.isDbg (f : Frag) : Bool := f.smask == 0

/-- The slices of a fragment: those of SMASK, or the slice of the debug fragment's lane (R279). -/
def Frag.slices (f : Frag) : List Nat := if f.isDbg then [laneOf f.lmask / 4] else bitsSet f.smask.toNat 8

/-- The lane of the debug fragment, or none (R279). -/
def Frag.dbgLane (f : Frag) : Option Nat :=
  if f.isDbg then some (laneOf f.lmask) else Option.none

/-- Lanes of slices, as a mask. -/
def lanesOf (slices : List Nat) : BitVec 32 :=
  slices.foldl (fun a j => a ||| BitVec.ofNat 32 (15 <<< (4 * j))) 0

/-- Copy `j` of `s(r)`; s0 reads zero (R48). -/
def Issuer.rdS (u : Issuer) (r j : Nat) : Dword := if r = 0 then 0 else u.s.get (8 * r + j) 0

/-- Copy `j` of `c(r)`; c0 reads true (R48). -/
def Issuer.rdC (u : Issuer) (r j : Nat) : Bool := if r = 0 then true else u.c.get (8 * r + j) false

/-- Nibble `j` of `m(r)`. -/
def Issuer.rdNib (u : Issuer) (r j : Nat) : BitVec 4 := u.m.get (8 * r + j) 0

/-- `m(r)` as a fragment of the given slices reads it (R83); the debug fragment sees only its lane's bit (R279). -/
def Issuer.rdM (u : Issuer) (slices : List Nat) (dbg : Option Nat) (r : Nat) : BitVec 32 :=
  let w := slices.foldl (fun a j => a ||| ((u.rdNib r j).setWidth 32 <<< (4 * j))) 0
  match dbg with
  | none => w
  | some l => w &&& (1 <<< l)

/-- Lane `l` of `v(r)`, as stored. -/
def Issuer.rdV (u : Issuer) (r l : Nat) : Word := u.v.get (32 * r + l) 0

/-- Lane `l` of `a(r)` (R195). -/
def Issuer.rdA (u : Issuer) (r l : Nat) : Word := u.a.get (64 * r + l) 0

/-- The slice's copy of FSTAT (R33). -/
def Issuer.rdF (u : Issuer) (j : Nat) : BitVec 6 := u.fstat.get j 0

/-- `bits` of `old` replaced by those of `v`. -/
def blend {w : Nat} (old bits v : BitVec w) : BitVec w := (old &&& ~~~bits) ||| (v &&& bits)

/-- The walk a descriptor describes, or nothing where R176 gives INFO 2. -/
def Ladle.ofDesc (d : BitVec 512) (win : Nat) : Option Ladle :=
  let ndim := bitsAt d 103 3
  let ty := bitsAt d 99 4
  let sp := bitsAt d 96 3
  let dim := fun k => (bitsAt d (128 + 64 * k) 32, d.extractLsb' (160 + 64 * k) 32)
  let used := (List.range ndim).map dim
  if bitsAt d 107 21 ≠ 0 ∨ bitsAt d 448 64 ≠ 0 ∨ ndim = 0 ∨ 5 < ndim ∨ 13 < ty ∨ sp = 0 ∨ 4 < sp
      ∨ used.any (fun p => p.1 = 0)
      ∨ (List.range 5).any (fun k => ndim ≤ k && (dim k != (0, 0))) then none
  else some { win := win, base := d.extractLsb' 0 64, lstride := d.extractLsb' 64 32, space := sp, ty := ty,
              wrap := bitAt d 106, dims := used, idx := used.map (fun _ => 0),
              ends := 0, endsNext := none, pos := 0, exhausted := false,
              got := [] }

/-- Whether a type is 64 bits wide (R50). -/
def is64 (ty : Nat) : Bool := ty = 3 || ty = 7 || ty = 8

/-- The registers a ladle's window takes (R176). -/
def Ladle.window (l : Ladle) : List Nat := if is64 l.ty then [l.win, l.win + 1] else [l.win]

/-- One result lands in its register (R48, R101, R176). -/
def Issuer.land (u : Issuer) : Tgt → Issuer
  | .s j r v => if r = 0 then u else { u with s := u.s.put (8 * r + j) v }
  | .c j r v => if r = 0 then u else { u with c := u.c.put (8 * r + j) v }
  | .m j r bits v => { u with m := u.m.put (8 * r + j) (blend (u.rdNib r j) bits v) }
  | .v l r bits v => if 8 * u.alloc ≤ r then u else { u with v := u.v.put (32 * r + l) (blend (u.rdV r l) bits v) }
  | .a l r v => { u with a := u.a.put (64 * r + l) v }
  | .fstat j b => { u with fstat := u.fstat.put j (u.rdF j ||| b) }
  | .bind j q win _ desc _ =>
    match Ladle.ofDesc desc win with
    | none => u
    | some l => { u with ladles := u.ladles.put (8 * q + j) l }

/-- Results land in order. -/
def Issuer.landAll (u : Issuer) (ts : List Tgt) : Issuer := ts.foldl Issuer.land u

/-- Whether a pending result belongs to the issuing fragment: its slices' results, or the debug fragment's own (R92). -/
def Flight.mine (f : Flight) (slices : List Nat) (dbg : Bool) : Bool := f.dbg = dbg && slices.contains f.slice

/-- A new result on its way, last in program order. -/
def Issuer.push (u : Issuer) (f : Flight) : Issuer := { u with flights := u.flights ++ [f] }

/-- Fixed-latency results of the given slices: one flight for each slice that has any (R64, R92). -/
def Issuer.pushFixed (u : Issuer) (lat : Nat) (dbg : Bool) (ts : List (Nat × Tgt)) : Issuer :=
  (List.range 8).foldl (fun u j =>
    match ts.filterMap (fun p => if p.1 = j then some p.2 else none) with
    | [] => u
    | r => u.push { slice := j, dbg := dbg, kind := .fixed, left := some lat, ready := true, tag := 0, tgts := r,
                    load := none, src := none, cap := 256 }) u

/-- Every fixed-latency result of the fragment lands (R68). -/
def Issuer.landFixed (u : Issuer) (slices : List Nat) (dbg : Bool) : Issuer :=
  let go := u.flights.filter (fun (f : Flight) => f.mine slices dbg && f.kind == FlightKind.fixed)
  let u' := { u with flights := u.flights.filter (fun (f : Flight) => !(f.mine slices dbg && f.kind == FlightKind.fixed)) }
  u'.landAll (go.map Flight.tgts).flatten

/-- Every result of the fragment commits, in the program order of its producers (R67). -/
def Issuer.commit (u : Issuer) (slices : List Nat) (dbg : Bool) : Issuer :=
  let go := u.flights.filter (fun (f : Flight) => f.mine slices dbg)
  let u' := { u with flights := u.flights.filter (fun (f : Flight) => !(f.mine slices dbg)) }
  u'.landAll (go.map Flight.tgts).flatten

/-- One step of the fragment is over: its fixed-latency results come one step nearer, and those due land (R65). -/
def Issuer.tick (u : Issuer) (slices : List Nat) (dbg : Bool) : Issuer :=
  let age := fun (f : Flight) =>
    if f.mine slices dbg then { f with left := f.left.map (fun n => n - 1) } else f
  let due := fun (f : Flight) => f.mine slices dbg && f.left = some 0
  let fl := u.flights.map age
  let u' := { u with flights := fl.filter (fun f => !(due f)) }
  u'.landAll ((fl.filter due).map (fun f => f.tgts)).flatten

/-- What a load's committed values add to what is known of it (R266): its elements, in the lanes it was issued for. -/
def LoadInfo.join (y x : Option LoadInfo) : Option LoadInfo :=
  match y, x with
  | some y, some x => some { y with elems := y.elems ++ x.elems.filter (fun p => y.lmask.getLsbD p.1) }
  | none, x => x
  | some y, none => some y

/-- Whether a result aims below vector register `cap` (R101). -/
def Tgt.under (t : Tgt) (cap : Nat) : Bool :=
  match t with
  | .v _ r _ _ => r < cap
  | .s _ _ _ => true
  | .c _ _ _ => true
  | .m _ _ _ _ => true
  | .a _ _ _ => true
  | .fstat _ _ => true
  | .bind _ _ _ _ _ _ => true

/-- A result on its way when registers from `cap` on are given up (R101). -/
def Flight.capped (f : Flight) (cap : Nat) : Flight :=
  { f with tgts := f.tgts.filter (fun t => t.under cap), cap := Nat.min f.cap cap }

/-- SHRINK (R101): the allocation, the registers' contents and what was on its way to them. -/
def Issuer.shrunk (u : Issuer) (n : Nat) : Issuer :=
  let cap := 8 * (u.alloc - n)
  { u with
    alloc := u.alloc - n
    v := u.v.filter (fun p => p.1 / 32 < cap)
    flights := u.flights.map (fun f => f.capped cap)
    saved := u.saved.map (fun v => { v with flights := v.flights.map (fun f => f.capped cap) }) }

/-- The asynchronous result `tag` gains targets, and is ready where `fin` holds; a result set aside by a trap is found
among the saved ones (R189). -/
def complete (fl : List Flight) (tag slice : Nat) (ts : List Tgt) (fin : Bool) (ld : Option LoadInfo) : List Flight :=
  fl.map (fun f =>
    if f.tag = tag && f.slice = slice && f.kind != .fixed then
      { f with tgts := f.tgts ++ ts.filter (fun t => t.under f.cap), ready := f.ready || fin, load := LoadInfo.join f.load ld }
    else f)

/-- See `complete`, over the results pending and those a trap has set aside. -/
def Issuer.complete (u : Issuer) (tag slice : Nat) (ts : List Tgt) (fin : Bool) (ld : Option LoadInfo) : Issuer :=
  { u with flights := Sys2Proof.Machine.complete u.flights tag slice ts fin ld
           saved := u.saved.map (fun v => { v with flights := Sys2Proof.Machine.complete v.flights tag slice ts fin ld }) }

/-- The slices of a mask. -/
def slicesOf (m : BitVec 8) : List Nat := bitsSet m.toNat 8

/-- An IDLE that is stopped ends when its fragment goes on (R135). -/
def Wait.woke : Wait → Wait
  | .idle _ => .woken
  | w => w
def Frag.wakeIdle (f : Frag) : Frag := { f with wait := f.wait.woke, wait2 := f.wait2.woke }

/-- A sequencer's IDLE wakes when a record, completion or signal addressed to its level arrives (R135); no other issuer's does. -/
def State.wakeSeq (s : State) (w : Who) : State :=
  if w.isSeq then s.updIssuer w (fun u => { u with frags := u.frags.map (fun p => (p.1, p.2.wakeIdle)) }) else s

/-- An asynchronous value returns for register `sd` of some slices of issuer `w` (R64). -/
def State.deliver (s : State) (w : Who) (tag sd : Nat) (slices : List Nat) (v : Dword) : State :=
  (s.updIssuer w (fun u => slices.foldl (fun u j => u.complete tag j [.s j sd v] true none) u)).wakeSeq w

/-- New asynchronous results with one tag, one flight for each slice, all outstanding (R64). -/
def Issuer.pushAsync (u : Issuer) (kind : FlightKind) (dbg : Bool) (slices : List Nat) (ready : Bool)
    (tgts : Nat → List Tgt) : Issuer × Nat :=
  let tag := u.nextTag + 1
  (slices.foldl (fun u j => u.push { slice := j, dbg := dbg, kind := kind, left := none, ready := ready, tag := tag,
                                     tgts := tgts j, load := none, src := none, cap := 256 }) { u with nextTag := tag }, tag)

end Sys2Proof.Machine
end

