-- ==== Sys2Proof/Machine/Barrier.lean ====
section
/-! DEFINITION. Numbered barriers of blocks, clusters, dies and the package: flip test, error arrivals, arrivals, waits
(R203 to R207, R359, R360, R379, R413), and what a flip does to gated records (R344). -/
namespace Sys2Proof.Machine

/-- A barrier as it stands before anything has touched it (R204, R359). -/
def BarKey.fresh : BarKey → Barrier
  | .block _ _ _ => Barrier.reset 31
  | .cluster _ _ => Barrier.reset 0
  | .die _ _ => Barrier.reset 0
  | .package _ => Barrier.reset 0

/-- Barrier `k`. -/
def State.bar (s : State) (k : BarKey) : Barrier := s.bars.get k k.fresh

/-- Whether a barrier is a block's: its arrivals carry member marks (R204, R360). -/
def BarKey.marked : BarKey → Bool
  | .block _ _ _ => true
  | .cluster _ _ => false
  | .die _ _ => false
  | .package _ => false

/-- The live members of a barrier: of a block's, its stream and its live gangs (R203). -/
def State.members (s : State) : BarKey → List Who
  | .block c b _ =>
    (match (s.core c).blocks.find b with
      | none => []
      | some k => if k.exited then [] else [Who.stream c b])
    ++ (((s.core c).gangs.filter (fun p => p.1 < 32 && p.2.blk = b)).map (fun p => Who.gang c p.1))
  | .cluster _ _ => []
  | .die _ _ => []
  | .package _ => []

/-- What an arrival or wait remembers when its barrier flips (R207). -/
def ArrSt.flip (err : Bool) : ArrSt → ArrSt
  | .gathering => .gathering
  | .open_ => .closed err
  | .closed e => .closed e
  | .watch => .seen err
  | .seen e => .seen e

/-- A flip (R204) or, with `err`, an error arrival (R205). -/
def Barrier.flip (b : Barrier) (err : Bool) : Barrier :=
  { b with phase := b.phase + 1, bytes := if err then 0 else b.bytes - b.target, arrived := 0, marks := [], err := err,
           recs := b.recs.map (fun p => (p.1, p.2.flip err)) }

/-- Barrier `n` of a die as a context means it (R379): the die's own are its owner's; what another context of the die does at them
stays its own (notes/assumptions 120). -/
def State.dieBar (s : State) (d ctx n : Nat) : BarKey :=
  match (s.die d).owner with
  | none => .die (d + 4 * (ctx + 1)) n
  | some o => if o = ctx then .die d n else .die (d + 4 * (ctx + 1)) n

/-- The barrier that a gate of a record of context `ctx` waits on now (R344, R359, R379): none where the instance is another context's, or
where a die that is not the context's has its barriers saved in an image. -/
def State.gateBar (s : State) (k : BarKey) (ctx : Nat) : Option BarKey :=
  match k with
  | .cluster c n => if (s.clusterOwner c).all (fun o => o = ctx) then some (.cluster c n) else none
  | .die d n =>
    if (s.die d).owner ≠ some ctx ∧ s.images.any (fun i => i.ctx = ctx && (match i.what with
      | .die e _ => e = d
      | .cluster _ _ => false
      | .core _ _ => false)) then none
    else some (s.dieBar d ctx n)
  | .block c b n => some (.block c b n)
  | .package n => some (.package n)

/-- Records whose gate an error flip of `k` to phase `ph` opens retire in error (R344). -/
def State.gateErrors (s : State) (k : BarKey) (ph : BitVec 16) : State :=
  { s with pots := s.pots.map (fun p =>
      (p.1, { p.2 with recs := p.2.recs.map (fun r =>
        (r.1, if r.2.st = .waiting && r.2.gates.any (fun g => s.gateBar g.1 r.2.ctx = some k && g.2 = ph) then
          { r.2 with gateErr := true } else r.2)) })) }

/-- An error arrival at `k` (R205). -/
def State.barError (s : State) (k : BarKey) : State :=
  let b := (s.bar k).flip true
  { s with bars := s.bars.put k b }.gateErrors k b.phase

/-- Whether the arrival condition of R204 holds. -/
def State.arrivalsMet (s : State) (k : BarKey) : Bool :=
  let b := s.bar k
  if b.expect = 31 then k.marked && (s.members k).all (fun w => b.marks.contains w)
  else b.expect ≤ b.arrived

/-- The flip test of R204; `event` says that an arrival or byte addition has just been made. -/
def State.barTest (s : State) (k : BarKey) (event : Bool) : State :=
  let b := s.bar k
  if s.arrivalsMet k && b.target ≤ b.bytes && !(b.expect = 0 && b.target = 0 && !event) then
    { s with bars := s.bars.put k (b.flip false) }
  else s

/-- An engine adds `n` bytes to barrier `k` (R204, R206: BYTES saturates). -/
def State.addBytes (s : State) (k : BarKey) (n : Nat) : State :=
  let b := s.bar k
  { s with bars := s.bars.put k { b with bytes := BitVec.ofNat 32 (satAt 32 (b.bytes.toNat + n)) } }.barTest k true

/-- One arrival at `k` by member `w` (R204, R359: ARRIVED saturates at 31; that of a block barrier does too, notes/assumptions 151:
DESIGN CHOICE). -/
def State.arriveAt (s : State) (k : BarKey) (w : Who) : State :=
  let b := s.bar k
  let b' := { b with arrived := if b.arrived = 31 then 31 else b.arrived + 1,
                     marks := if k.marked then w :: b.marks else b.marks }
  { s with bars := s.bars.put k b' }.barTest k true

/-- The slices of a gang that have not exited (R80, R97); a stream or sequencer has slice 0. The table a trap has set
aside counts. -/
def Issuer.liveSlices (u : Issuer) : List Nat :=
  let of := fun (t : Tab Nat Frag) =>
    t.foldl (fun a p => if p.1 < 8 && p.2.st != FragSt.free then a ||| p.2.smask.toNat else a) 0
  let saved := match u.saved with
    | none => 0
    | some v => of v.frags
  bitsSet (of u.frags ||| saved) 8

/-- What `k` remembers of slice `j` of `w`. -/
def State.arrOf (s : State) (k : BarKey) (w : Who) (j : Nat) : Option ArrSt := (s.bar k).recs.find (w, j)

/-- `k` remembers `a` for slices of `w`. -/
def State.setArr (s : State) (k : BarKey) (w : Who) (js : List Nat) (a : ArrSt) : State :=
  { s with bars := s.bars.put k { s.bar k with recs := js.foldl (fun t j => t.put (w, j) a) (s.bar k).recs } }

/-- `k` forgets slices of `w`. -/
def State.dropArr (s : State) (k : BarKey) (w : Who) (js : List Nat) : State :=
  { s with bars := s.bars.put k { s.bar k with recs := js.foldl (fun t j => t.drop (w, j)) (s.bar k).recs } }

/-- The arrival of a gang is made once every live slice has executed its arrival (R97). -/
def State.gather (s : State) (k : BarKey) (w : Who) (live : List Nat) : State :=
  let mine := (s.bar k).recs.filter (fun p => p.1.1 = w && p.2 = ArrSt.gathering)
  if mine.isEmpty then s
  else if live.all (fun j => s.arrOf k w j = some .gathering) then
    (s.setArr k w (mine.map (fun p => p.1.2)) .open_).arriveAt k w
  else s

/-- Whether an arrival by these slices has to wait: a member that has arrived in the current phase (R207), or slices
whose gang's arrival is still gathering. -/
def State.mustHold (s : State) (k : BarKey) (w : Who) (js : List Nat) : Bool :=
  js.any (fun j => match s.arrOf k w j with
    | some .gathering => true
    | some .open_ => k.marked
    | some (.closed _) => false
    | some .watch => false
    | some (.seen _) => false
    | none => false)

/-- The slices arrive (R97, R207). -/
def State.arrive (s : State) (k : BarKey) (w : Who) (js live : List Nat) : State :=
  (s.setArr k w js .gathering).gather k w live

/-- How a BAR or BARW wait stands for the slices: ended, with the ERR of the flip that ended it, or not (R207); where
the slices differ, all have to have ended, and the lowest gives ERR (notes/assumptions 166: DESIGN CHOICE). -/
def State.waitEnded (s : State) (k : BarKey) (w : Who) (js : List Nat) : Option Bool :=
  let one := fun (j : Nat) => match s.arrOf k w j with
    | some (.closed e) => some e
    | some (.seen e) => some e
    | some .gathering => none
    | some .open_ => none
    | some .watch => none
    | none => none
  if js.all (fun j => (one j).isSome) then
    match js with
    | [] => some false
    | j :: _ => one j
  else none

/-- Slices with no unconsumed arrival start to wait for the next flip (R207). -/
def State.watchFor (s : State) (k : BarKey) (w : Who) (js : List Nat) : State :=
  s.setArr k w (js.filter (fun j => (s.arrOf k w j).isNone)) .watch

/-- Every barrier that remembers `w` is asked again after slices of `w` have exited (R97). -/
def State.regather (s : State) (w : Who) (live : List Nat) : State :=
  s.bars.foldl (fun s p => if p.2.recs.any (fun r => r.1.1 = w) then s.gather p.1 w live else s) s

/-- `w` is gone: the barriers forget it. -/
def State.forgetMember (s : State) (w : Who) : State :=
  { s with bars := s.bars.map (fun p =>
      (p.1, { p.2 with recs := p.2.recs.filter (fun r => !(r.1.1 = w)), marks := p.2.marks.filter (fun m => !(m = w)) })) }

/-- The barriers of block `b` of core `c` (R203). -/
def blockBars (c b : Nat) : List BarKey := (List.range 16).map (fun n => .block c b n)

/-- The flip test is made at every barrier of a block when one of its members retires (R204). -/
def State.retestBlock (s : State) (c b : Nat) : State := (blockBars c b).foldl (fun s k => s.barTest k false) s

/-- An error arrival at every one of some barriers (R205, R361). -/
def State.errorAll (s : State) (ks : List BarKey) : State := ks.foldl State.barError s

/-- The barriers of a sequencer's instance (R361, R379, R413). -/
def seqBars : Who → List BarKey
  | .gang _ _ => []
  | .stream _ _ => []
  | .clusterSeq n => (List.range 16).map (fun i => .cluster n i)
  | .dieSeq d => (List.range 16).map (fun i => .die d i)
  | .packageSeq => (List.range 16).map (fun i => .package i)

end Sys2Proof.Machine
end

