-- ==== Sys2Proof/Machine/Translate.lean ====
section
/-! DEFINITION. Address translation (R380 to R386): the walk of a context's tables, the translations a die has cached, and
reads and stores of package memory through them. -/
namespace Sys2Proof.Machine

/-- log2 of the page size of a SIZE code (R382). -/
def pageBits (size : Nat) : Nat := [12, 14, 16, 18, 20, 21, 22, 24, 26, 28, 30, 32].getD size 12

/-- Whether a SIZE code belongs to a leaf level (R382). -/
def sizeAtLevel (size level : Nat) : Bool :=
  if level = 0 then size ≤ 4 else if level = 1 then 5 ≤ size && size ≤ 9 else level == 2 && 10 ≤ size && size ≤ 11

/-- How a walk ends (R381, R383): with a page, or with no valid mapping at a level, by a poisoned read or a malformed
entry. -/
inductive WalkEnd where
  | page (t : Tlb)
  | none (level : Nat) (pois bad : Bool)
  deriving DecidableEq, Repr

/-- The walk from the table at `base`, `n` levels left, the first of them level `n - 1` (R381, R383). -/
def State.walkFrom (s : State) (ctx va : Nat) : Nat → Nat → WalkEnd
  | 0, _ => .none 0 false true
  | level + 1, base =>
    let a := base + 8 * (va / 2 ^ (12 + 9 * level) % 512)
    if Config.packageBytes < base + 4096 then .none level false true
    else if s.poisoned a 8 then .none level true false
    else
      let e := BitVec.ofNat 64 (s.sysWord a)
      let oa := 4096 * bitsAt e 12 40
      let size := bitsAt e 8 4
      if !(bitAt e 0) then .none level false false
      else if bitsAt e 52 12 ≠ 0 ∨ bitsAt e 5 3 ≠ 0 then .none level false true
      else if bitAt e 1 then
        let b := pageBits size
        if !(sizeAtLevel size level) || oa % 2 ^ b ≠ 0 || Config.reservedBase < oa + 2 ^ b then .none level false true
        else .page { ctx := ctx, va := va / 2 ^ b * 2 ^ b, size := b, pa := oa, rd := bitAt e 2, wr := bitAt e 3,
                     ex := bitAt e 4 }
      else if bitsAt e 2 3 ≠ 0 ∨ size ≠ 0 ∨ Config.reservedBase < oa + 4096 then .none level false true
      else s.walkFrom ctx va level oa

/-- The walk of context `ctx` for `va` (R381). -/
def State.pageWalk (s : State) (ctx va : Nat) : WalkEnd := s.walkFrom ctx va 5 (s.ctxOf ctx).troot

/-- The key serial of a context. -/
def State.keyOf (s : State) (ctx : Nat) : Nat := (s.ctxOf ctx).key

/-- Bytes of package memory at a virtual address of a context: an access that lies within one page. A read of poison
fails with `0x13` (R187, R188). -/
def State.virtRead (s : State) (d ctx va n kind : Nat) : Attempt (List Byte) :=
  match s.translate d ctx va kind with
  | .wait => .wait
  | .bad c => .bad c
  | .ok pa => if s.poisoned pa n then .bad 0x13 else .ok (s.pkgRead (s.keyOf ctx) pa n)

/-- Bytes stored to package memory at a virtual address of a context, within one page (R188: a store never meets
poison). -/
def State.virtStore (s : State) (d ctx va : Nat) (bs : List Byte) : Attempt State :=
  match s.translate d ctx va kWrite with
  | .wait => .wait
  | .bad c => .bad c
  | .ok pa => .ok (s.pkgStore (s.keyOf ctx) pa bs)

/-- A store of an engine that drops what cannot be stored at once: the walk is made on the spot (trace records: R281, R380), and an
entry that it finds malformed or poisoned is logged (R383). The answer says whether the store was made. -/
def State.storeOrDrop (s : State) (d ctx va : Nat) (bs : List Byte) : State × Bool :=
  let put := fun (t : Tlb) =>
    if t.allows kWrite then (s.pkgStore (s.keyOf ctx) (t.pa + (va - t.va)) bs, true) else (s, false)
  if (s.ctxOf ctx).revoked then (s, false)
  else match s.tlbOf d ctx va with
    | some t => put t
    | none =>
      match s.pageWalk ctx va with
      | .none _ pois bad => (if pois || bad then s.logDie d (va / 4096 * 4096) ctx 9 6 0 else s, false)
      | .page t => put t

/-- Whether a requester waits in the fault buffer of die `d` (R387). -/
def State.inFaults (s : State) (d : Nat) (p : Requester → Bool) : Bool :=
  (s.die d).faults.any (fun e => e.2.reqs.any p)

/-- Whether a party waits for a resolution of the host for a line (R44, R387). -/
def State.lineParked (s : State) (d : Nat) (pl : Place) (line : Nat) : Bool := s.inFaults d (fun r => r = .line pl line)

/-- The line a place holds for a context (R43). -/
def State.lineAt (s : State) (pl : Place) (ctx line : Nat) : Option Line :=
  s.lines.find? (fun l => l.place = pl && l.ctx = ctx && l.line = line)

/-- A place forgets a line whose fault has been raised, so that it is fetched anew (R43). -/
def State.dropLine (s : State) (pl : Place) (ctx line : Nat) : State :=
  { s with lines := s.lines.filter (fun l => !(l.place = pl && l.ctx = ctx && l.line = line)) }

/-- The line of a PC, and its slot (R44). -/
def lineOf (pc : Pc) : Nat := pc.toNat / 64
def slotOf (pc : Pc) : Nat := pc.toNat % 8

/-- The PC of the slot `n` slots further on: slot 0 of the next line follows slot 4 (R44). -/
def Pc.advance (pc : Pc) (n : Nat) : Pc :=
  if slotOf pc + n < 5 then pc + BitVec.ofNat 57 n else BitVec.ofNat 57 (64 * (lineOf pc + 1))

/-- What a check comes to: passed, waiting, or a fault. -/
inductive Chk where
  | ok
  | wait (w : Why)
  | bad (cause : Nat)
  deriving DecidableEq, Repr

/-- The check of a transfer's target (R44, R116): TARGET is 2; a fetch that fails gives its own cause.
A malformed target fetches nothing (notes/assumptions 159: DEDUCED). -/
def State.checkTarget (s : State) (who : Who) (ctx : Nat) (t : Dword) : Chk :=
  if bitsAt t 57 7 ≠ 0 ∨ bitsAt t 3 3 ≠ 0 ∨ 4 < bitsAt t 0 3 then .bad 2
  else
    let pc := t.setWidth 57
    match s.lineAt who.place ctx (lineOf pc) with
    | none => .wait (if s.lineParked who.die who.place (lineOf pc) then .faultParked else .fetch)
    | some l =>
      match l.bad with
      | some c => .bad c
      | none => if bitAt l.data (480 + slotOf pc) then .ok else .bad 2

/-- Several targets: a wait where one waits; else FETCH before TARGET before what translation raises (R58, R128), the first of the list;
else they pass. -/
def State.checkTargets (s : State) (who : Who) (ctx : Nat) : List Dword → Chk × Dword
  | [] => (.ok, 0)
  | t :: r =>
    match s.checkTarget who ctx t, s.checkTargets who ctx r with
    | .wait w, _ => (.wait w, t)
    | _, (.wait w, u) => (.wait w, u)
    | .ok, p => p
    | .bad c, (.bad d, u) => if d ≤ 2 ∧ d < c then (.bad d, u) else (.bad c, t)
    | .bad c, (.ok, _) => (.bad c, t)

end Sys2Proof.Machine
end

