-- ==== Sys2Proof/Machine/Sieve.lean ====
section
/-! DEFINITION. Trace records (R281), sieves: what they match and what a match does (R264 to R272), halts (R270, R271) and
when lanes, slices and gangs are stopped (R275). -/
namespace Sys2Proof.Machine

/-- The probe of core `n` changed by `f`. -/
def State.updProbe (s : State) (n : Nat) (f : Probe → Probe) : State :=
  s.updCore n (fun c => { c with probe := f c.probe })

/-- One more record dropped (R281). -/
def Probe.drop (p : Probe) : Probe :=
  { p with trlost := BitVec.ofNat 64 (satAt 64 (p.trlost.toNat + 1)), lost := p.lost + 1 }

/-- The 32 bytes of a trace record (R281). -/
def traceBytes (time kind who sv lane : Nat) (mask : Word) (pc : Pc) (data : Dword) : List Byte :=
  bytesOf time 8 ++ bytesOf kind 1 ++ bytesOf who 1 ++ bytesOf sv 1 ++ bytesOf lane 1 ++ bytesOf mask.toNat 4
    ++ bytesOf pc.toNat 8 ++ bytesOf data.toNat 8

/-- Whether the ring has room (R281). -/
def Probe.room (p : Probe) : Bool :=
  bitAt p.trctl 1 || (p.trptr - p.trrd).toNat < 2 ^ bitsAt p.trctl 8 5

/-- One record is stored, or dropped where its store would fault (R281). -/
def State.traceStore (s : State) (core : Nat) (bs : List Byte) : State :=
  let p := (s.core core).probe
  match (s.core core).ctx with
  | none => s.updProbe core Probe.drop
  | some ctx =>
    let a := p.trbase.toNat + 32 * (p.trptr.toNat % 2 ^ bitsAt p.trctl 8 5)
    let t := s.storeOrDrop (core / 64) ctx a bs
    t.1.updProbe core (fun p => if t.2 then { p with trptr := p.trptr + 1 } else p.drop)

/-- The LOST record that is due once room has returned (R281). -/
def State.lostRec (s : State) (core : Nat) : State :=
  let p := (s.core core).probe
  if p.lost = 0 ∨ !(bitAt p.trctl 0) ∨ !p.room then s
  else (s.updProbe core (fun p => { p with lost := 0 })).traceStore core (traceBytes s.cycles 6 0 0 0 0 0 (BitVec.ofNat 64 p.lost))

/-- A trace record (R281): a LOST record goes before it once room has returned. `who` is the WHO byte. -/
def State.traceRec (s : State) (core kind who sv lane : Nat) (mask : Word) (pc : Pc) (data : Dword) : State :=
  let p := (s.core core).probe
  if !(bitAt p.trctl 0) then s
  else if !p.room then s.updProbe core Probe.drop
  else
    let s1 := s.lostRec core
    if !(s1.core core).probe.room then s1.updProbe core Probe.drop
    else s1.traceStore core (traceBytes s.cycles kind who sv lane mask pc data)

/-- WHO of a trace record (R281). -/
def whoByte (u : Issuer) : Who → Nat
  | .gang _ g => g + 32 * u.blk
  | .stream _ b => 32 * b + 128
  | .clusterSeq _ => 0
  | .dieSeq _ => 0
  | .packageSeq => 0

/-- Sieve `n` of a core. -/
def Tab.sieve (t : Tab Nat Sieve) (n : Nat) : Sieve := t.get n { desc := 0, opa := 0, opb := 0, cnt := 0 }

/-- The sieves that an instruction issued in a cycle is judged by (R274): as they stood before what that cycle has set. -/
def Probe.seenIn (p : Probe) (cycle : Nat) : Tab Nat Sieve :=
  match p.svWas with
  | none => p.sieves
  | some w => if w.1 = cycle then w.2 else p.sieves

/-- The sieves set by SVSET or SVCLR in a cycle (R274). -/
def Probe.setSieves (p : Probe) (cycle : Nat) (t : Tab Nat Sieve) : Probe :=
  { p with sieves := t, svWas := some (cycle, p.seenIn cycle) }

def Sieve.en (v : Sieve) : Bool := bitAt v.desc 63
def Sieve.chain (v : Sieve) : Bool := bitAt v.desc 56
def Sieve.act (v : Sieve) : Nat := bitsAt v.desc 53 3
def Sieve.kind (v : Sieve) : Nat := bitsAt v.desc 45 4

/-- Why a descriptor is malformed (R265, R274): the INFO of SVBAD, or 0; of several the first in the order of the codes
(notes/assumptions 168: DESIGN CHOICE). -/
def sieveBad (n : Nat) (d : BitVec 128) : Nat :=
  if bitsAt d 96 32 ≠ 0 ∨ bitsAt d 57 6 ≠ 0 ∨ bitsAt d 32 5 ≠ 0 then 1
  else if bitsAt d 53 3 = 7 ∨ 6 < bitsAt d 49 4 ∨ 5 < bitsAt d 45 4 then 2
  else if bitAt d 56 ∧ n = 15 then 3
  else if bitsAt d 45 4 ≠ 0 ∧ (bitsAt d 40 5 ≠ 0 ∨ bitAt d 39 ∨ bitAt d 38) then 4
  else 0

/-- The order of a sieve's comparison (R267). -/
def Sieve.le (v : Sieve) (a b : Dword) : Bool := if bitAt v.desc 37 then a.sle b else a.ule b

/-- The predicate on one value (R267); `bytes` are the addresses of the access's bytes for the address kind. -/
def Sieve.holds (v : Sieve) (x : Dword) (bytes : List Dword) : Bool :=
  let inRange := bytes.any (fun b => v.le v.opa b && v.le b v.opb)
  let cmp := bitsAt v.desc 49 4
  if cmp = 0 then x == v.opa
  else if cmp = 1 then x != v.opa
  else if cmp = 2 then v.le x v.opa && x != v.opa
  else if cmp = 3 then v.le v.opa x && x != v.opa
  else if cmp = 4 then inRange
  else if cmp = 5 then !inRange
  else (x &&& v.opb) == v.opa

/-- The lanes, with the value that matched, that a sieve matches among the events of one instruction of gang `g`
(R266, R267), lane by lane. -/
def Sieve.lanes (v : Sieve) (g : Nat) (e : StepEv) : List (Nat × Dword) :=
  if !v.en || !(bitAt v.desc g) then []
  else
    let k := v.kind
    let sgn := bitAt v.desc 37
    let addr : List (Nat × Dword) :=
      (e.addrs.filter (fun a =>
        (bitsAt v.desc 40 5 = 0 || (1 ≤ a.space && bitAt v.desc (39 + a.space)))
          && ((bitAt v.desc 39 && a.rd) || (bitAt v.desc 38 && a.wr))
          && v.holds a.ea ((List.range a.len).map (fun i => a.ea + BitVec.ofNat 64 i)))).map (fun a => (a.lane, a.ea))
    let val : List (Nat × Dword) :=
      ((e.vals.filter (fun a => a.kind = k)).map (fun a => a.vals.map (fun x =>
        (a.lane, if sgn && (k = 1 || k = 2) then BitVec.ofInt 64 (signedAt a.width x) else BitVec.ofNat 64 x)))).flatten.filter
          (fun p => v.holds p.2 [p.2])
    let pc : List (Nat × Dword) :=
      if v.holds (e.pc.setWidth 64) [e.pc.setWidth 64] then (bitsSet e.lmask.toNat 32).map (fun l => (l, e.pc.setWidth 64))
      else []
    let all := if k = 0 then addr else if k = 5 then pc else val
    (List.range 32).filterMap (fun l =>
      if bitAt v.desc (64 + l) then (all.find? (fun p => p.1 = l)) else none)

/-- The chains of the sixteen sieves: each as its members' numbers, the last of which counts and acts (R269). -/
def chains (t : Tab Nat Sieve) : List (List Nat) :=
  let r := (List.range 16).foldl (fun (acc : List (List Nat) × List Nat) n =>
    if (Tab.sieve t n).chain && n < 15 then (acc.1, acc.2 ++ [n]) else (acc.1 ++ [acc.2 ++ [n]], [])) ([], [])
  r.1

/-- What a chain matches: the sieve that counts and acts, its action, and the lanes (R269). A chain that holds a load-value
member is judged at the commit of a load and no other chain is. -/
def chainMatch (t : Tab Nat Sieve) (g : Nat) (e : StepEv) (c : List Nat) : Option (Nat × Nat × List (Nat × Dword)) :=
  let isLoad := c.any (fun n => (Tab.sieve t n).en && (Tab.sieve t n).kind == 1)
  if isLoad != e.load then none
  else match c.getLast? with
    | none => none
    | some m =>
      let ls := ((Tab.sieve t m).lanes g e).filter (fun p => c.all (fun n => ((Tab.sieve t n).lanes g e).any (fun q => q.1 = p.1)))
      if ls.isEmpty then none else some (m, (Tab.sieve t m).act, ls)

/-- Every match of the events of a step, against the sieve table `t` (R268). -/
def matchesOf (t : Tab Nat Sieve) (g : Nat) (es : List StepEv) : List Match :=
  (es.map (fun e => (chains t).filterMap (fun c =>
    (chainMatch t g e c).map (fun r => { sv := r.1, act := r.2.1, lanes := r.2.2, pc := e.pc, mask := e.mask : Match })))).flatten

/-- Counts, trace records and the hit record of the matches of one instruction (R268, R285). -/
def State.countMatches (s : State) (core g : Nat) (u : Issuer) (ms : List Match) : State :=
  let s1 := ms.foldl (fun s (m : Match) =>
    let s := s.updProbe core (fun p =>
      let v := Tab.sieve p.sieves m.sv
      { p with sieves := p.sieves.put m.sv { v with cnt := v.cnt + BitVec.ofNat 64 m.lanes.length } })
    if m.act = 1 then
      m.lanes.foldl (fun s l => s.traceRec core 3 (whoByte u (.gang core g)) m.sv l.1 m.mask m.pc l.2) s
    else s) s
  match ms.foldl (fun (b : Option Match) m => match b with
      | none => some m
      | some c => if m.sv < c.sv then some m else some c) none with
  | none => s1
  | some m =>
    let lane := m.lanes.foldl (fun a p => if p.1 < a then p.1 else a) 31
    s1.updProbe core (fun p =>
      { p with svhit := (1 <<< 63) ||| fieldAt 12 m.sv ||| fieldAt 5 g ||| fieldAt 0 lane, svhpc := m.pc.setWidth 64 })

/-- What the matches of the events `es` count and record, instruction by instruction in their order (R268). -/
def State.countEvents (s : State) (t : Tab Nat Sieve) (core g : Nat) (u : Issuer) (es : List StepEv) : State :=
  es.foldl (fun s e => s.countMatches core g u (matchesOf t g [e])) s

/-- Whether a slice fragment of `u` holds slice `j`: its entry. -/
def Issuer.entryOf (u : Issuer) (j : Nat) : Option Nat :=
  (u.frags.find? (fun p => p.1 < 8 && p.2.st != FragSt.free && p.2.smask.getLsbD j)).map (fun p => p.1)

/-- The lowest free entry among 0 to 7 (R91). -/
def Issuer.freeEntry (u : Issuer) : Nat :=
  ((List.range 8).find? (fun e => (u.frag e).st == FragSt.free)).getD 7

/-- The fragments of an issuer, those that a trap has set aside too (R124) under their entries plus 16; the one that trapped
goes on as its handler's. -/
def Issuer.tables (u : Issuer) : List (Nat × Frag) :=
  u.frags ++ (match u.saved with
    | none => []
    | some v => (v.frags.filter (fun p => p.1 != v.entry)).map (fun p => (16 + p.1, p.2)))

/-- The fragment that `tables` names `e`, changed by `f`. -/
def Issuer.updAt (u : Issuer) (e : Nat) (f : Frag → Frag) : Issuer :=
  let go := fun (t : Tab Nat Frag) (e : Nat) => match t.find e with
    | none => t
    | some x => t.put e (f x)
  if e < 16 then { u with frags := go u.frags e }
  else { u with saved := u.saved.map (fun v => { v with frags := go v.frags (e - 16) }) }

/-- The debug fragment: entry 8, or its trap handler (R124, R279). -/
def Issuer.dbgFrag (u : Issuer) : Option (Nat × Frag) := u.tables.find? (fun p => p.2.st != FragSt.free && p.2.isDbg)

/-- The halted lanes (R270, R275): those with a halt PC, but for the one that runs in the debug fragment. A halted lane
outlives the EXIT of its slice's fragment (R99). -/
def Issuer.haltedLanes (u : Issuer) : List Nat :=
  let running := match u.dbgFrag with
    | none => 32
    | some p => if p.2.st == FragSt.halted then 32 else laneOf p.2.lmask
  (u.haltPc.map (fun p => p.1)).filter (fun l => l != running)

/-- Lane `l` is stopped (R275): it is halted, or belongs to a fragment in STATE 5, in which a halt of its block leaves it
too (R270). -/
def Issuer.laneStopped (u : Issuer) (l : Nat) : Bool :=
  u.haltedLanes.contains l || u.tables.any (fun p => p.2.st == FragSt.halted && p.2.lmask.getLsbD l)

/-- Slice `j` is stopped: none of its lanes is in a fragment that can issue (R275). -/
def Issuer.sliceStopped (u : Issuer) (j : Nat) : Bool :=
  u.tables.all (fun p => p.2.st == FragSt.free || p.2.st == FragSt.halted || (p.2.lmask &&& lanesOf [j]) == 0)

/-- The gang is stopped (R275). -/
def Issuer.stopped (u : Issuer) : Bool := (List.range 8).all (fun j => u.sliceStopped j)

/-- The result of a DSTEP that ends (R276, R278): `end_` is its reason, delivered as the asynchronous result it owes. -/
def State.stepEnds (s : State) (w : Who) (entry end_ : Nat) : State :=
  match s.issuer w with
  | none => s
  | some u =>
    match u.stepping.find? (fun p => p.entry = entry) with
    | none => s
    | some p =>
      let st : Dword := fieldAt 16 end_ ||| fieldAt 0 p.ran
      let s := s.updIssuer w (fun u => { (u.updAt entry (fun f => { f with stepsLeft := none })) with
                                          stepping := u.stepping.filter (fun q => !(q.entry = entry)) })
      if p.tag = 0 then
        match p.by_.core? with
        | none => s
        | some n => s.updCore n (fun c => { c with port := { c.port with busy := false, dres := c.port.dres.put 0 st } })
      else s.deliver p.by_ p.tag p.sd (slicesOf p.smask) st

/-- A fragment enters STATE 5 (R270). -/
def Frag.halt (f : Frag) : Frag := { f.wakeIdle with st := .halted, why := .halted, stepsLeft := Option.none }

/-- The fragment that `Issuer.tables` names `e` enters STATE 5 (R270); the debug fragment's HALTPC follows it (R279). -/
def State.haltEntry (s : State) (w : Who) (e : Nat) : State :=
  (s.updIssuer w (fun u =>
    let u := u.updAt e Frag.halt
    (u.tables.filter (fun p => p.1 = e && p.2.isDbg)).foldl (fun u p =>
      { u with haltPc := u.haltPc.put (laneOf p.2.lmask) p.2.pc }) u)).stepEnds w e 1

/-- One lane of a gang halts (R270). -/
def State.haltLane (s : State) (w : Who) (l : Nat) : State :=
  match s.issuer w with
  | none => s
  | some u =>
    match u.entryOf (l / 4) with
    | none => s
    | some e =>
      let f := u.frag e
      if !(f.lmask.getLsbD l) then s
      else
        let f' := { f with lmask := f.lmask &&& ~~~(1#32 <<< l) }
        let s := s.updIssuer w (fun u => { u.updFrag e (fun _ => f') with haltPc := u.haltPc.put l f.pc })
        if f'.lmask = 0 then s.haltEntry w e else s

/-- A slice of a gang leaves its fragment, in STATE 5 (R270, placed by R91). -/
def State.haltSlice (s : State) (w : Who) (j : Nat) : State :=
  match s.issuer w with
  | none => s
  | some u =>
    match u.entryOf j with
    | none => s
    | some e =>
      let f := u.frag e
      let mine : BitVec 8 := 1 <<< j
      if f.smask = mine then s.haltEntry w e
      else
        let lm := lanesOf [j]
        let part := { f with smask := mine, lmask := f.lmask &&& lm }
        let rest := { f with smask := f.smask &&& ~~~mine, lmask := f.lmask &&& ~~~lm }
        let n := u.freeEntry
        if lowestBit f.smask.toNat 0 8 = j then
          (s.updIssuer w (fun u => (u.updFrag e (fun _ => part)).updFrag n (fun _ => rest))).haltEntry w e
        else (s.updIssuer w (fun u => (u.updFrag e (fun _ => rest)).updFrag n (fun _ => part))).haltEntry w n

/-- Every fragment of an issuer enters STATE 5 (R270), those that a trap has set aside too. -/
def State.haltAll (s : State) (w : Who) : State :=
  match s.issuer w with
  | none => s
  | some u => u.tables.foldl (fun s p => if p.2.st == FragSt.free then s else s.haltEntry w p.1) s

/-- The debug fragment stops where a sieve halts its lane (R279). -/
def State.haltDebug (s : State) (w : Who) : State :=
  match (s.issuer w).bind Issuer.dbgFrag with
  | none => s
  | some p => s.haltEntry w p.1

/-- What GDBG keeps of the latest halt (R280). -/
def State.noteHalt (s : State) (w : Who) (scope sv : Nat) (host : Bool) : State :=
  s.updIssuer w (fun u => { u with hscope := scope, lastSv := sv, byHost := host })

/-- A halt of one scope by a match (R268, R270), with its HALT record (R282). `dbg` says that the debug fragment issued. -/
def State.haltBy (s : State) (core g : Nat) (dbg : Bool) (m : Match) : State :=
  let w := Who.gang core g
  match s.issuer w with
  | none => s
  | some u =>
    let lanes := m.lanes.map (fun p => p.1)
    let lane := lanes.foldl (fun a l => if l < a then l else a) 31
    let rec_ := fun (s : State) (l : Nat) =>
      if bitAt (s.core core).probe.trctl 2 then
        s.traceRec core 5 (whoByte u w) m.sv l m.mask m.pc ((m.lanes.find? (fun p => p.1 = l)).map (fun p => p.2) |>.getD 0)
      else s
    if m.act = 2 then
      let s := if dbg then s.haltDebug w else lanes.foldl (fun s l => s.haltLane w l) s
      lanes.foldl rec_ (s.noteHalt w 0 m.sv false)
    else if m.act = 3 then
      let s := if dbg then s.haltDebug w else (lanes.map (fun l => l / 4)).eraseDups.foldl (fun s j => s.haltSlice w j) s
      rec_ (s.noteHalt w 1 m.sv false) lane
    else if m.act = 4 then rec_ ((s.haltAll w).noteHalt w 2 m.sv false) lane
    else
      let s := ((s.core core).gangs.filter (fun p => p.1 < 32 && p.2.blk = u.blk)).foldl (fun s p =>
        (s.haltAll (.gang core p.1)).noteHalt (.gang core p.1) 3 m.sv false) s
      let s := s.haltAll (.stream core u.blk)
      rec_ (s.updCore core (fun c => { c with blocks := c.blocks.map (fun p =>
        if p.1 = u.blk then (p.1, { p.2 with halted := true }) else p) })) lane

/-- How wide an action stops the gang: block, gang, slice, lane, trap (R268). -/
def actWidth (act : Nat) : Nat :=
  if act = 5 then 5 else if act = 4 then 4 else if act = 3 then 3 else if act = 2 then 2 else if act = 6 then 1 else 0

/-- The widest halts or traps among the matches of one instruction (R268). -/
def widest (ms : List Match) : List Match :=
  let w := ms.foldl (fun a m => Nat.max a (actWidth m.act)) 0
  if w = 0 then [] else ms.filter (fun m => actWidth m.act = w)

/-- What the instructions of a step match (R268): the state with their counts and records, and the halts and traps of each
instruction. -/
def State.judge (s : State) (core g : Nat) (u : Issuer) (es : List StepEv) : State × List (List Match) :=
  (s.countEvents s.svOld core g u es, es.map (fun e => widest (matchesOf s.svOld g [e])))

/-- The halts of the instructions of a step, in their order (R268, R270): all those of one width are taken, and none where the gang was
stopped before the step (R271). -/
def State.haltsOf (s : State) (core g : Nat) (dbg : Bool) (hs : List (List Match)) : State :=
  if (s.issuer (.gang core g)).all Issuer.stopped then s
  else hs.foldl (fun s ms => ms.foldl (fun s m => if m.act = 6 then s else s.haltBy core g dbg m) s) s

end Sys2Proof.Machine
end

