-- ==== Sys2Proof/Machine/Ops.lean ====
section
/-! DEFINITION. The operations every instruction is built from: what a meaning reads of its issue (`Cx`), the prologue of a
step (R57 to R68, R177), taking an exception (R124, R127), returning from one (R125, R186), splitting and fusing fragments
(R91, R94), ending issuers (R99, R127), and the end of a step (R61, R65, R268). -/
namespace Sys2Proof
/-- The class of an issuer for R56. -/
def Who.kind : Who → IssKind
  | .gang _ _ => .gang
  | .stream _ _ => .stream
  | .clusterSeq _ => .seq
  | .dieSeq _ => .seq
  | .packageSeq => .seq
end Sys2Proof

namespace Sys2Proof.Machine

/-- What the attempt of one instruction comes to: done (the fragment goes on at the next step), done with the fragments
already placed, done as a return from a handler, waiting (R61: no step), or a trap. -/
inductive Res where
  | ok (s : State)
  | moved (s : State)
  /-- done, the fragments placed, and then a trap (R122): the sieves look at the step before the trap is taken (R271) -/
  | after (t : TrapReq) (s : State)
  /-- a return from a handler to entry `e` of the table it restores: the results restored do not come nearer (R69) -/
  | back (e : Nat) (s : State)
  | stall (w : Why) (s : State)
  | trap (t : TrapReq) (s : State)
  deriving DecidableEq, Repr

/-- What an instruction reads of its issue: the issuer as its operands are read (R62), its fragment, the slices of the
fragment, those where the guard is true (R47), and the ladle elements its operands take (R177) by window, width and lane. -/
structure Cx where
  who : Who
  entry : Nat
  u : Issuer
  fr : Frag
  slices : List Nat
  pass : List Nat
  cur : Cur
  lad : List (Nat × Bool × Nat × BitVec 64)
  deriving DecidableEq, Repr

/-- The slot of the instruction. -/
def Cx.slot (c : Cx) : Nat := slotOf c.cur.at_

/-- A trap raised by the instruction in a slot (R124). -/
def TrapReq.plain (cause info : Nat) (tval : Dword) (slot : Nat) : TrapReq :=
  { cause := cause, info := info, tval := tval, slot := slot, epc := none, tmask := none, entry := none, arr := none, ins := none }

/-- A trap of this instruction (R124). -/
def Cx.fault (c : Cx) (cause info : Nat) (tval : Dword) : TrapReq := TrapReq.plain cause info tval c.slot

/-- Copy `j` of an s register, of a condition flag; a mask as read (R83). -/
def Cx.s (c : Cx) (r : BitVec 6) (j : Nat) : Dword := c.u.rdS r.toNat j
def Cx.c (c : Cx) (r : BitVec 4) (j : Nat) : Bool := c.u.rdC r.toNat j
def Cx.m (c : Cx) (r : Nat) : Word := c.u.rdM c.slices c.fr.dbgLane r

/-- The lowest slice where the guard is true. -/
def Cx.low (c : Cx) : Nat := c.pass.headD 0

/-- The copy of an s register in the lowest slice where the guard is true. -/
def Cx.sl (c : Cx) (r : BitVec 6) : Dword := c.s r c.low

/-- m0 AND LMASK of the fragment (R86, R124); a stream or sequencer has no lanes. -/
def Issuer.active (u : Issuer) (f : Frag) : Word := u.rdM f.slices f.dbgLane 0 &&& f.lmask

/-- The lanes that are active in slices where the guard is true (R47, R86). -/
def Cx.act (c : Cx) : List Nat :=
  (List.range 32).filter (fun l => c.pass.contains (l / 4) && (c.u.active c.fr).getLsbD l)

/-- Whether a lane belongs to the issuing fragment: its slice does, and of the debug fragment only the one lane (R85,
R279). -/
def Cx.inside (c : Cx) (l : Nat) : Bool :=
  match c.fr.dbgLane with
  | none => c.slices.contains (l / 4)
  | some d => d = l

/-- Lane `l` of a single vector operand: the element of a ladle whose 32-bit window it names, else the register (R177);
a halted lane reads the register. -/
def Cx.v1 (c : Cx) (r l : Nat) : Word :=
  match c.lad.find? (fun p => p.1 = r && p.2.1 = false && p.2.2.1 = l) with
  | some p => p.2.2.2.setWidth 32
  | none => c.u.rdV r l

/-- Lane `l` of a register pair (R137), or the element of a ladle with that 64-bit window (R177). -/
def Cx.v2 (c : Cx) (r l : Nat) : Dword :=
  match c.lad.find? (fun p => p.1 = r && p.2.1 = true && p.2.2.1 = l) with
  | some p => p.2.2.2
  | none => c.u.rdV (r + 1) l ++ c.u.rdV r l

/-- Fixed-latency results of the instruction (R64): each with the slice it belongs to. -/
def Cx.fixed (c : Cx) (lat : Nat) (ts : List (Nat × Tgt)) (s : State) : State :=
  s.updIssuer c.who (fun u => u.pushFixed lat c.fr.isDbg ts)

/-- An s register in every slice where the guard is true, one step later (R64, R84). -/
def Cx.putS (c : Cx) (r : BitVec 6) (f : Nat → Dword) (s : State) : State :=
  c.fixed 1 (c.pass.map (fun j => (j, Tgt.s j r.toNat (f j)))) s

/-- An outstanding asynchronous result of kind `k` for the slices where the guard is true, nothing known of it yet: the
state and its tag (R64). -/
def Cx.async (c : Cx) (k : FlightKind) (s : State) : State × Nat :=
  match s.issuer c.who with
  | none => (s, 0)
  | some u =>
    let r := u.pushAsync k c.fr.isDbg c.pass false (fun _ => [])
    (s.updIssuer c.who (fun _ => r.1), r.2)

/-- An asynchronous result that has returned at once: it lands at the next marker (R64, R67). -/
def Cx.asyncNow (c : Cx) (tgts : Nat → List Tgt) (s : State) : State :=
  s.updIssuer c.who (fun u => (u.pushAsync .status c.fr.isDbg c.pass true tgts).1)

/-- The slices of the instruction as a mask. -/
def Cx.passMask (c : Cx) : BitVec 8 := BitVec.ofNat 8 (maskOf c.pass)

/-- A fragment's wait (R61). -/
def State.setWait (s : State) (w : Who) (e : Nat) (x : Wait) : State :=
  s.updIssuer w (fun u => u.updFrag e (fun f => { f with wait := x }))

/-- The waits of the two instructions of a pair change places: each finds its own where a single instruction has its wait (R45, R61). -/
def Frag.swapWait (f : Frag) : Frag := { f with wait := f.wait2, wait2 := f.wait }
def State.swapWait (s : State) (w : Who) (e : Nat) : State := s.updIssuer w (fun u => u.updFrag e Frag.swapWait)

/-- The events of the instruction in progress join its own record (R266). -/
def addEvents (pc : Pc) (addrs : List AccEv) (vals : List ValEv) : List StepEv → List StepEv
  | [] => []
  | e :: r =>
    if !e.load && e.pc = pc then { e with addrs := e.addrs ++ addrs, vals := e.vals ++ vals } :: r
    else e :: addEvents pc addrs vals r

/-- The events of the instruction in progress, for the sieves (R266). -/
def Cx.events (c : Cx) (addrs : List AccEv) (vals : List ValEv) (s : State) : State :=
  { s with evs := addEvents c.cur.at_ addrs vals s.evs }

/-- The record of the instruction in progress: what the PC-range sieves look at (R266). -/
def Cx.begin (c : Cx) (s : State) : State :=
  { s with evs := s.evs ++ [{ pc := c.cur.at_, lmask := c.fr.lmask, mask := c.u.active c.fr, load := false, addrs := [], vals := [] }] }

-- inserts of an issuer

/-- The issuer and slices of an insert that an instruction has made (R335, R370). -/
def InsFrom.by : InsFrom → Option (Who × BitVec 8)
  | .launch w m _ _ _ => some (w, m)
  | .reduce w m _ _ => some (w, m)
  | .arm _ _ => none
  | .packet _ => none
  | .remote _ _ => none

/-- Whether an insert, or an ARM, is one of issuer `w`: of one that has not retired. -/
def PendIns.isOf (p : PendIns) (w : Who) : Bool := p.ghost.isNone && (match p.src.by with
  | none => false
  | some x => x.1 == w)
def PendArm.isOf (p : PendArm) (w : Who) : Bool := !p.gone && p.who.any (fun x => x.1 == w)

/-- A block's stream or a sequencer's run has retired: inserts and arms that it has outstanding are of no issuer that its place has
later (R337, R338). -/
def State.unname (s : State) (w : Who) : State :=
  { s with
    nextId := s.nextId + 1
    inserts := s.inserts.map (fun p => if p.isOf w then { p with ghost := some s.nextId } else p)
    pendArms := s.pendArms.map (fun p => if p.isOf w then { p with gone := true } else p) }

/-- The oldest insert of some slices that has met SPFULL and is not set aside by a trap (R338). -/
def State.spfullOf (s : State) (w : Who) (slices : List Nat) (dbg : Bool) : Option PendIns :=
  s.inserts.find? (fun p => p.spfull && !p.old && p.dbg = dbg && (match p.src.by with
    | none => false
    | some x => x.1 == w && slices.any (fun j => x.2.getLsbD j)))

/-- The inserts of `w` that have met SPFULL are set aside by a trap, or come back (R338). -/
def State.ageInserts (s : State) (w : Who) (b : Bool) : State :=
  { s with inserts := s.inserts.map (fun p => if p.isOf w then { p with old := b } else p) }

/-- The insert that a handler was entered for is attempted again, or abandoned (R338). -/
def State.resumeInsert (s : State) (w : Who) (id : Nat) (abandon : Bool) : State :=
  if abandon then
    let s := match s.inserts.find? (fun p => p.id = id) with
      | none => s
      | some p => match p.src with
        | .launch x m tag _ _ => s.updIssuer x (fun u => (bitsSet m.toNat 8).foldl (fun u j => u.complete tag j [] true none) u)
        | .reduce _ _ _ _ => s
        | .arm _ _ => s
        | .packet _ => s
        | .remote _ _ => s
    { s.ageInserts w false with inserts := (s.ageInserts w false).inserts.filter (fun p => p.id ≠ id) }
  else { s.ageInserts w false with inserts := (s.ageInserts w false).inserts.map (fun p =>
    if p.id = id then { p with spfull := false, again := true } else p) }

-- ending issuers

/-- `a` is from now on named `b` by all that it has outstanding: array work, copies, inserts, results (R127: what it has
issued goes on, its results are discarded). -/
def State.rename (s : State) (a b : Who) : State :=
  let w := fun (x : Who) => if x = a then b else x
  { s with
    copies := s.copies.map (fun c => { c with who := w c.who })
    inserts := (s.inserts.filter (fun p => !(p.spfull && p.isOf a))).map (fun p => { p with src := match p.src with
      | .launch x m t d k => .launch (w x) m t d k
      | .reduce x m t d => .reduce (w x) m t d
      | .arm d e => .arm d e
      | .packet q => .packet q
      | .remote r t => .remote r t })
    pendArms := s.pendArms.map (fun p => { p with who := p.who.map (fun q => (w q.1, q.2)) })
    pots := s.pots.map (fun p => (p.1, { p.2 with
      recs := p.2.recs.map (fun r => (r.1, { r.2 with contribs := r.2.contribs.map (fun k => { k with who := w k.who }) }))
      groups := p.2.groups.map (fun g => (g.1, { g.2 with joiners := g.2.joiners.filter (fun j => match j with
        | .issuer x _ => x != a
        | .remote _ _ => true) })) }))
    reqs := s.reqs.map (fun r => { r with owner := match r.owner, a, b with
      | .log n g e, .gang n' g', .gang _ h => if n = n' ∧ g = g' then .log n h e else .log n g e
      | o, _, _ => o })
    cores := s.cores.map (fun p => (p.1, { p.2 with
      aq := p.2.aq.map (fun o => { o with who := w o.who })
      rows := p.2.rows.map (fun r => { r with who := w r.who })
      poolQ := p.2.poolQ.filter (fun q => q.who != a)
      gangs := p.2.gangs.map (fun g => (g.1, { g.2 with
        stepping := g.2.stepping.map (fun q => { q with by_ := w q.by_ }) })) })) }

/-- What an ended stream or run of a sequencer has outstanding goes on without it (R99, R127): inserts, arms and contributions give
their results to nobody and hold nobody back (R337, R338, R371). -/
def State.orphan (s : State) (w : Who) : State :=
  { s with
    inserts := (s.inserts.filter (fun p => !(p.spfull && p.isOf w))).map (fun p =>
      if p.isOf w then
        { p with
          frag := 0
          src := match p.src with
            | .launch x _ t d k => .launch x 0 t d k
            | .reduce x _ t d => .reduce x 0 t d
            | .arm d e => .arm d e
            | .packet q => .packet q
            | .remote r t => .remote r t }
      else p)
    pendArms := s.pendArms.map (fun p =>
      if p.isOf w then { p with frag := 0, who := p.who.map (fun x => (x.1, 0, x.2.2)) } else p)
    pots := s.pots.map (fun p => (p.1, { p.2 with
      recs := p.2.recs.map (fun r => (r.1, { r.2 with contribs := r.2.contribs.map (fun k =>
        if k.who = w then { k with smask := 0 } else k) }))
      groups := p.2.groups.map (fun g => (g.1, { g.2 with joiners := g.2.joiners.filter (fun j => match j with
        | .issuer x _ => x != w
        | .remote _ _ => true) })) }))
    copies := s.copies.map (fun c => if c.who = w then { c with ret := c.ret.map (fun r => (0, r.2)), gone := true } else c) }

/-- The age of a pool request (R102, R132, R200): by cycle, then streams by slot, then gangs by number. -/
def PoolReq.rank (q : PoolReq) : Nat :=
  q.cycle * 64 + (match q.who with
    | .gang _ g => 16 + g % 48
    | .stream _ b => b
    | .clusterSeq _ => 0
    | .dieSeq _ => 0
    | .packageSeq => 0)

/-- The rank of a request that an issuer makes now. -/
def State.rankNow (s : State) (w : Who) : Nat :=
  PoolReq.rank { id := 0, who := w, entry := 0, regs := 0, n := 0, cycle := s.cycles, start := 0 }

/-- A gang is gone from its core (R99): its accesses still to be performed and its
instructions in the array queue go on under a number no gang has, the 5 low bits of which are its own (R244), its barriers
forget it, and its registers are free. -/
def State.removeGang (s : State) (core g : Nat) : State :=
  match (s.core core).gangs.find g with
  | none => s
  | some u =>
    let ghost := 32 + 32 * s.nextId + g
    let left := u.log.filter (fun p => p.2.accs.any (fun a => a.st == AccSt.pending))
    let s := { s with nextId := s.nextId + 1 }.rename (.gang core g) (.gang core ghost)
    let s := s.updCore core (fun c =>
      let gs := c.gangs.drop g
      { c with gangs := if left.isEmpty then gs
          else gs.put ghost { u with log := left, flights := [], frags := [], saved := none, alloc := 0, ended := true,
                                     ladles := [], haltPc := [], arrFaults := [] } })
    (s.forgetMember (.gang core g)).retestBlock core u.blk

/-- Whether nothing of a gang is left: every entry free and no lane halted (R99). -/
def Issuer.empty (u : Issuer) : Bool :=
  u.frags.all (fun p => p.2.st == FragSt.free) && u.haltPc.isEmpty && (match u.saved with
    | none => true
    | some v => v.frags.all (fun p => p.2.st == FragSt.free))

/-- Block `b` of core `n` changed by `f`. -/
def State.updBlock (s : State) (n b : Nat) (f : Block → Block) : State :=
  s.updCore n (fun c => match c.blocks.find b with
    | none => c
    | some k => { c with blocks := c.blocks.put b (f k) })

/-- The uniform stream of a block ends (R120): the block's barriers lose a member. -/
def State.endStream (s : State) (n b : Nat) : State :=
  let stop := fun (u : Issuer) => { u with ended := true, frags := [], flights := [], saved := none, arrFaults := [] }
  let s := s.updBlock n b (fun k => { k with exited := true, stream := stop k.stream })
  let s := s.updCore n (fun c => { c with poolQ := c.poolQ.filter (fun q => q.who != .stream n b) })
  ((s.orphan (.stream n b)).forgetMember (.stream n b)).retestBlock n b

/-- The run of a sequencer's record ends with a status (R120, R127). -/
def State.endSeq (s : State) (w : Who) (cause orig : Nat) : State :=
  match s.seqs.find w with
  | none => s
  | some q =>
    let u := { q.iss with ended := true, frags := [], flights := [], saved := none }
    { s.orphan w with seqs := s.seqs.put w { q with done := some (cause, orig), iss := u } }

/-- The first DOUBLE of a block is kept for its retirement status (R202). -/
def Block.noteDouble (k : Block) (stream : Bool) (g orig : Nat) : Block :=
  match k.firstDouble with
  | none => { k with firstDouble := some (stream, g, orig) }
  | some _ => k

/-- DOUBLE (R127): the issuer ends at once; every barrier of its block or sequencer gets an error arrival (R205). -/
def State.double (s : State) (w : Who) (orig : Nat) : State :=
  match w with
  | .gang n g =>
    match (s.core n).gangs.find g with
    | none => s
    | some u =>
      let s := (u.stepping.foldl (fun s q => s.stepEnds w q.entry 3) s).regather w []
      let s := s.updBlock n u.blk (fun k => k.noteDouble false g orig)
      let s := s.updBlock n u.blk (fun k => { k with failed := (g, u.group) :: k.failed })
      (s.errorAll (blockBars n u.blk)).removeGang n g
  | .stream n b =>
    let s := s.stepEnds w 0 3
    let s := s.updBlock n b (fun k => k.noteDouble true 0 orig)
    (s.errorAll (blockBars n b)).endStream n b
  | .clusterSeq _ => (s.errorAll (seqBars w)).endSeq w 9 orig
  | .dieSeq _ => (s.errorAll (seqBars w)).endSeq w 9 orig
  | .packageSeq => (s.errorAll (seqBars w)).endSeq w 9 orig

-- exceptions

/-- TCAUSE.INH (R126). -/
def Issuer.inh (u : Issuer) : Bool := bitAt u.tcause 63

/-- TCAUSE of a trap (R126). -/
def tcauseOf (t : TrapReq) : Dword :=
  (1 <<< 63) ||| fieldAt 32 (t.info % 2 ^ 16) ||| fieldAt 8 (t.slot % 8) ||| fieldAt 0 (t.cause % 256)

/-- Whether an access has failed (R185). -/
def AccSt.bad : AccSt → Bool
  | .pending => false
  | .done => false
  | .failed _ => true
  | .dropped => false

/-- Whether an access needs nothing more. -/
def AccSt.isOver : AccSt → Bool
  | .pending => false
  | .done => true
  | .failed _ => false
  | .dropped => true

/-- The lanes of some accesses of an entry, as LFLANES names them (R182). -/
def LogEntry.lanesOf (e : LogEntry) (l : List Acc) : BitVec 32 :=
  if e.uni then Sys2Proof.Machine.lanesOf (l.map (fun a => a.slices)).flatten
  else BitVec.ofNat 32 (maskOf (l.map (fun a => a.lane)))

/-- Whether an access serves one of some slices (R92). -/
def Acc.touches (a : Acc) (js : List Nat) : Bool := a.slices.any (fun j => js.contains j)

/-- A slice-uniform access for those of its slices that `p` holds of. -/
def Acc.part (a : Acc) (p : Nat → Bool) : List Acc :=
  match a.slices.filter p with
  | [] => []
  | j :: r => [{ a with lane := 4 * j, slices := j :: r }]

/-- The failed accesses of an entry that serve the slices `js` and others are split between the two (R92). -/
def LogEntry.splitBad (e : LogEntry) (js : List Nat) : LogEntry :=
  { e with accs := e.accs.flatMap (fun a =>
      if e.uni && a.st.bad then a.part (fun j => js.contains j) ++ a.part (fun j => !(js.contains j)) else [a]) }

/-- LOGSTAT, LFPC and LFLANES at the entry of a handler for a log fault of the slices `js` (R185). -/
def Issuer.enterLog (u : Issuer) (n : Nat) (js : List Nat) : Issuer :=
  match u.log.find n with
  | none => u
  | some e0 =>
    let e := e0.splitBad js
    { u with log := u.log.put n e, logFlt := true, logDropped := false, logFent := n % 16, lfpc := e.pc,
             lflanes := e.lanes ++ e.lanesOf (e.accs.filter (fun a => a.st.bad && a.touches js)) }

/-- The stepping records of an issuer whose fragment `e` enters a handler (R278): the handler is entry 0, the fragments set aside
are named as in `Issuer.tables`. -/
def Stepping.enter (e : Nat) (q : Stepping) : Stepping := { q with entry := if q.entry = e then 0 else 16 + q.entry }

/-- The stepping records when the fragment `e` returns from its handler (R278). -/
def Stepping.leave (e : Nat) (q : Stepping) : Stepping :=
  { q with entry := if q.entry = 0 then e else if 16 ≤ q.entry then q.entry - 16 else q.entry }

/-- Steps 2 to 4 of R124 for an issuer whose fragment `e` traps in the step at `pc`: the trap registers, the split table
and the pending results set aside, and the handler's fragment, whose PC is checked before its first step (R44). The halts that the fragment's marker still owes stay with
it (R271). -/
def Issuer.enter (u : Issuer) (e : Nat) (pc : Pc) (t : TrapReq) : Issuer :=
  let f := u.frag e
  let tab := u.frags.put e { f with st := .eligible, why := .none, wait := .none, wait2 := .none, stepsLeft := none }
  let u1 := match t.entry with
    | none => u
    | some n => u.enterLog n f.slices
  { u1 with
    tepc := (t.epc.getD pc).setWidth 64
    tcause := tcauseOf t
    tval := t.tval
    tmask := t.tmask.getD (u.active f)
    saved := some { frags := tab.map (fun p => (p.1, p.2.wakeIdle)), flights := u.flights, entry := e, full := f.smask, logEntry := t.entry,
                    arrayFault := t.arr, ins := t.ins }
    flights := []
    log := u1.log.map (fun p => (p.1, { p.2 with old := true }))
    frags := [(0, { f with pc := u.tvec.setWidth 57, st := .eligible, why := .none, wait := .none, wait2 := .none,
                           entryCheck := true, held := [] })]
    stepping := u.stepping.map (Stepping.enter e) }

/-- A trap of fragment `e` of `w` in the step at `pc` is taken (R124; of the further step that R98 allows each other fragment none
is taken: notes/assumptions 118), or becomes DOUBLE where a handler already runs, where
there is none, or where TVEC is no PC (R44, R127). -/
def State.takeTrap (s : State) (w : Who) (e : Nat) (pc : Pc) (t : TrapReq) : State :=
  match s.issuer w with
  | none => s
  | some u =>
    if u.inh then s.double w (bitsAt u.tcause 0 8)
    else if u.tvec = 0 ∨ bitsAt u.tvec 57 7 ≠ 0 then (s.updIssuer w (fun u => u.enter e pc t)).double w t.cause
    else (s.ageInserts w true).updIssuer w (fun u => u.enter e pc t)

/-- The slices of a log entry whose accesses are all over return their result; an entry with nothing left is freed (R183). -/
def Issuer.settle (u : Issuer) (n : Nat) : Issuer :=
  match u.log.find n with
  | none => u
  | some e =>
    let u := (slicesOf e.smask).foldl (fun u j =>
      if e.accs.all (fun a => !(a.slices.contains j) || a.st.isOver) then u.complete e.tag j [] true none else u) u
    if e.accs.all (fun a => a.st.isOver) then { u with log := u.log.drop n } else u

/-- The faulting lanes, in the slices `js`, of the entry that a handler was entered for are performed again, or abandoned (R186). -/
def Issuer.resumeLog (u : Issuer) (n : Nat) (js : List Nat) (abandon : Bool) : Issuer :=
  match u.log.find n with
  | none => u
  | some e =>
    let st := if abandon then AccSt.dropped else AccSt.pending
    let accs := e.accs.map (fun a => if a.st.bad && a.touches js then { a with st := st } else a)
    { u with log := u.log.put n { e with accs := accs } }.settle n

/-- The return from a handler (R125, R186): the table and the results set aside come back, INH clears, and the fragment
that trapped goes on at `pc`, without the lanes that have halted since (R270); `.next` drops what a faulted array instruction left (R262).
What the handler's last step had on its way comes one step nearer, what is restored does not (R65, R69). -/
def Issuer.trapReturn (u : Issuer) (pc : Pc) (nxt : Bool) : Issuer :=
  match u.saved with
  | none => u
  | some v =>
    let h := u.frag 0
    let f := v.frags.get v.entry Frag.none
    let u := u.tick h.slices h.isDbg
    let u1 := { u with
      frags := v.frags.put v.entry { f with pc := pc, entryCheck := false, stepsLeft := h.stepsLeft, lmask := h.lmask }
      flights := v.flights.filter (fun (f : Flight) => !(nxt && v.arrayFault = some f.tag)) ++ u.flights
      saved := none
      tcause := u.tcause &&& ~~~(1#64 <<< 63)
      log := u.log.map (fun p => (p.1, { p.2 with old := false }))
      logFlt := false
      stepping := u.stepping.map (Stepping.leave v.entry) }
    match v.logEntry with
    | none => u1
    | some n => u1.resumeLog n f.slices (nxt || u.logDropped)

/-- The slots the step at `pc` takes in its line: two for a pair, or for SLI and its extension (R45, R53). -/
def stepSlots (data : BitVec 512) (pc : Pc) : Nat :=
  let i := slotOf pc
  if i < 4 ∧ (bitAt data (485 + i) ∨ bitsAt data (96 * i + 86) 10 = 0x010) then 2 else 1

-- splitting and fusing

/-- The fragment after a step that takes it to `pc` (R61, R105). -/
def Frag.stepped (f : Frag) (pc : Pc) : Frag :=
  { f with pc := pc, st := .eligible, age := 0, steps := f.steps + 1, why := .none, wait := .none, wait2 := .none, entryCheck := false,
           held := [] }

/-- A fragment goes on where its slices' next PCs say, splitting where they differ (R91): a new fragment keeps the
old AGE, and has made the step toward a DSTEP too (R278); `dest` lists the slices in increasing order. -/
def Issuer.goTo (u : Issuer) (e : Nat) (dest : List (Nat × Pc)) : Issuer :=
  let f := u.frag e
  match dest with
  | [] => u
  | (_, pc0) :: _ =>
    let pcs := (dest.map (fun p => p.2)).eraseDups
    if pcs.length = 1 then u.updFrag e (fun f => f.stepped pc0)
    else
      pcs.foldl (fun u pc =>
        let js := (dest.filter (fun p => p.2 = pc)).map (fun p => p.1)
        let part := { f.stepped pc with smask := BitVec.ofNat 8 (maskOf js), lmask := f.lmask &&& lanesOf js }
        if pc = pc0 then u.updFrag e (fun _ => part) else u.updFrag u.freeEntry (fun _ => { part with age := f.age, stepsLeft := f.stepsLeft.map (fun n => n - 1) })) u

/-- The fragments that count at a REGANG (R93): slice fragments, and the debug fragment while it runs under DRUN. -/
def Issuer.atRegang (u : Issuer) : List (Nat × Frag) :=
  u.frags.filter (fun p => p.2.st != FragSt.free &&
    (!p.2.isDbg || (p.2.st != FragSt.halted && p.2.stepsLeft.isNone)))

/-- What a debug fragment has outstanding becomes the slice fragment's that it has joined (R94, R95): lane `l`'s results and
accesses. -/
def Issuer.joinDebug (u : Issuer) (l : Nat) : Issuer :=
  { u with
    haltPc := u.haltPc.drop l
    flights := u.flights.map (fun f => { f with dbg := false })
    log := u.log.map (fun p => (p.1, { p.2 with dbg := false })) }

/-- The entries of one group fuse (R94, steps 1 to 3); a DSTEP that one of them still runs under goes on with the whole (R278). -/
def Issuer.fuse (u : Issuer) (g : List (Nat × Frag)) : Issuer :=
  let sl := g.filter (fun p => !p.2.isDbg)
  let db := g.filter (fun p => p.2.isDbg)
  let go := fun (f : Frag) => { f with pc := Pc.advance f.pc 1, st := FragSt.eligible, why := Why.none, wait := Wait.none, wait2 := Wait.none }
  match sl.foldl (fun (m : Option Nat) p => match m with
      | none => some p.1
      | some x => some (Nat.min x p.1)) none with
  | none => db.foldl (fun u p => u.updFrag p.1 go) u
  | some e =>
    let f := u.frag e
    let sm := sl.foldl (fun a p => a ||| p.2.smask) 0
    let joins := db.filter (fun p => sm.getLsbD (laneOf p.2.lmask / 4))
    let all := sl ++ joins
    let f' := { f with smask := sm,
                       lmask := all.foldl (fun a p => a ||| p.2.lmask) 0,
                       age := sl.foldl (fun a p => Nat.max a p.2.age) 0,
                       stepsLeft := all.foldl (fun a p => a.or p.2.stepsLeft) none }
    let u := sl.foldl (fun u p => u.freeFrag p.1) u
    let u := joins.foldl (fun u p => (u.freeFrag p.1).joinDebug (laneOf p.2.lmask)) u
    let u := (db.filter (fun p => !(sm.getLsbD (laneOf p.2.lmask / 4)))).foldl (fun u p => u.updFrag p.1 go) u
    { u.updFrag e (fun _ => go f') with
      stepping := u.stepping.map (fun q => if all.any (fun p => p.1 = q.entry) then { q with entry := e } else q) }

/-- The release test of REGANG (R93, R94): made whenever a fragment parks, exits, halts or is resumed. -/
def Issuer.regang (u : Issuer) : Issuer :=
  let ps := u.atRegang
  if ps.isEmpty || !(ps.all (fun p => p.2.st == FragSt.parked)) then u
  else
    let pcs := (ps.map (fun p => p.2.pc)).eraseDups
    let u := pcs.foldl (fun u pc => u.fuse (ps.filter (fun p => p.2.pc = pc))) u
    if 1 < pcs.length then { u with unfused := BitVec.ofNat 16 (satAt 16 (u.unfused.toNat + 1)) } else u

/-- The release test, and what it does to the inserts of a debug fragment that has joined its slice's (R93 to R95). -/
def State.regang (s : State) (w : Who) : State :=
  match s.issuer w with
  | none => s
  | some u =>
    let t := s.updIssuer w (fun _ => u.regang)
    if u.dbgFrag.isSome && u.regang.dbgFrag.isNone then
      { t with inserts := t.inserts.map (fun p => if p.isOf w then { p with dbg := false } else p) }
    else t

-- the prologue of a step

/-- The level check, register check and the rules of TRAPRET and SHRINK that make an instruction ILLEGAL or REGS (R57, R101,
R125): the cause, or none. -/
def decodeFault (w : Who) (u : Issuer) (f : Frag) (i : Instr) : Option Nat :=
  match i.legal (some w.kind) (some u.level) with
  | some _ => some 3
  | none =>
    match i.form with
    | none => none
    | some (op, _, b) =>
      match i with
      | .trapret _ _ => if !u.inh || (match u.saved with
          | none => true
          | some v => f.smask != v.full) then some 3 else none
      | .shrink _ g => if bitsAt g.imm 0 6 ≠ 0 ∧ u.alloc < bitsAt g.imm 0 6 + 1 then some 5 else none
      | _ =>
        if !(levelOk op b w.kind u.level) then some 4
        else if w.isGang && !(regsOk op b u.alloc) then some 5
        else none

/-- The instructions that land every fixed-latency result before they issue (R68, R120, R134). -/
def landsFixed (op : Nat) : Bool :=
  op = 0x0C0 || op = 0x0CA || op = 0x0CB || op = 0x0CC || op = 0x0CD || op = 0x387 || op = 0x281 || op = 0x282 || op = 0x284
    || op = 0x287 || op = 0x2C8 || op = 0x382 || op = 0x383 || op = 0x384

/-- Opcode and marker bit of an instruction. -/
def Instr.opY (i : Instr) : Nat × Bool :=
  match i.form with
  | none => (0x3FF, false)
  | some (op, h, _) => (op, h.y)

/-- The log entries of some slices, each with the accesses that serve one of them (R92): those of the running code, or with `all`
those a trap has set aside too (R68, R185). -/
def Issuer.entriesOf (u : Issuer) (slices : List Nat) (dbg all : Bool) : List (Nat × LogEntry) :=
  (u.log.filter (fun p => p.2.dbg = dbg && (all || !p.2.old))).map (fun p =>
    (p.1, { p.2 with accs := p.2.accs.filter (fun a => a.touches slices) }))

/-- Whether some access of an entry waits for the host (R184). -/
def State.entryParked (s : State) (w : Who) (n : Nat) (e : LogEntry) : Bool :=
  match w with
  | .gang c g => s.inFaults (c / 64) (fun r => match r with
      | .lane c' g' n' l => c' = c && g' = g && n' = n && e.accs.any (fun a => a.lane = l && a.st == AccSt.pending)
      | _ => false)
  | .stream _ _ => false
  | .clusterSeq _ => false
  | .dieSeq _ => false
  | .packageSeq => false

/-- What a marker (`y`) or an EXIT still waits for (R67, R68, R184). -/
def State.markerWait (s : State) (w : Who) (u : Issuer) (slices : List Nat) (dbg y exit : Bool) : Option Why :=
  let es := (u.entriesOf slices dbg exit).filter (fun p => p.2.accs.any (fun a => a.st == AccSt.pending))
  let fl := u.flights ++ (if exit then (u.saved.map (fun v => v.flights)).getD [] else [])
  let out := fl.filter (fun (f : Flight) => f.mine slices dbg && !f.ready)
  let others := out.filter (fun f => f.kind == FlightKind.status || f.kind == FlightKind.fixed)
  let arr := out.filter (fun f => f.kind == FlightKind.array)
  if es.any (fun p => s.entryParked w p.1 p.2) then some .faultParked
  else if !es.isEmpty then some .memory
  else if (u.entriesOf slices dbg false).any (fun p => p.2.accs.any (fun a => a.st.bad)) then none
  else if s.inserts.any (fun p => p.again && p.isOf w && p.dbg = dbg && slices.any (fun j => p.frag.getLsbD j)) then some .stockpot
  else if (s.spfullOf w slices dbg).isSome then none
  else if y && !others.isEmpty then some .memory
  else if !arr.isEmpty then some .matrix
  else none

/-- The trap of the oldest faulted log entry of the slices (R185). -/
def Issuer.logFault (u : Issuer) (slices : List Nat) (dbg : Bool) (slot : Nat) : Option TrapReq :=
  let es := (u.entriesOf slices dbg false).filter (fun p => p.2.accs.any (fun a => a.st.bad))
  let oldest := es.foldl (fun (m : Option (Nat × LogEntry)) p => match m with
    | none => some p
    | some q => if p.2.seq < q.2.seq then some p else some q) none
  match oldest with
  | none => none
  | some (n, e) =>
    let laneAt := fun (a : Acc) => if e.uni then 4 * ((a.slices.filter (fun j => slices.contains j)).headD 0) else a.lane
    let a := (e.accs.filter (fun a => a.st.bad)).foldl (fun (m : Option Acc) a => match m with
      | none => some a
      | some b => if laneAt a < laneAt b then some a else some b) none
    match a with
    | none => none
    | some a =>
      let cause := match a.st with
        | .failed c => c
        | .pending => 0
        | .done => 0
        | .dropped => 0
      some { cause := cause, info := 256 * (n % 16) + laneAt a, tval := a.ea, slot := slot, epc := none, tmask := some e.act,
             entry := some n, arr := none, ins := none }

/-- The deferred array fault that a marker of these slices raises (R239): the trap, and the issuer with the flags of the
completed steps set. -/
def Issuer.arrayFault (u : Issuer) (slices : List Nat) (gang : Bool) (slot : Nat) : Option (TrapReq × Issuer) :=
  match u.arrFaults.find? (fun a => !gang || slices.any (fun j => a.slices.getLsbD j)) with
  | none => none
  | some a =>
    let u := { u.landAll a.flags with mfpc := a.pc, arrFaults := u.arrFaults.erase a }
    some ({ cause := a.cause, info := a.info, tval := a.tval, slot := slot, epc := none, tmask := none, entry := none,
            arr := some a.tag, ins := none }, u)

/-- Why a binding fails at its commit (R176): 2, 3, or 0 for no failure. Windows are compared by the registers that they name
(notes/assumptions 164: DESIGN CHOICE). -/
def Issuer.bindBad (u : Issuer) (j q win : Nat) (desc : BitVec 512) : Nat :=
  match Ladle.ofDesc desc win with
  | none => 2
  | some l =>
    let taken := (List.range 8).any (fun k => k != q && (u.ladles.find (8 * k + j)).any (fun o => o.win = win))
    if taken || (is64 l.ty && (win % 2 = 1 || win = 255)) then 3 else 0

/-- A binding among some results (R176): its flight, slice, ladle, window, log entry, descriptor and its address. -/
structure BindRes where
  fl : Flight
  slice : Nat
  q : Nat
  win : Nat
  entry : Nat
  desc : BitVec 512
  addr : BitVec 64
  deriving DecidableEq, Repr

/-- The bindings among some results, in order. -/
def bindsOf (fl : List Flight) : List BindRes :=
  (fl.map (fun f => f.tgts.filterMap (fun t => match t with
    | .bind j q w e d a => some { fl := f, slice := j, q := q, win := w, entry := e, desc := d, addr := a : BindRes }
    | .s _ _ _ => none
    | .c _ _ _ => none
    | .m _ _ _ _ => none
    | .v _ _ _ _ => none
    | .a _ _ _ => none
    | .fstat _ _ => none))).flatten

/-- The bindings of some slices that fail, with why, judged in order as each would commit (R176). -/
def Issuer.failing (u : Issuer) (slices : List Nat) (dbg : Bool) : List (BindRes × Nat) :=
  ((bindsOf (u.flights.filter (fun (f : Flight) => f.mine slices dbg))).foldl (fun (acc : Issuer × List (BindRes × Nat)) b =>
    let bad := acc.1.bindBad b.slice b.q b.win b.desc
    if bad = 0 then (acc.1.land (.bind b.slice b.q b.win b.entry b.desc b.addr), acc.2) else (acc.1, acc.2 ++ [(b, bad)])) (u, [])).2

/-- A LADLE whose binding has failed in the slices `js` stands in the operand log again (R176, R185): in its own entry, or the lowest
free one where that has been taken since; where all sixteen are in use, beside them under its own number (notes/assumptions 119). -/
def Issuer.reenter (u : Issuer) (n : Nat) (e : LogEntry) (js : List Nat) : Nat × Issuer :=
  let k := if (u.log.find n).isNone then n else ((List.range 16 ++ (16 + n) :: List.range 64).find? (fun k => (u.log.find k).isNone)).getD n
  (k, { u with
    log := u.log.put k { e with accs := e.accs.flatMap (fun a => { a with st := .failed 0x16 }.part (fun j => js.contains j)) }
    flights := u.flights.map (fun f =>
      if f.tag = e.tag && f.kind != .fixed && js.contains f.slice then { f with tgts := [], ready := false } else f) })

/-- WALK at a marker (R176): the first LADLE that fails, and the issuer with its failing slices in the log again. The code and TVAL are
those of its first failing slice (notes/assumptions 149: DESIGN CHOICE). -/
def Issuer.bindFault (u : Issuer) (slices : List Nat) (dbg : Bool) (slot : Nat) : Option (TrapReq × Issuer) :=
  match u.failing slices dbg with
  | [] => none
  | (b, code) :: r =>
    match b.fl.src with
    | none => none
    | some e =>
      let js := ((b, code) :: r).filterMap (fun p => if p.1.fl.tag = b.fl.tag then some p.1.slice else none)
      let k := u.reenter b.entry e js
      some ({ cause := 0x16, info := 256 * (k.1 % 16) + code, tval := b.addr, slot := slot, epc := none, tmask := some e.act,
              entry := some k.1, arr := none, ins := none }, k.2)

/-- The events of the loads that a marker commits (R271): one for each load, but for those that issued in a handler (R266). -/
def loadEvents (fl : List Flight) : List StepEv :=
  let tags := ((fl.filter (fun f => f.load.isSome)).map (fun f => f.tag)).eraseDups
  tags.filterMap (fun t =>
    let ls := (fl.filter (fun f => f.tag = t)).filterMap (fun f => f.load)
    match ls with
    | [] => none
    | l :: _ =>
      if l.inh then none
      else some { pc := l.pc, lmask := l.lmask, mask := l.mask, load := true, addrs := (ls.map (fun x => x.addrs)).flatten,
                  vals := (ls.map (fun x => x.stored ++ x.elems.map (fun p =>
                    { kind := 1, lane := p.1, vals := p.2, width := x.width : ValEv }))).flatten })

/-- A marker's commit (R67): every result of the fragment's slices, in program order. -/
def State.commitAll (s : State) (w : Who) (slices : List Nat) (dbg : Bool) : State :=
  match s.issuer w with
  | none => s
  | some u =>
    { s.updIssuer w (fun u => u.commit slices dbg) with
      evs := s.evs ++ loadEvents (u.flights.filter (fun (f : Flight) => f.mine slices dbg)) }

/-- Where the slices of a transfer go, before its guard is known to pass (R116 to R118): for each slice where it is taken, its
target. Empty for an instruction that is no transfer. -/
def Cx.targets (c : Cx) (op : Nat) (f : BFmt) : List (Nat × Dword) :=
  let direct : Dword := BitVec.ofInt 64 (((64 * (lineOf c.cur.at_) : Nat) : Int) + 64 * f.disp.toInt + f.slot.toNat)
  let tgt := fun (j : Nat) =>
    if op = 0x0C9 then c.s f.sl j else if f.ind then c.s f.st j else direct
  let m := c.m f.mt.toNat
  let act := c.u.active c.fr
  let nib := fun (x : Word) (j : Nat) => x.extractLsb' (4 * j) 4
  let taken := fun (j : Nat) =>
    if op = 0x0C1 ∨ op = 0x0C8 ∨ op = 0x0C9 then true
    else if op = 0x0C2 then c.c f.cb j != f.inv
    else if op = 0x0C3 then m == 0
    else if op = 0x0C4 then m != 0
    else if op = 0x0C5 then nib (m &&& act) j != 0
    else if op = 0x0C6 then nib (act &&& ~~~m) j == 0
    else if op = 0x0C7 then
      f.dim.toNat < 5 && (match c.u.ladles.find (8 * f.q.toNat + j) with
        | none => false
        | some l => l.ends.getLsbD f.dim.toNat) == f.inv
    else false
  (c.pass.filter taken).map (fun j => (j, tgt j))

/-- What an instruction's issue reads, its operands taken as the issuer stands. -/
def Cx.of (who : Who) (u : Issuer) (cur : Cur) (g : BitVec 5) : Cx :=
  let f := u.frag cur.entry
  let sl := f.slices
  { who := who, entry := cur.entry, u := u, fr := f, slices := sl,
    pass := sl.filter (fun j => u.rdC (bitsAt g 0 4) j != bitAt g 4), cur := cur, lad := [] }

/-- FETCH and TARGET rank before ILLEGAL (R58): the check of a transfer whose word is ILLEGAL for some other reason. -/
def State.illegalTransfer (s : State) (w : Who) (u : Issuer) (cur : Cur) (i : Instr) : Chk × Dword :=
  match i.form with
  | some (op, h, .b f) =>
    if 0x0C1 ≤ op ∧ op ≤ 0x0C9 ∧ issuable w.kind op ∧ h.g ≠ 16 then
      s.checkTargets w u.ctx (((Cx.of w u cur h.g).targets op f).map (fun p => p.2))
    else (.ok, 0)
  | _ => (.ok, 0)

/-- A decode fault of the instructions of a step (R57 to R60), the first slot's before the second's. What translation raises at the target
of an ILLEGAL transfer ranks after it (R128); the line of a target that has failed is fetched anew next time (R44). -/
def State.decodeFaults (s : State) (w : Who) (u : Issuer) (cur : Cur) (y : Bool) : List (Instr × Pc) → Option Res
  | [] => none
  | (i, at_) :: r =>
    let c := { cur with at_ := at_ }
    match decodeFault w u (u.frag cur.entry) i with
    | none => s.decodeFaults w u cur y r
    | some n =>
      let t := fun (cause : Nat) (v : Dword) => TrapReq.plain cause 0 v (slotOf at_)
      if n = 3 ∧ !y then
        match s.illegalTransfer w u c i with
        | (.bad 2, v) => some (.trap (t 2 v) s)
        | (.bad k, v) => some (.trap (if k = 1 then t k v else t 3 0) (s.dropLine w.place u.ctx (lineOf (v.setWidth 57))))
        | (.wait x, _) => some (.stall x s)
        | (.ok, _) => some (.trap (t 3 0) s)
      else some (.trap (t n 0) s)

/-- The prologue of a step (R57 to R60, R67, R68): the decode faults of its instructions, the wait and the commit of a
marker, the wait of an EXIT, the landing of fixed-latency results. The sieves of the core stand as they are seen by a
step of this cycle (R274). A marker that meets several faults raises the log fault, then SPFULL, then a deferred array fault, then the WALK of a binding
(notes/assumptions 22: DEDUCED); a deferred array fault is raised at a marker in a handler too (notes/assumptions 152: DEDUCED). -/
def State.prologue (s : State) (w : Who) (u : Issuer) (cur : Cur) (is : List (Instr × Pc)) : Res :=
  let f := u.frag cur.entry
  let sl := f.slices
  let y := is.any (fun p => (Instr.opY p.1).2)
  let exit := is.any (fun p => (Instr.opY p.1).1 = 0x0CB)
  let s := { s with svOld := (match w.core? with
    | none => []
    | some n => (s.core n).probe.seenIn s.cycles), evs := [] }
  match s.decodeFaults w u cur y is with
  | some r => r
  | none =>
    let land := fun (s : State) =>
      if is.any (fun p => landsFixed (Instr.opY p.1).1) then s.updIssuer w (fun u => u.landFixed sl f.isDbg) else s
    if y || exit then
      match s.markerWait w u sl f.isDbg y exit with
      | some x => .stall x s
      | none =>
        match u.logFault sl f.isDbg (slotOf cur.pc) with
        | some t => .trap t s
        | none =>
          match s.spfullOf w sl f.isDbg with
          | some p => .trap { TrapReq.plain 0x43 p.level p.addr (slotOf cur.pc) with ins := some p.id } s
          | none =>
          match u.arrayFault sl w.isGang (slotOf cur.pc) with
          | some (t, u') => .trap t (s.updIssuer w (fun _ => u'))
          | none =>
            if y then
              match u.bindFault sl f.isDbg (slotOf cur.pc) with
              | some (t, u') => .trap t ((s.updIssuer w (fun _ => u')).logDie w.die t.tval.toNat u.ctx 0 1 t.cause)
              | none => .ok (s.commitAll w sl f.isDbg)
            else .ok (land s)
    else .ok (land s)

-- ladle operands

/-- Whether an element has a lane's value or its fault. -/
def LadleElem.has (e : LadleElem) (lane : Nat) : Bool := e.vals.any (fun v => v.1 = lane) || e.bad.any (fun b => b.1 = lane)

/-- The address of the current element of a ladle for a lane (R175). -/
def Ladle.addr (l : Ladle) (lane : Nat) : BitVec 64 :=
  (l.idx.zip l.dims).foldl (fun a p => a + BitVec.ofNat 64 p.1 * p.2.2.signExtend 64) l.base
    + BitVec.ofNat 64 lane * l.lstride.signExtend 64

/-- The indices after one advance, and how many dimensions wrapped (R178). -/
def stepIdx : List Nat → List (Nat × BitVec 32) → List Nat × Nat × Bool
  | i :: is, d :: ds =>
    if i + 1 = d.1 then
      match stepIdx is ds with
      | (js, n, w) => (0 :: js, n + 1, w)
    else ((i + 1) :: is, 0, false)
  | [], _ => ([], 0, true)
  | is, [] => (is, 0, true)

/-- Whether the element `n` advances further on has arrived for the lanes of a slice (R177, R179). -/
def Ladle.arrived (l : Ladle) (slice n : Nat) : Bool :=
  l.got.any (fun e => e.ahead = n && (List.range 4).all (fun i => e.has (4 * slice + i)))

/-- One advance (R178): the end flags it sets are visible from the next step, joined to those of another advance of the same
step (R177). -/
def Ladle.advance (l : Ladle) : Ladle :=
  let r := stepIdx l.idx l.dims
  let ends : BitVec 5 := BitVec.ofNat 5 (2 ^ r.2.1 - 1)
  { l with
    idx := r.1
    endsNext := some (match l.endsNext with
      | none => ends
      | some e => e ||| ends)
    exhausted := r.2.2 && !l.wrap
    pos := l.pos + 1
    got := l.got.filterMap (fun g => if g.ahead = 0 then none else some { g with ahead := g.ahead - 1 }) }

/-- The slices in which an instruction reads ladle `q` (R177): those where its guard is true and a source field names the
window. -/
def Cx.reads (c : Cx) (srcs : List (Nat × Bool)) (q : Nat) : List Nat :=
  c.pass.filter (fun j => match c.u.ladles.find (8 * q + j) with
    | none => false
    | some l => srcs.contains (l.win, is64 l.ty))

/-- The lanes of slice `j` that take a ladle's element: active and helper lanes (R177). -/
def Cx.takers (c : Cx) (j : Nat) : List Nat :=
  (List.range 4).filterMap (fun i => if c.fr.lmask.getLsbD (4 * j + i) then some (4 * j + i) else none)

/-- The ladle elements of an instruction (R177 to R179): taken, with the read events they make (R266), or a wait, or the
fault met, with INFO 0 and the address of the first lane that recorded it as TVAL (notes/assumptions 150: DESIGN CHOICE). -/
def Cx.readLadles (c : Cx) (srcs : List (Nat × Bool)) (s : State) : (Cx × List AccEv × List (Nat × Nat)) ⊕ Res :=
  let uses := ((List.range 8).map (fun q => (c.reads srcs q).map (fun j => (q, j)))).flatten
  let lad := fun (p : Nat × Nat) => c.u.ladles.find (8 * p.1 + p.2)
  let exhausted := uses.any (fun p => (lad p).any (fun l => l.exhausted))
  let missing := uses.filter (fun p => (lad p).any (fun l => !(l.arrived p.2 0)))
  let bad := (uses.map (fun p => match lad p with
    | none => []
    | some l => ((l.got.filter (fun g => g.ahead = 0)).map (fun g => (g.bad.filter (fun b => c.act.contains b.1)).map
        (fun b => (p, l.addr b.1, b.2)))).flatten)).flatten
  if exhausted then .inr (.trap (c.fault 0x16 1 0) (s.logDie c.who.die 0 c.u.ctx 0 1 0x16))
  else if !missing.isEmpty then
    let parked : Bool := match c.who with
      | .gang n g => s.inFaults (n / 64) (fun r => missing.any (fun p => r = .ladle n g p.2 p.1))
      | .stream _ _ => false
      | .clusterSeq _ => false
      | .dieSeq _ => false
      | .packageSeq => false
    .inr (.stall (if parked then .faultParked else .memory) s)
  else match bad with
  | (p, a, cause) :: _ =>
    .inr (.trap (c.fault cause 0 a) (s.updIssuer c.who (fun u => match u.ladles.find (8 * p.1 + p.2) with
      | none => u
      | some l => { u with ladles := u.ladles.put (8 * p.1 + p.2) { l with got := l.got.filter (fun g => g.ahead ≠ 0) } })))
  | [] =>
    let vals := (uses.map (fun p => match lad p with
      | none => []
      | some l =>
        let got := ((l.got.filter (fun g => g.ahead = 0)).map (fun g => g.vals)).flatten
        (c.takers p.2).map (fun i => (l.win, is64 l.ty, i, (got.find? (fun v => v.1 = i)).map (fun v => v.2) |>.getD 0)))).flatten
    let evs := (uses.map (fun p => match lad p with
      | none => []
      | some l => ((c.takers p.2).filter (fun i => c.act.contains i)).map (fun i =>
          { lane := i, space := l.space, ea := l.addr i, len := tyBits l.ty / 8, rd := true, wr := false : AccEv }))).flatten
    .inl ({ c with lad := vals }, evs, uses)

/-- The ladles of a step advance (R177, R178). -/
def State.advanceLadles (s : State) (w : Who) (uses : List (Nat × Nat)) : State :=
  s.updIssuer w (fun u => uses.foldl (fun u p => match u.ladles.find (8 * p.1 + p.2) with
    | none => u
    | some l => { u with ladles := u.ladles.put (8 * p.1 + p.2) l.advance }) u)

-- the end of a step

/-- The issuer at the end of a step of fragment slices `sl`: results come one step nearer (R65), end flags become visible
(R178). -/
def Issuer.endStep (u : Issuer) (sl : List Nat) (dbg : Bool) : Issuer :=
  let u := u.tick sl dbg
  { u with ladles := u.ladles.map (fun p => (p.1, match p.2.endsNext with
      | none => p.2
      | some e => { p.2 with ends := e, endsNext := none })) }

/-- The entry under which the fragment of an issue stands after its step: where it has fused, or where it runs a handler, the entry
that holds its lowest slice. -/
def Issuer.entryNow (u : Issuer) (c : Cx) : Nat :=
  if c.fr.isDbg then (match u.dbgFrag with
    | some p => p.1
    | none => (u.entryOf (c.slices.headD 0)).getD c.entry)
  else match u.tables.find? (fun p => p.2.st != FragSt.free && !p.2.isDbg && p.2.smask.getLsbD (c.slices.headD 0)) with
    | some p => p.1
    | none => c.entry

/-- See `Issuer.entryNow`. -/
def State.entryNow (s : State) (c : Cx) : Nat :=
  match s.issuer c.who with
  | none => c.entry
  | some u => u.entryNow c

/-- A step is counted toward a DSTEP of its fragment (R278). -/
def State.countStep (s : State) (w : Who) (e : Nat) : State :=
  s.updIssuer w (fun u =>
    { u.updAt e (fun f => { f with stepsLeft := f.stepsLeft.map (fun n => n - 1) }) with
      stepping := u.stepping.map (fun q => if q.entry = e then { q with ran := q.ran + 1 } else q) })

/-- The DSTEP of the fragment that `Issuer.tables` names `e` ends where its count is reached, or where the fragment has parked at REGANG,
which asks for the release test again (R93), or is gone (R278, R279). -/
def State.endOneStepping (s : State) (w : Who) (e : Nat) : State :=
  match s.issuer w with
  | none => s
  | some u =>
    match u.tables.find? (fun p => p.1 = e) with
    | none => s.stepEnds w e 3
    | some p =>
      if p.2.st == FragSt.free then s.stepEnds w e 3
      else if p.2.stepsLeft.isNone then s
      else if p.2.st == FragSt.parked then
        ((s.updIssuer w (fun u => u.updAt e (fun f => { f with stepsLeft := none }))).stepEnds w e 2).regang w
      else if p.2.stepsLeft = some 0 then
        let stepped := u.stepping.any (fun q => q.entry = e)
        let host := u.stepping.any (fun q => q.entry = e && q.tag = 0)
        let s := s.stepEnds w e 0
        s.updIssuer w (fun u =>
          let u := { u.updAt e Frag.halt with byHost := if stepped then host else u.byHost }
          if p.2.isDbg then { u with haltPc := u.haltPc.put (laneOf p.2.lmask) p.2.pc } else u)
      else s

/-- After a step of fragment `e`: its DSTEP, and what has split off a stepped fragment, which stops with its own count (R278). -/
def State.endStepping (s : State) (w : Who) (e : Nat) : State :=
  match s.issuer w with
  | none => s
  | some u => ((u.tables.filter (fun p => p.1 != e && p.2.stepsLeft.isSome)).map (fun p => p.1)).foldl (fun s n => s.endOneStepping w n)
      (s.endOneStepping w e)

/-- Whether the step of `c` has parked a fragment at its REGANG (R93). -/
def Cx.parks (c : Cx) (f : Frag) : Bool :=
  f.st == FragSt.parked && f.isDbg == c.fr.isDbg && (f.isDbg || c.pass.any (fun j => f.smask.getLsbD j))

/-- The PC at which a halt of the step of `c` leaves a fragment (R271): past the REGANG at which the step has parked it. -/
def Cx.haltAt (c : Cx) (f : Frag) : Pc := if c.parks f then c.cur.next else f.pc

/-- What the step of `c` has parked, as a halt finds it: it stands past its REGANG (R271). -/
def Issuer.pastRegang (u : Issuer) (c : Cx) : Issuer :=
  { u with frags := u.frags.map (fun p => (p.1, if c.parks p.2 then { p.2 with pc := c.cur.next, wait := .none } else p.2)) }

/-- What no halt has taken waits at the REGANG of the step of `c` again (R93). -/
def Issuer.atItsRegang (u : Issuer) (c : Cx) : Issuer :=
  { u with frags := u.frags.map (fun p => (p.1, if c.parks p.2 then { p.2 with pc := c.cur.at_, wait := .regang } else p.2)) }

/-- The halts of a step of gang `g` (R270, R271). -/
def State.haltStep (s : State) (core g : Nat) (c : Cx) (hs : List (List Match)) : State :=
  let w := Who.gang core g
  (((s.updIssuer w (fun u => u.pastRegang c)).haltsOf core g c.fr.isDbg hs).updIssuer w (fun u => u.atItsRegang c)).regang w

/-- The trap of a match of gang `g` (R272): none where a trap has been taken in the step (R128). The fragment traps where a halt
would have left it, and stays stopped where one has. -/
def State.sieveTrap (s : State) (core g : Nat) (c : Cx) (ms : List Match) : State :=
  let w := Who.gang core g
  match ms, s.issuer w with
  | m0 :: r, some u =>
    let m := r.foldl (fun a b => if b.sv < a.sv then b else a) m0
    let lane := m.lanes.foldl (fun a p => if p.1 < a then p.1 else a) 31
    match (if c.fr.isDbg then u.dbgFrag.map (fun p => p.1) else u.entryOf (lane / 4)) with
    | none => s
    | some e =>
      let f := u.frag e
      if u.inh || f.st == FragSt.free then s
      else
        let pc := c.haltAt f
        let t := s.takeTrap w e pc { TrapReq.plain 0x30 (m.sv + 256 * lane) (m.pc.setWidth 64) (slotOf m.pc) with epc := some pc }
        if f.st == FragSt.halted then t.haltEntry w 0 else t
  | _, _ => s

/-- The halts that the sieves take after a step of gang `g`, with all that they have matched (R266 to R271): none is evaluated while a
handler runs. -/
def State.sieveHalts (s : State) (core g : Nat) (c : Cx) : State × List (List Match) :=
  if c.u.inh then (s, [])
  else
    let r := s.judge core g c.u s.evs
    let hs := c.fr.held ++ r.2
    if hs.all List.isEmpty then (r.1, []) else (r.1.haltStep core g c hs, hs)

/-- What the sieves do after a step of gang `g` (R266 to R272). -/
def State.sieveStep (s : State) (core g : Nat) (c : Cx) : State :=
  let r := s.sieveHalts core g c
  match r.2.find? (fun ms => ms.any (fun m => m.act = 6)) with
  | none => r.1
  | some ms => r.1.sieveTrap core g c ms

/-- The halts that fragment `e` still owes for the loads of a marker are taken where its handler steps over the marker (R125, R271). -/
def State.takeHeld (s : State) (w : Who) (e : Nat) : State :=
  match w with
  | .gang n g =>
    (match s.issuer w with
      | none => s
      | some u =>
        let f := u.frag e
        if f.held.isEmpty then s
        else ((s.updIssuer w (fun u => u.updFrag e (fun f => { f with held := [] }))).haltsOf n g f.isDbg f.held).regang w)
  | .stream _ _ => s
  | .clusterSeq _ => s
  | .dieSeq _ => s
  | .packageSeq => s

/-- The end of a step (R61): the fragment goes on at the next PC unless it has been placed already, its results come
nearer, and the sieves look at it. -/
def State.epilogue (s : State) (c : Cx) (placed : Bool) : State :=
  let s := if placed then s else s.updIssuer c.who (fun u => u.updFrag c.entry (fun f => f.stepped c.cur.next))
  let s := s.updIssuer c.who (fun u => u.endStep c.slices c.fr.isDbg)
  let s := s.countStep c.who (s.entryNow c)
  let s := match c.who with
    | .gang n g => s.sieveStep n g c
    | .stream _ _ => s
    | .clusterSeq _ => s
    | .dieSeq _ => s
    | .packageSeq => s
  { (s.endStepping c.who (s.entryNow c)) with ev := .issued, cur := none, evs := [] }

/-- The entry of the fragment in which a step that is complete traps (R122): that of its slices where the guard is true, of those that no
halt has taken from it (R270) where there is one. -/
def Issuer.trapEntry (u : Issuer) (c : Cx) : Nat :=
  if c.fr.isDbg then c.entry
  else match (c.pass.filterMap u.entryOf).find? (fun e => (u.frag e).st != FragSt.halted) with
    | some e => e
    | none => (u.entryOf c.low).getD c.entry

/-- The end of a step that is complete and then traps (R122, R271): its halts stand before the handler begins, and a sieve's trap gives
way to the trap being taken (R128). -/
def State.epilogueTrap (s : State) (c : Cx) (t : TrapReq) : State :=
  let s := s.updIssuer c.who (fun u => u.endStep c.slices c.fr.isDbg)
  let s := s.countStep c.who (s.entryNow c)
  let s := match c.who with
    | .gang n g => (s.sieveHalts n g c).1
    | .stream _ _ => s
    | .clusterSeq _ => s
    | .dieSeq _ => s
    | .packageSeq => s
  match s.issuer c.who with
  | none => { s with ev := .issued, cur := none, evs := [] }
  | some u =>
    let e := u.trapEntry c
    let t' := s.takeTrap c.who e c.cur.pc t
    let t' := if (u.frag e).st == FragSt.halted then t'.haltEntry c.who 0 else t'
    { t'.endStepping c.who 0 with ev := .issued, cur := none, evs := [] }

/-- What the sieves make of the loads that the marker of a step has committed, where the step itself is not over (R271): the state
with their counts, and their halts and traps. -/
def State.sieveLoads (s : State) (w : Who) (u : Issuer) (es : List StepEv) : State × List (List Match) :=
  match w with
  | .gang n g => if u.inh then (s, []) else s.judge n g u (es.filter (fun x => x.load))
  | .stream _ _ => (s, [])
  | .clusterSeq _ => (s, [])
  | .dieSeq _ => (s, [])
  | .packageSeq => (s, [])

/-- A fragment waits (R61, R104): STATE 3, or STATE 4 where it waits for the host. The halts of the loads its marker has committed
wait with it (R271). -/
def State.markStalled (s : State) (w : Who) (e : Nat) (x : Why) : State :=
  let r := match s.issuer w with
    | none => (s, [])
    | some u => s.sieveLoads w u s.evs
  { r.1.updIssuer w (fun u => u.updFrag e (fun f =>
      { f with st := if x == Why.faultParked then .faultParked else .blocked, why := x,
               held := f.held ++ r.2.filter (fun ms => !ms.isEmpty) })) with
    ev := .stalled x, cur := none, evs := [] }

/-- A trap ends the attempt (R124). The sieves look at the loads that its marker has committed (R271): their halts wait, with the
fragment set aside, for the marker to issue. -/
def State.markTrapped (s : State) (w : Who) (e : Nat) (pc : Pc) (t : TrapReq) : State :=
  match s.issuer w with
  | none => { s with ev := .trapped t, cur := none, evs := [] }
  | some u =>
    let r := s.sieveLoads w u s.evs
    let s1 := if r.2.all List.isEmpty then r.1
      else r.1.updIssuer w (fun u => u.updFrag e (fun f => { f with held := f.held ++ r.2.filter (fun ms => !ms.isEmpty) }))
    { s1.takeTrap w e pc t with ev := .trapped t, cur := none, evs := [] }

/-- The body of an instruction under its guard (R47, R177): where the guard is true in no slice it has no effect; its ladle
operands are read before it and advance with it. -/
def runBody (i : Instr) (c : Cx) (body : Cx → State → Res) (s : State) : Res :=
  if c.pass.isEmpty then .ok s
  else
    match i.form with
    | none => body c s
    | some (op, _, b) =>
      if c.u.ladles.isEmpty then body c s
      else
        match c.readLadles (b.vsrcs op) s with
        | .inr r => r
        | .inl (c', evs, uses) =>
          if uses.isEmpty then body c s
          else match body c' s with
          | .ok s' => .ok ((if evs.isEmpty then s' else c.events evs [] s').advanceLadles c.who uses)
          | .moved s' => .moved (s'.advanceLadles c.who uses)
          | r => r

/-- How the attempt of an instruction ends (R61, R124): a step that is over, the first half of a pair, a wait or a trap. The
second half of a pair leaves its trap to the pair. -/
def State.close (c : Cx) (r : Res) : Host.Outcome State Fault Refusal :=
  match r with
  | .stall w s => .next (s.markStalled c.who c.entry w)
  | .trap t s =>
    match c.cur.role with
    | .second _ => .next { s with ev := .trapped t }
    | .single => .next (s.markTrapped c.who c.entry c.cur.pc t)
    | .first _ => .next (s.markTrapped c.who c.entry c.cur.pc t)
  | .ok s =>
    match c.cur.role with
    | .first _ => .next { s with ev := .issued }
    | .single => .next (s.epilogue c false)
    | .second _ => .next (s.epilogue c false)
  | .moved s => .next (s.epilogue c true)
  | .after t s => .next (s.epilogueTrap c t)
  | .back e s => .next { (s.countStep c.who e).endStepping c.who e with ev := .issued, cur := none, evs := [] }

/-- The two instructions of a pair with their PCs, the first slot's first; `i` is the one at `cur.at_` (R59). -/
def pairAt (cur : Cur) (i o : Instr) : List (Instr × Pc) :=
  if cur.at_ = cur.pc then [(i, cur.pc), (o, Pc.advance cur.pc 1)] else [(o, cur.pc), (i, cur.at_)]

/-- Of a pair that LDRAIN begins, the other instruction reads the ladles as they stand before it (R63). -/
def State.noteLadles (s : State) (cur : Cur) (i : Instr) : State :=
  match cur.role with
  | .first _ =>
    if (Instr.opY i).1 = 0x209 then { s with cur := some { cur with lads := (s.issuer cur.who).map (fun u => u.ladles) } } else s
  | .single => s
  | .second _ => s

/-- The issuer as the instruction in progress reads it (R63). -/
def Cur.reads (cur : Cur) (u : Issuer) : Issuer :=
  match cur.lads with
  | none => u
  | some t => { u with ladles := t }

/-- The issue of one instruction by the issue in progress: the prologue of its step, unless it is the second half of a pair
whose first half has made it, then its body under its guard, then the end of the step. -/
def issue (i : Instr) (h : Hdr) (body : Cx → State → Res) (s : State) : Host.Outcome State Fault Refusal :=
  match s.cur with
  | none => .fault .noIssuer
  | some cur =>
    match s.issuer cur.who with
    | none => .fault .noIssuer
    | some u =>
      let go := fun (s : State) =>
        match s.issuer cur.who with
        | none => (.fault .noIssuer : Host.Outcome State Fault Refusal)
        | some u =>
          let c := Cx.of cur.who (cur.reads u) cur h.g
          State.close c (runBody i c body (c.begin s))
      match cur.role with
      | .second _ => go s
      | .single =>
        (match s.prologue cur.who u cur [(i, cur.at_)] with
          | .ok s' => go s'
          | .moved s' => go s'
          | r => State.close (Cx.of cur.who u cur h.g) r)
      | .first o =>
        (match s.prologue cur.who u cur (pairAt cur i o) with
          | .ok s' => go (s'.noteLadles cur i)
          | .moved s' => go (s'.noteLadles cur i)
          | r => State.close (Cx.of cur.who u cur h.g) r)

end Sys2Proof.Machine
end

