-- ==== Sys2Proof/Machine/Flags.lean ====
section
/-! DEFINITION. Exception flags of vector instructions (R32 to R34): what each lane raises, the slices' copies of FSTAT
that take them, and the sieve events they make (R266). -/
namespace Sys2Proof.Machine

/-- What an instruction does in one active lane: the results that land, the flags it raises, and the ternary codes or
scale bytes that raise FMT. -/
structure LaneOut where
  tgts : List Tgt
  flags : Nat
  fmt : List Nat
  deriving DecidableEq, Repr

/-- The flags of the lanes of slice `j` (R34). -/
def sliceFlags (outs : List (Nat × LaneOut)) (j : Nat) : Nat :=
  outs.foldl (fun a p => if p.1 / 4 = j then a ||| p.2.flags else a) 0

/-- The flags of each slice, as results for its copy of FSTAT (R34). -/
def flagTgts (outs : List (Nat × LaneOut)) : List (Nat × Tgt) :=
  (List.range 8).filterMap (fun j =>
    if sliceFlags outs j = 0 then none else some (j, Tgt.fstat j (BitVec.ofNat 6 (sliceFlags outs j))))

/-- The FP-exception and FMT events of the lanes (R266). -/
def flagEvents (outs : List (Nat × LaneOut)) : List ValEv :=
  outs.filterMap (fun p => if p.2.flags = 0 then none
      else some { kind := 3, lane := p.1, vals := [p.2.flags], width := 64 })
    ++ outs.filterMap (fun p => if p.2.fmt.isEmpty then none
      else some { kind := 4, lane := p.1, vals := p.2.fmt, width := 64 })

/-- An instruction of groups 4 to 7 acts in every active lane; its results and flags are visible `lat` steps later (R34,
R64, R137). -/
def Cx.vec (c : Cx) (lat : Nat) (go : Nat → LaneOut) (s : State) : Res :=
  let outs := c.act.map (fun l => (l, go l))
  let ts := (outs.map (fun p => p.2.tgts.map (fun t => (p.1 / 4, t)))).flatten
  .ok (c.events [] (flagEvents outs) (c.fixed lat (ts ++ flagTgts outs) s))

/-- A saturating result (R18, R142): the clamped value, and OF where it differs. -/
def clampInt (ty : Nat) (x : Int) : Nat × Nat :=
  let sg : Bool := ty < 4
  let w := tyBits ty
  if x < intMin sg w then (wrapW w (intMin sg w), fOF)
  else if intMax sg w < x then (wrapW w (intMax sg w), fOF)
  else (wrapW w x, 0)

/-- An integer result at the width of its type, wrapping or saturating (R18). -/
def intOut (ty : Nat) (sat : Bool) (x : Int) : Nat × Nat :=
  if sat then clampInt ty x else (wrapW (tyBits ty) x, 0)

end Sys2Proof.Machine
end

