-- ==== Sys2Proof/Machine/Operands.lean ====
section
/-! DEFINITION. Vector operands (R12, R52, R137, R138): the elements of a lane, immediates, and results as what lands. -/
namespace Sys2Proof.Machine

/-- Elements of `w` bits of an `n`-element value, the lowest first (R12). -/
def unpackN (w n x : Nat) : List Nat := (List.range n).map (fun i => x / 2 ^ (w * i) % 2 ^ w)

/-- The value that elements of `w` bits make (R12). -/
def packN (w : Nat) : List Nat → Nat
  | [] => 0
  | e :: r => e % 2 ^ w + 2 ^ w * packN w r

/-- Elements of a lane: one of a pair, else as many as fit 32 bits (R12). -/
def elemCount (ty : Nat) : Nat := if pairTy ty then 1 else 32 / tyBits ty

/-- Lane `l` of a register operand of type `ty`, a pair for a 64-bit type (R137). -/
def Cx.vraw (c : Cx) (ty r l : Nat) : Nat := if pairTy ty then (c.v2 r l).toNat else (c.v1 r l).toNat

/-- Its elements. -/
def Cx.velems (c : Cx) (ty r l : Nat) : List Nat := unpackN (tyBits ty) (elemCount ty) (c.vraw ty r l)

/-- The stored elements of a destination, before the instruction. -/
def Cx.dRaw (c : Cx) (ty r l : Nat) : Nat :=
  if pairTy ty then (c.u.rdV (r + 1) l ++ c.u.rdV r l).toNat else (c.u.rdV r l).toNat

/-- An element of an immediate (R52). -/
def immElem (ty : Nat) (imm : Word) : Nat :=
  if ty = 3 then (imm.signExtend 64).toNat
  else if ty = 8 then (toFp 8 0 false (decodeFp 9 imm.toNat)).1
  else if pairTy ty then imm.toNat
  else imm.toNat % 2 ^ tyBits ty

/-- The flags an immediate raises in a lane that takes it (R52). -/
def immFlags (f : VFmt) : Nat :=
  if f.i && f.ty = 8 then (decodeFp 9 f.imm.toNat).sig else 0

/-- The elements of the second source (R52, R138). -/
def Cx.vb (c : Cx) (f : VFmt) (l : Nat) : List Nat :=
  if f.i then List.replicate (elemCount f.ty.toNat) (immElem f.ty.toNat f.imm)
  else c.velems f.ty.toNat f.vb.toNat l

/-- One lane of a register written whole. -/
def laneTgt (l r : Nat) (x : Nat) : Tgt := .v l r 0xFFFFFFFF (BitVec.ofNat 32 x)

/-- One lane of a destination of type `ty` (R12, R137). -/
def vdTgts (ty r l x : Nat) : List Tgt :=
  if pairTy ty then [laneTgt l r (x % 2 ^ 32), laneTgt l (r + 1) (x / 2 ^ 32)] else [laneTgt l r x]

/-- Bits [lo+w-1:lo] of one lane of a register written, the others kept. -/
def partTgt (l r lo w x : Nat) : Tgt :=
  .v l r (BitVec.ofNat 32 ((2 ^ w - 1) <<< lo)) (BitVec.ofNat 32 ((x % 2 ^ w) <<< lo))

/-- Bit `l` of a mask register (R143). -/
def bitTgt (l r : Nat) (b : Bool) : Tgt :=
  .m (l / 4) r (1#4 <<< (l % 4)) (if b then 1#4 <<< (l % 4) else 0)

/-- An element as an integer, by type. -/
def elemInt (ty x : Nat) : Int := if ty < 4 then signedAt (tyBits ty) x else x

/-- A result for every element of a lane from the elements of va, vb, vc and the old vd: each with the flags it raises. -/
def Cx.vElems (c : Cx) (f : VFmt) (lat : Nat) (op : Nat → Nat → Nat → Nat → Nat × Nat) (s : State) : Res :=
  let ty := f.ty.toNat
  c.vec lat (fun l =>
    let a := c.velems ty f.va.toNat l
    let b := c.vb f l
    let cc := c.velems ty f.vc.toNat l
    let d := unpackN (tyBits ty) (elemCount ty) (c.dRaw ty f.vd.toNat l)
    let r := (List.range (elemCount ty)).map (fun i => op (a.getD i 0) (b.getD i 0) (cc.getD i 0) (d.getD i 0))
    { tgts := vdTgts ty f.vd.toNat l (packN (tyBits ty) (r.map (fun p => p.1)))
      flags := r.foldl (fun x p => x ||| p.2) (immFlags f)
      fmt := [] }) s

end Sys2Proof.Machine
end

