-- ==== Sys2Proof/Machine/Access.lean ====
section
/-! DEFINITION. The operand log (R183 to R187): taking an entry, the order in which its accesses may be performed (R173,
R174, R305), performing them (R167 to R172, R188), and their faults. -/
namespace Sys2Proof.Machine

/-- The ordering form of a logged access (R305): bit 0 acquire, bit 1 release, which RSIG makes (R447). -/
def LogEntry.ord (e : LogEntry) : Nat :=
  match e.ins.form with
  | some (op, _, .m f) => if op = 0x244 then 2 else f.ord.toNat
  | _ => 0

/-- The window a remote access names (R443). -/
def LogEntry.window (e : LogEntry) : Nat :=
  match e.ins.form with
  | some (_, _, .m f) => f.w.toNat
  | _ => 0

/-- Whether two entries' accesses reach one memory: one space, and one window of one peer (R173, R449). -/
def LogEntry.sameMem (e o : LogEntry) : Bool := e.space == o.space && e.peer == o.peer && e.window == o.window

/-- Whether two accesses touch a common byte. -/
def Acc.overlaps (a b : Acc) : Bool :=
  a.ea.toNat < b.ea.toNat + b.len && b.ea.toNat < a.ea.toNat + a.len

def Acc.waits (a : Acc) : Bool := a.st == AccSt.pending

/-- Whether no earlier entry holds off an access of entry `e`: no older access of the fragment to its bytes is outstanding
(R173, R174), and the acquires before it and its own release allow it (R305). -/
def Issuer.clearAhead (u : Issuer) (e : LogEntry) (a : Acc) : Bool :=
  u.log.all (fun p =>
    let o := p.2
    e.seq ≤ o.seq || o.dbg != e.dbg || (o.frag &&& e.frag) == 0
      || o.accs.all (fun b => !b.waits || !((o.sameMem e && a.overlaps b) || o.ord % 2 == 1 || 2 ≤ e.ord)))

/-- Whether access `i` of entry `e` may be performed now: as far as earlier entries go, and in lane order where lanes overlap (R173). -/
def Issuer.mayPerform (u : Issuer) (e : LogEntry) (i : Nat) (a : Acc) : Bool :=
  !((e.accs.take i).any (fun b => b.waits && a.overlaps b)) && u.clearAhead e a

/-- What is performed as one with an access: the reads of one load in one aligned 16-byte piece, which see a piece of a copy, a multicast,
a ZST or a ZEPI row whole or not at all (R289, R301; notes/assumptions 169: DEDUCED). -/
def LogEntry.together (e : LogEntry) (a : Acc) : List Acc :=
  if e.kind == AccKind.load then e.accs.filter (fun b => b.waits && b.ea.toNat / 16 = a.ea.toNat / 16) else [a]

/-- `extend` of R167 into a 32-bit or 64-bit lane. -/
def extendTo (w ty x : Nat) : Nat := if ty < 4 then wrapW w (signedAt (tyBits ty) x) else x % 2 ^ w

/-- The read-modify-write operations of R171: what memory becomes, and flags. -/
def atomOp (aop ty old v new : Nat) : Nat × Nat :=
  let w := tyBits ty
  if aop = 0 then (v, 0)
  else if aop = 1 then ((old + v) % 2 ^ w, 0)
  else if aop = 2 then (old &&& v, 0)
  else if aop = 3 then (old ||| v, 0)
  else if aop = 4 then (old ^^^ v, 0)
  else if aop = 5 then (if elemInt ty v < elemInt ty old then v else old, 0)
  else if aop = 6 then (if elemInt ty old < elemInt ty v then v else old, 0)
  else if aop = 8 then fAdd 9 0 (decodeFp 9 old) (decodeFp 9 v)
  else (if old = v then new else old, 0)

/-- What a load or atomic gives its lane or slices, for the value `x` read, with the flags of an atomic (R167, R169 to
R172). -/
def LogEntry.gives (e : LogEntry) (n : Nat) (a : Acc) (x flags : Nat) : List (Nat × Tgt) :=
  match e.ins.form with
  | some (op, _, .m f) =>
    let ty := f.ty.toNat
    let vt := f.vt.toNat
    let l := a.lane
    if op = 0x208 then
      a.slices.map (fun j => (j, Tgt.bind j f.q.toNat vt n (BitVec.ofNat 512 x) a.ea))
    else if op = 0x244 then
      a.slices.map (fun j => (j, Tgt.s j (f.vi.toNat % 64) (fieldAt 56 x)))
    else if op = 0x204 ∨ op = 0x207 then
      a.slices.map (fun j => (j, Tgt.s j (vt % 64) (BitVec.ofNat 64 (extendTo 64 ty x))))
    else if (op = 0x206 ∨ op = 0x242 ∨ op = 0x243) ∧ f.aop = 9 then
      (List.range 4).map (fun i => (l / 4, laneTgt l (vt + i) (x / 2 ^ (32 * i) % 2 ^ 32)))
    else
      (vdTgts ty vt l (extendTo (if pairTy ty then 64 else 32) ty x)).map (fun t => (l / 4, t))
        ++ (if flags = 0 then [] else [(l / 4, Tgt.fstat (l / 4) (BitVec.ofNat 6 flags))])
  | _ => []

/-- The elements of the committed value, for the load-value sieves (R266): one, or the two halves of a 128-bit value. -/
def LogEntry.loaded (e : LogEntry) (a : Acc) (x : Nat) : Option LoadInfo :=
  match e.ins.form with
  | some (op, _, .m f) =>
    if op = 0x208 ∨ op = 0x244 then none
    else
      let vals := if a.len = 16 then [x % 2 ^ 64, x / 2 ^ 64] else [x % 2 ^ tyBits f.ty.toNat]
      let lanes := if e.uni then (a.slices.map (fun j => (List.range 4).map (fun i => 4 * j + i))).flatten else [a.lane]
      some { pc := e.pc, lmask := 0, mask := 0, inh := false, addrs := [], stored := [], elems := lanes.map (fun l => (l, vals)), width := tyBits f.ty.toNat }
  | _ => none

/-- An entry of the log changed by `f`. -/
def Issuer.updLog (u : Issuer) (n : Nat) (f : LogEntry → LogEntry) : Issuer :=
  match u.log.find n with
  | none => u
  | some e => { u with log := u.log.put n (f e) }

/-- Access `i` of an entry has a new state. -/
def LogEntry.setSt (e : LogEntry) (i : Nat) (st : AccSt) : LogEntry :=
  { e with accs := e.accs.mapIdx (fun k a => if k = i then { a with st := st } else a) }

/-- A lane of a logged access fails with a non-replayable fault: marked, and logged by the die (R185, R187, R390). -/
def State.failAcc (s : State) (core g n i : Nat) (ctx : Nat) (a : Acc) (cause : Nat) : State :=
  (s.updIssuer (.gang core g) (fun u => u.updLog n (fun e => e.setSt i (.failed cause)))).logDie (core / 64) a.ea.toNat ctx 0
    1 cause

/-- Where an access of a gang goes: the place of its first byte in the flat memory, with the key a package access is made
under (R164, R380, R405). -/
def State.locate (s : State) (core ctx space kind : Nat) (ea : BitVec 64) : Attempt (Nat × Option Nat) :=
  if space = 4 then
    match s.translate (core / 64) ctx ea.toNat kind with
    | .ok pa => .ok (pa, some (s.keyOf ctx))
    | .wait => .wait
    | .bad c => .bad c
  else
    match flatOf (some core) (some (core / 8)) (core / 64) space ea.toNat with
    | some k => .ok (k, none)
    | none => .bad 0x11

/-- Bytes at a located place; a store to it. -/
def State.readAt (s : State) (p : Nat × Option Nat) (n : Nat) : List Byte :=
  match p.2 with
  | some key => s.pkgRead key p.1 n
  | none => s.mem.read p.1 n
def State.writeAt (s : State) (p : Nat × Option Nat) (bs : List Byte) : State :=
  match p.2 with
  | some key => s.pkgStore key p.1 bs
  | none => s.storeFlat p.1 bs

/-- Whether the performed accesses of an entry together cover the 64-byte granule of address `ea` (R188). -/
def LogEntry.covers (e : LogEntry) (ea : BitVec 64) : Bool :=
  (List.range 64).all (fun i => e.accs.any (fun a =>
    a.st == AccSt.done && a.ea.toNat ≤ ea.toNat / 64 * 64 + i && ea.toNat / 64 * 64 + i < a.ea.toNat + a.len))

/-- The access kind of an entry for translation (R384). -/
def AccKind.code : AccKind → Nat
  | .load => kRead
  | .store => kWrite
  | .atomic => kAtomic
  | .ladle => kRead

/-- Whether a store has to wait for an image that an earlier LAUNCH or ARM of its fragment has yet to read (R173, R335). -/
def State.imageHolds (s : State) (w : Who) (e : LogEntry) (a : Acc) : Bool :=
  let hit := fun (frag : BitVec 8) (dbg : Bool) (seq space : Nat) (addr : Dword) =>
    e.space = space && seq ≤ e.seq && (frag &&& e.frag) != 0 && dbg == e.dbg
      && addr.toNat < a.ea.toNat + a.len && a.ea.toNat < addr.toNat + 64
  (e.kind == AccKind.store || e.kind == AccKind.atomic)
    && (s.inserts.any (fun p => p.img.isNone && p.isOf w && hit p.frag p.dbg p.seq p.space p.addr)
      || s.pendArms.any (fun p => !p.stalled && p.isOf w && hit p.frag p.dbg p.seq p.space p.addr))

/-- Whether an earlier store or atomic of a fragment of `w` has yet to be performed: what an insertion of that fragment releases, and
the bytes its image is read from (R173, R292, R303, R335). -/
def State.storesAhead (s : State) (w : Who) (frag : BitVec 8) (dbg : Bool) (seq : Nat) : Bool :=
  match s.issuer w with
  | none => false
  | some u => u.log.any (fun p =>
      let e := p.2
      e.seq < seq && (frag &&& e.frag) != 0 && dbg == e.dbg && (e.kind == AccKind.store || e.kind == AccKind.atomic)
        && e.accs.any Acc.waits)

/-- The fault an access meets by its address alone (R165, R374), ALIGN before BOUNDS; also where it is performed again (R186). -/
def State.addrBad (s : State) (core ctx space len : Nat) (ea : BitVec 64) : Option Nat :=
  if ea.toNat % len ≠ 0 then some 0x10
  else if spaceSize space < ea.toNat + len then some 0x11
  else if space = 3 && (match (s.die (core / 64)).owner with
    | none => false
    | some o => o != ctx) then some 0x11
  else none

/-- A first access to die space makes the context the owner of an unowned die (R374), whose barriers start at their reset values
(R379). -/
def State.claimDie (s : State) (d ctx : Nat) : State :=
  match (s.die d).owner with
  | some _ => s
  | none => { s.updDie d (fun e => { e with owner := some ctx, forCtx := none }) with bars := s.bars.filter (fun p => match p.1 with
      | .die n _ => n != d && n != d + 4 * (ctx + 1)
      | _ => true) }

/-- Access `i` of log entry `n` of a gang is performed, waits, or fails (R167 to R173, R183, R184, R188). -/
def State.performAcc (s : State) (core g n i : Nat) : State :=
  let w := Who.gang core g
  match s.issuer w with
  | none => s
  | some u =>
    match u.log.find n with
    | none => s
    | some e =>
      match e.accs[i]? with
      | none => s
      | some a =>
        if 256 ≤ core || !a.waits || !(u.mayPerform e i a) || s.imageHolds w e a then s
        else match s.addrBad core u.ctx e.space a.len a.ea with
        | some c => s.failAcc core g n i u.ctx a c
        | none =>
          let s := if e.space = 3 then s.claimDie (core / 64) u.ctx else s
          match s.locate core u.ctx e.space e.kind.code a.ea with
          | .wait => s
          | .bad c => s.failAcc core g n i u.ctx a c
          | .ok p =>
            let done := fun (s : State) => s.updIssuer w (fun u => u.updLog n (fun e => e.setSt i .done))
            let give := fun (s : State) (ts : List (Nat × Tgt)) (ld : Option LoadInfo) =>
              s.updIssuer w (fun u => a.slices.foldl (fun u j =>
                u.complete e.tag j (ts.filterMap (fun t => if t.1 = j then some t.2 else none)) false
                  (ld.map (fun x => { x with elems := x.elems.filter (fun q => q.1 / 4 = j) }))) u)
            match e.kind with
            | .store =>
              let s := done (s.writeAt p (bytesOf a.data a.len))
              if (e.setSt i .done).covers a.ea then s.clearPoison (p.1 / 64 * 64) 64 else s
            | .load =>
              if s.poisoned p.1 a.len then s.failAcc core g n i u.ctx a 0x13
              else
                let x := ofBytes (s.readAt p a.len)
                give (done s) (e.gives n a x 0) (e.loaded a x)
            | .ladle =>
              if s.poisoned p.1 a.len then s.failAcc core g n i u.ctx a 0x13
              else give (done s) (e.gives n a (ofBytes (s.readAt p a.len)) 0) none
            | .atomic =>
              if s.poisoned p.1 a.len then s.failAcc core g n i u.ctx a 0x13
              else
                match e.ins.form with
                | some (_, _, .m f) =>
                  let old := ofBytes (s.readAt p a.len)
                  let r := atomOp f.aop.toNat f.ty.toNat old a.data a.data2
                  give (done (s.writeAt p (bytesOf r.1 a.len))) (e.gives n a old r.2) (e.loaded a old)
                | _ => s

/-- Whether ACCESS_RETURN performs an access: its lane is named, or that of one performed with it, and nothing holds any of them off. -/
def Issuer.returns (u : Issuer) (e : LogEntry) (lanes : BitVec 32) (a : Acc) : Bool :=
  (e.together a).any (fun b => lanes.getLsbD b.lane) && (e.together a).all (u.clearAhead e)

/-- ACCESS_RETURN (R183): accesses of an entry, those of the lanes named, are performed in lane order as far as they may be. -/
def State.returnEntry (s : State) (core g n : Nat) (lanes : BitVec 32) : State :=
  match s.issuer (.gang core g) with
  | none => s
  | some u =>
    match u.log.find n with
    | none => s
    | some e =>
      if e.space = 5 then s
      else
        let s := (List.range e.accs.length).foldl (fun s i =>
          if (e.accs[i]?).any (u.returns e lanes) then s.performAcc core g n i else s) s
        s.updIssuer (.gang core g) (fun u => u.settle n)

/-- The lowest free log entry, of sixteen (R183). -/
def Issuer.freeLog (u : Issuer) : Option Nat := (List.range 16).find? (fun n => (u.log.find n).isNone)

/-- The wait of an access that finds every entry in use (R183). -/
def State.logFull (s : State) (w : Who) (u : Issuer) : Why :=
  if u.log.all (fun p => s.entryParked w p.1 p.2) then .faultParked else .queueFull

/-- Whether a lane that makes an access presents its events: not where its access faults as memory stands (R266). -/
def State.sound (s : State) (core ctx space : Nat) (kind : AccKind) (a : Acc) : Bool :=
  a.waits && (match s.locate core ctx space kind.code a.ea with
    | .wait => true
    | .bad _ => false
    | .ok p => kind == AccKind.store || !(s.poisoned p.1 a.len))

/-- The data an access writes, for the store-value sieves: the new value of a compare-and-swap, else its operand (R266). -/
def Acc.written (i : Instr) (a : Acc) : Nat :=
  match i.form with
  | some (op, _, .m f) => if (op = 0x206 ∨ op = 0x207) ∧ (f.aop = 7 ∨ f.aop = 9) then a.data2 else a.data
  | _ => a.data

/-- One access per lane or group of slices is entered in the log (R183), with its events (R266): the instruction takes an
entry only if it makes an access, and stalls where none is free. -/
def Cx.access (c : Cx) (i : Instr) (kind : AccKind) (space width : Nat) (uni : Bool) (accs : List Acc) (s : State) : Res :=
  match c.who with
  | .gang core _ =>
    if accs.isEmpty then .ok s
    else
      match c.u.freeLog with
      | none => .stall (s.logFull c.who c.u) s
      | some n =>
        let bad := accs.map (fun a => { a with st := match s.addrBad core c.u.ctx space a.len a.ea with
          | none => AccSt.pending
          | some k => AccSt.failed k })
        let good := bad.filter (fun a => s.sound core c.u.ctx space kind a)
        let lanesOfAcc := fun (a : Acc) =>
          if uni then (a.slices.map (fun j => ((List.range 4).map (fun i => 4 * j + i)).filter
            (fun l => c.fr.lmask.getLsbD l))).flatten else [a.lane]
        let addrs := (good.map (fun a => (lanesOfAcc a).map (fun l =>
          { lane := l, space := space, ea := a.ea, len := a.len, rd := kind != AccKind.store,
            wr := kind == AccKind.store || kind == AccKind.atomic : AccEv }))).flatten
        let vals := if kind == AccKind.store || kind == AccKind.atomic then
            (good.map (fun a => (lanesOfAcc a).map (fun l =>
              let v := a.written i
              { kind := 2, lane := l, vals := if a.len = 16 then [v % 2 ^ 64, v / 2 ^ 64] else [v], width := width : ValEv }))).flatten
          else []
        let s := if space = 3 && bad.any (fun a => a.waits) then s.claimDie (core / 64) c.u.ctx else s
        let st := if kind == AccKind.store then (s, 0) else c.async .memory s
        let lanes := if uni then lanesOf c.pass else BitVec.ofNat 32 (maskOf c.act)
        let e : LogEntry :=
          { ins := i, pc := c.cur.at_, smask := c.passMask, frag := BitVec.ofNat 8 (maskOf c.slices), lanes := lanes, act := c.u.active c.fr, uni := uni, kind := kind,
            space := space, accs := bad, tag := st.2, seq := c.u.logSeq, old := false, dbg := c.fr.isDbg, peer := none }
        let info := fun (j : Nat) =>
          { pc := c.cur.at_, lmask := c.fr.lmask, mask := c.u.active c.fr, inh := c.u.inh,
            addrs := addrs.filter (fun a => a.lane / 4 = j), stored := vals.filter (fun v => v.lane / 4 = j), elems := [],
            width := width : LoadInfo }
        let s := st.1.updIssuer c.who (fun u =>
          let u := { u with log := u.log.put n e, logSeq := u.logSeq + 1 }
          let note := fun (f : Flight) =>
            if f.tag = st.2 && f.kind == FlightKind.memory then
              (if kind == AccKind.ladle then { f with src := some e } else { f with load := some (info f.slice) })
            else f
          let u := if kind == AccKind.store then u else { u with flights := u.flights.map note }
          u.settle n)
        let s := bad.foldl (fun s a => match a.st with
          | .failed k => s.logDie (core / 64) a.ea.toNat c.u.ctx 0 1 k
          | .pending => s
          | .done => s
          | .dropped => s) s
        .ok (c.events addrs vals s)
  | .stream _ _ => .ok s
  | .clusterSeq _ => .ok s
  | .dieSeq _ => .ok s
  | .packageSeq => .ok s

end Sys2Proof.Machine
end

