-- ==== Sys2Proof/Machine/Mem.lean ====
section
/-! DEFINITION. Gang memory: group 8 (R164 to R181, R190), and the events that return an access and fetch a ladle's
element. -/
namespace Sys2Proof.Machine

/-- The effective address of lane `l` (R165), `off` being its lane offset. -/
def Cx.ea (c : Cx) (f : MFmt) (l off : Nat) : BitVec 64 :=
  c.s f.sb (l / 4) + f.disp.signExtend 64 + (if f.x then (c.v1 f.vi.toNat l).signExtend 64 else 0) + BitVec.ofNat 64 off

/-- Bytes of an element. -/
def MFmt.bytes (ty : Nat) : Nat := tyBits ty / 8

/-- The access of a lane. -/
def Acc.lane1 (l len : Nat) (ea : BitVec 64) (data data2 : Nat) : Acc :=
  { lane := l, slices := [l / 4], ea := ea, len := len, data := data, data2 := data2, st := .pending }

/-- One access per active lane (R167): element i at lane offset b × i, or at its index. -/
def Cx.laneAccs (c : Cx) (f : MFmt) (len : Nat) (data : Nat → Nat × Nat) : List Acc :=
  c.act.map (fun l => Acc.lane1 l len (c.ea f l (if f.x then 0 else len * l)) (data l).1 (data l).2)

/-- Items that agree, grouped, each group with its members in order. -/
def groupBy {κ : Type} [DecidableEq κ] : List (Nat × κ) → List (κ × List Nat)
  | [] => []
  | (j, k) :: r => 
    match (groupBy r).find? (fun p => p.1 = k) with
    | some p => (k, j :: p.2) :: (groupBy r).filter (fun q => q.1 ≠ k)
    | none => (k, [j]) :: groupBy r

/-- One access for each group of slices that agree on address and data, by lowest slice (R169). -/
def Cx.sliceAccs (c : Cx) (f : MFmt) (len : Nat) (data : Nat → Nat × Nat) : List Acc :=
  (groupBy (c.pass.map (fun j => (j, c.s f.sb j + f.disp.signExtend 64, data j)))).map (fun p =>
    { lane := 4 * p.2.headD 0, slices := p.2, ea := p.1.1, len := len, data := p.1.2.1, data2 := p.1.2.2, st := .pending })

/-- A vector load (R167, R168). -/
def vLoad (i : Instr) (f : MFmt) (c : Cx) (s : State) : Res :=
  let ty := f.ty.toNat
  c.access i .load f.space.toNat (tyBits ty) false (c.laneAccs f (tyBits ty / 8) (fun _ => (0, 0))) s

/-- A vector store (R167, R168). -/
def vStore (i : Instr) (f : MFmt) (c : Cx) (s : State) : Res :=
  let ty := f.ty.toNat
  c.access i .store f.space.toNat (tyBits ty) false
    (c.laneAccs f (tyBits ty / 8) (fun l => (c.vraw ty f.vt.toNat l % 2 ^ tyBits ty, 0))) s

def execVld (h : Hdr) (f : MFmt) (s : State) : Host.Outcome State Fault Refusal := issue (.vld h f) h (vLoad (.vld h f) f) s
def execVst (h : Hdr) (f : MFmt) (s : State) : Host.Outcome State Fault Refusal := issue (.vst h f) h (vStore (.vst h f) f) s
def execVldx (h : Hdr) (f : MFmt) (s : State) : Host.Outcome State Fault Refusal := issue (.vldx h f) h (vLoad (.vldx h f) f) s
def execVstx (h : Hdr) (f : MFmt) (s : State) : Host.Outcome State Fault Refusal := issue (.vstx h f) h (vStore (.vstx h f) f) s
def execFld (h : Hdr) (f : MFmt) (s : State) : Host.Outcome State Fault Refusal := issue (.fld h f) h (vLoad (.fld h f) f) s
def execFst (h : Hdr) (f : MFmt) (s : State) : Host.Outcome State Fault Refusal := issue (.fst h f) h (vStore (.fst h f) f) s

/-- SLD (R169). -/
def execSld (h : Hdr) (f : MFmt) (s : State) : Host.Outcome State Fault Refusal :=
  issue (.sld h f) h (fun c s =>
    c.access (.sld h f) .load f.space.toNat (tyBits f.ty.toNat) true
      (c.sliceAccs f (tyBits f.ty.toNat / 8) (fun _ => (0, 0))) s) s

/-- SST (R169): slices agree where their data agrees in the low bits that the type has (notes/assumptions 148: DEDUCED). -/
def execSst (h : Hdr) (f : MFmt) (s : State) : Host.Outcome State Fault Refusal :=
  issue (.sst h f) h (fun c s =>
    let w := tyBits f.ty.toNat
    c.access (.sst h f) .store f.space.toNat w true
      (c.sliceAccs f (w / 8) (fun j => ((c.s (f.vt.setWidth 6) j).toNat % 2 ^ w, 0))) s) s

/-- The operands of an atomic in lane `l`: v or cmp, and new (R171). -/
def Cx.atomArgs (c : Cx) (f : MFmt) (l : Nat) : Nat × Nat :=
  let ty := f.ty.toNat
  let vt := f.vt.toNat
  if f.aop = 9 then
    ((c.v2 vt l).toNat + 2 ^ 64 * (c.v2 (vt + 2) l).toNat, (c.v2 (vt + 4) l).toNat + 2 ^ 64 * (c.v2 (vt + 6) l).toNat)
  else if f.aop = 7 then
    (if pairTy ty then ((c.v2 vt l).toNat, (c.v2 (vt + 2) l).toNat) else ((c.v1 vt l).toNat, (c.v1 (vt + 1) l).toNat))
  else (c.vraw ty vt l, 0)

/-- The size of an atomic's access (R165, R171). -/
def atomLen (f : MFmt) : Nat := if f.aop = 9 then 16 else tyBits f.ty.toNat / 8

/-- VATOM (R170, R171). -/
def execVatom (h : Hdr) (f : MFmt) (s : State) : Host.Outcome State Fault Refusal :=
  issue (.vatom h f) h (fun c s =>
    c.access (.vatom h f) .atomic f.space.toNat (tyBits f.ty.toNat) false (c.laneAccs f (atomLen f) (c.atomArgs f)) s) s

/-- SATOM (R170, R171): slices agree where their operands agree in the low bits that the type has (notes/assumptions 148: DEDUCED). -/
def execSatom (h : Hdr) (f : MFmt) (s : State) : Host.Outcome State Fault Refusal :=
  issue (.satom h f) h (fun c s =>
    let w := tyBits f.ty.toNat
    let r : BitVec 6 := f.vt.setWidth 6
    let arg := fun (r : BitVec 6) (j : Nat) => (c.s r j).toNat % 2 ^ w
    c.access (.satom h f) .atomic f.space.toNat w true
      (c.sliceAccs f (w / 8) (fun j => (arg r j, if f.aop = 7 then arg (r + 1) j else 0))) s) s

/-- LADLE (R176): the descriptor is read as a load, one for each group of slices that name the same one. -/
def execLadle (h : Hdr) (f : MFmt) (s : State) : Host.Outcome State Fault Refusal :=
  issue (.ladle h f) h (fun c s =>
    c.access (.ladle h f) .ladle f.space.toNat 64 true (c.sliceAccs f 64 (fun _ => (0, 0))) s) s

/-- Whether a log entry is a LADLE's that binds ladle `q`. -/
def LogEntry.bindsTo (e : LogEntry) (q : Nat) : Bool :=
  match e.ins with
  | .ladle _ f => f.q.toNat = q
  | _ => false

/-- A binding of ladle `q` still waiting for its marker is cancelled in the slices `js`, also one that a trap has set aside (R180),
and a fault of its descriptor read with it (notes/assumptions 165: DEDUCED). -/
def Issuer.cancelBind (u : Issuer) (q : Nat) (js : List Nat) : Issuer :=
  let cutFlight := fun (f : Flight) =>
    if f.src.any (fun e => e.bindsTo q) && js.contains f.slice then { f with tgts := [], ready := true } else f
  let cut := fun (a : Acc) =>
    let left := a.slices.filter (fun j => !(js.contains j))
    { a with slices := left, st := if left.isEmpty then .dropped else a.st }
  let u := { u with
    flights := u.flights.map cutFlight
    saved := u.saved.map (fun (v : TrapSave) => { v with flights := v.flights.map cutFlight }) }
  u.log.foldl (fun (u : Issuer) (p : Nat × LogEntry) =>
    let e := { p.2 with accs := p.2.accs.map cut, smask := p.2.smask &&& ~~~(BitVec.ofNat 8 (maskOf js)) }
    if p.2.bindsTo q then { u with log := u.log.put p.1 e }.settle p.1 else u) u

/-- LDRAIN (R180). -/
def execLdrain (h : Hdr) (f : MFmt) (s : State) : Host.Outcome State Fault Refusal :=
  issue (.ldrain h f) h (fun c s =>
    .ok (s.updIssuer c.who (fun u =>
      let u := { u with ladles := c.pass.foldl (fun t j => t.drop (8 * f.q.toNat + j)) u.ladles }
      u.cancelBind f.q.toNat c.pass))) s

/-- PREF (R190): the die may ignore it, and nothing else observes it. -/
def execPref (h : Hdr) (f : MFmt) (s : State) : Host.Outcome State Fault Refusal := issue (.pref h f) h (fun _ s => .ok s) s

/-- A ladle `n` advances further on in its walk, if the walk has such an element (R178). -/
def Ladle.ahead (l : Ladle) : Nat → Option Ladle
  | 0 => if l.exhausted then none else some l
  | n + 1 =>
    match l.ahead n with
    | none => none
    | some k =>
      let r := stepIdx k.idx k.dims
      if r.2.2 && !l.wrap then none else some { k with idx := r.1 }

/-- What one lane's fetch gives (R179): a value, a fault, or a wait. -/
def State.fetchLane (s : State) (core ctx : Nat) (l : Ladle) (lane : Nat) : Attempt (BitVec 64) :=
  let len := tyBits l.ty / 8
  let a := l.addr lane
  match s.addrBad core ctx l.space len a with
  | some k => .bad k
  | none =>
    match s.locate core ctx l.space kRead a with
    | .wait => .wait
    | .bad k => .bad k
    | .ok p =>
      if s.poisoned p.1 len then .bad 0x13
      else .ok (BitVec.ofNat 64 (extendTo (if pairTy l.ty then 64 else 32) l.ty (ofBytes (s.readAt p len))))

/-- What is known of lanes of an element joins the element (R179). -/
def Ladle.gain (l : Ladle) (n : Nat) (vals : List (Nat × BitVec 64)) (bad : List (Nat × Nat)) : Ladle :=
  match l.got.find? (fun e => e.ahead = n) with
  | none => { l with got := { ahead := n, vals := vals, bad := bad } :: l.got }
  | some _ => { l with got := l.got.map (fun e =>
      if e.ahead = n then { e with vals := e.vals ++ vals, bad := e.bad ++ bad } else e) }

/-- The lanes of a slice that an element has nothing of yet. -/
def Ladle.open_ (l : Ladle) (slice n : Nat) : List Nat :=
  ((List.range 4).map (fun i => 4 * slice + i)).filter (fun x => !(l.got.any (fun e => e.ahead = n && e.has x)))

/-- LADLE_FETCH (R179): the element `ahead` advances on is fetched for the lanes of its slice; those that wait for a translation
come later. The ladles of a block that is to be saved stop at once (R316). -/
def execLadleFetch (core gid slice q ahead : Nat) (s : State) : Host.Outcome State Fault Refusal :=
  let w := Who.gang core gid
  match s.issuer w with
  | none => .next s
  | some u =>
    match u.ladles.find (8 * q + slice) with
    | none => .next s
    | some l =>
      match l.ahead ahead with
      | none => .next s
      | some k =>
        let got := (l.open_ slice ahead).map (fun x => (x, s.fetchLane core u.ctx k x))
        if 256 ≤ core || s.stoppedAt core u.blk || got.all (fun p => p.2 == Attempt.wait) then .next s
        else
          let vals := got.filterMap (fun p => match p.2 with
            | .ok v => some (p.1, v)
            | .wait => none
            | .bad _ => none)
          let bad := got.filterMap (fun p => match p.2 with
            | .bad c => some (p.1, c)
            | .wait => none
            | .ok _ => none)
          let s := if l.space = 3 then s.claimDie (core / 64) u.ctx else s
          let s := bad.foldl (fun s b => s.logDie (core / 64) (k.addr b.1).toNat u.ctx 1 1 b.2) s
          .next (s.updIssuer w (fun u => { u with ladles := u.ladles.put (8 * q + slice) (l.gain ahead vals bad) }))

end Sys2Proof.Machine
end

