-- ==== Sys2Proof/Machine/Block.lean ====
section
/-! DEFINITION. The core's own synchronisation: kernel headers (R192), the register pool (R101, R102, R198 to R200), forking and
joining gangs (R197 to R201), barriers (R203 to R207, R360, R379, R413), FENCE (R296), bindings (R297, R298), PROG, CLOCK
and IDLE (R132 to R135). -/
namespace Sys2Proof.Machine

/-- Core and block slot of an issuer of a core. -/
def State.blockOf (s : State) : Who → Option (Nat × Nat)
  | .gang n g => ((s.core n).gangs.find g).map (fun u => (n, u.blk))
  | .stream n b => some (n, b)
  | .clusterSeq _ => none
  | .dieSeq _ => none
  | .packageSeq => none

/-- The resident block of a core's slot. -/
def State.block (s : State) (n b : Nat) : Option Block := (s.core n).blocks.find b

/-- The barriers the block of an issuer may use (R203). -/
def State.barCount (s : State) (w : Who) : Nat :=
  match s.blockOf w with
  | none => 0
  | some (n, b) => ((s.block n b).map (fun k => k.bars)).getD 0

/-- The context of an issuer. -/
def State.ctxBy (s : State) (w : Who) : Nat := ((s.issuer w).map (fun u => u.ctx)).getD 0

/-- The barrier that a level and number name to an issuer (R203, R359, R379, R413). -/
def State.barKey (s : State) (w : Who) (lvl n : Nat) : BarKey :=
  if lvl = 1 then
    match s.blockOf w with
    | some (c, b) => .block c b n
    | none => .package n
  else if lvl = 2 then .cluster (w.cluster?.getD 0) n
  else if lvl = 3 then s.dieBar w.die (s.ctxBy w) n
  else .package n

-- kernel headers

/-- A kernel header (R192). -/
structure Header where
  entry : Pc
  regs : Nat
  bars : Nat
  array : Bool
  deriving DecidableEq, Repr

/-- A PC from a 64-bit value: one whose bits [63:57] are not zero keeps failing the checks of R44. -/
def pcOf (d : Dword) : Pc := if bitsAt d 57 7 = 0 then d.setWidth 57 else d.setWidth 57 ||| 7

/-- The header in 32 bytes, or none where it is malformed for the levels that suit (R192). -/
def Header.ofBytes (bs : List Byte) (levels : List Nat) : Option Header :=
  let b := fun (i : Nat) => (bs.getD i 0).toNat
  if (bs.drop 13).any (fun x => x != 0) || 1 < b 12 || b 8 = 0 || 32 < b 8 || 8 < b 9 || 16 < b 10
      || !(levels.contains (b 11)) then none
  else some { entry := pcOf (BitVec.ofNat 64 (Sys2Proof.ofBytes (bs.take 8))), regs := b 8, bars := b 10, array := b 12 = 1 }

/-- The read of a kernel header: a read of 32 aligned bytes of package memory in the context (R192, R380). -/
def State.readHeader (s : State) (d ctx : Nat) (a : Dword) : Attempt (List Byte) :=
  if bitsAt a 57 7 ≠ 0 then .bad 0x11
  else if a.toNat % 32 ≠ 0 then .bad 0x10
  else s.virtRead d ctx a.toNat 32 kRead

/-- Whether a header read of an issuer waits for the host (R387). -/
def State.headerParked (s : State) (w : Who) : Bool := s.inFaults w.die (fun r => r = .header w)

-- the register pool

/-- Free vector registers of a core (R100), and its free gang slots (R191). -/
def Core.freeRegs (c : Core) : Nat := Config.poolRegs - 8 * (c.gangs.map (fun p => if p.1 < 32 then p.2.alloc else 0)).sum
def Core.freeGids (c : Core) : List Nat := (List.range 32).filter (fun g => !(c.gangs.any (fun p => p.1 = g)))

/-- Whether a pool request can be granted now (R102, R198). -/
def Core.fits (c : Core) (q : PoolReq) : Bool :=
  if q.n = 0 then q.regs ≤ c.freeRegs else q.n * q.regs ≤ c.freeRegs && q.n ≤ c.freeGids.length

/-- The live gangs of a block. -/
def Core.gangsOf (c : Core) (b : Nat) : List (Nat × Issuer) := c.gangs.filter (fun p => p.1 < 32 && p.2.blk = b)

/-- Whether a gang of the block, of a join group that `p` holds of, has ended at once (R127) with a store or atomic yet to be performed: it
retires only after it (R303). -/
def Core.leaving (c : Core) (b : Nat) (p : Nat → Bool) : Bool :=
  c.gangs.any (fun g => 32 ≤ g.1 && g.2.blk = b && p g.2.group && g.2.log.any (fun e =>
    (e.2.kind == AccKind.store || e.2.kind == AccKind.atomic) && e.2.accs.any (fun a => a.st == AccSt.pending)))

/-- The fragment that waits for pool request `id` waits otherwise now, also where a trap has set its table aside. -/
def Issuer.setPool (u : Issuer) (id : Nat) (x : Wait) : Issuer :=
  let go := fun (t : Tab Nat Frag) => t.map (fun p =>
    let here := fun (y : Wait) => if y = .pool id then x else y
    if p.2.wait = .pool id || p.2.wait2 = .pool id then
      (p.1, { p.2 with wait := here p.2.wait, wait2 := here p.2.wait2, st := if p.2.st == FragSt.blocked then .eligible else p.2.st })
    else p)
  { u with frags := go u.frags, saved := u.saved.map (fun v => { v with frags := go v.frags }) }

/-- Request `id` leaves the pool queue of a core. -/
def State.dropPool (s : State) (n id : Nat) : State :=
  s.updCore n (fun c => { c with poolQ := c.poolQ.filter (fun q => q.id != id) })

/-- Whether no older request waits at the pool than one that `w` makes now (R101, R198, R200). -/
def State.noneOlder (s : State) (n : Nat) (w : Who) : Bool := (s.core n).poolQ.all (fun q => s.rankNow w < q.rank)

/-- A request is granted at once: an older one that the same cycle could still issue waits for the next cycle (R200). -/
def State.noteTaken (s : State) (n : Nat) (w : Who) : State := s.updCore n (fun c => { c with poolTaken := s.rankNow w })

/-- A request that has waited is granted: of this cycle's it holds off an older one that is still to issue, as one granted at once does
(R200). -/
def State.noteGranted (s : State) (n : Nat) (q : PoolReq) : State := s.updCore n (fun c => { c with poolTaken := max c.poolTaken q.rank })

/-- A request joins the queue of its core, the oldest first (R102, R200). -/
def Core.joinPool (c : Core) (q : PoolReq) : List PoolReq :=
  c.poolQ.takeWhile (fun p => p.rank ≤ q.rank) ++ q :: c.poolQ.dropWhile (fun p => p.rank ≤ q.rank)

/-- A request joins the queue, and its fragment waits (R102, R200). -/
def Cx.askPool (c : Cx) (n regs gangs : Nat) (start : Pc) (s : State) : Res :=
  let id := s.nextId
  let q := { id := id, who := c.who, entry := c.entry, regs := regs, n := gangs, cycle := s.cycles, start := start : PoolReq }
  let s := { s with nextId := id + 1 }.updCore n (fun k => { k with poolQ := k.joinPool q })
  .stall .grow (s.setWait c.who c.entry (.pool id))

/-- Whether request `id` is the oldest of its core, and fits. -/
def Core.headFits (c : Core) (id : Nat) : Bool :=
  match c.poolQ with
  | [] => false
  | q :: _ => q.id = id && c.fits q

/-- GROW's outcome (R101): the flag in the slices of the fragment, one step later. -/
def Cx.grown (c : Cx) (f : DFmt) (b : Bool) (s : State) : Res :=
  .ok (c.fixed 1 (c.pass.map (fun j => (j, Tgt.c j (f.sd.toNat % 16) b))) s)

/-- GROW (R101 to R103, R134). -/
def execGrow (h : Hdr) (f : DFmt) (s : State) : Host.Outcome State Fault Refusal :=
  issue (.grow h f) h (fun c s =>
    let n := bitsAt f.imm 0 6
    match c.who with
    | .gang core _ =>
      let k := s.core core
      let take := fun (s : State) => s.updIssuer c.who (fun u => { u with alloc := u.alloc + n })
      match c.fr.wait with
      | .poolDone b _ => c.grown f b s
      | .pool id =>
        (match k.poolQ.find? (fun q => q.id = id) with
          | none => .stall .grow s
          | some q =>
            if !k.headFits id then .stall .grow s
            else if 32 < c.u.alloc + n then c.grown f false (s.dropPool core id)
            else c.grown f true (take ((s.dropPool core id).noteGranted core q)))
      | _ =>
        if n = 0 then c.grown f true s
        else if 32 < c.u.alloc + n then c.grown f false s
        else if s.noneOlder core c.who && 8 * n ≤ k.freeRegs then c.grown f true (take (s.noteTaken core c.who))
        else c.askPool core (8 * n) 0 0 s
    | .stream _ _ => .ok s
    | .clusterSeq _ => .ok s
    | .dieSeq _ => .ok s
    | .packageSeq => .ok s) s

/-- SHRINK (R101, R134). -/
def execShrink (h : Hdr) (f : DFmt) (s : State) : Host.Outcome State Fault Refusal :=
  issue (.shrink h f) h (fun c s =>
    .ok (s.updIssuer c.who (fun u => u.shrunk (bitsAt f.imm 0 6)))) s

/-- POOL_GRANT (R102, R200): the oldest waiting request, where it fits, is granted: a GROW has its registers, a launch
keeps its place until it issues. -/
def execPoolGrant (core : Nat) (s : State) : Host.Outcome State Fault Refusal :=
  let k := s.core core
  match k.poolQ with
  | [] => .next s
  | q :: _ =>
    if !(k.fits q) then .next s
    else if q.n = 0 then
      let fit := match s.issuer q.who with
        | none => false
        | some u => decide (u.alloc + q.regs / 8 ≤ 32)
      let s := if fit then s.noteGranted core q else s
      .next ((s.dropPool core q.id).updIssuer q.who (fun u =>
        { u.setPool q.id (.poolDone fit 0) with alloc := if fit then u.alloc + q.regs / 8 else u.alloc }))
    else .next (s.updIssuer q.who (fun u => u.updFrag q.entry (fun f =>
      if (f.wait = .pool q.id || f.wait2 = .pool q.id) && f.st == FragSt.blocked then { f with st := .eligible } else f)))

/-- Whether a gang is GROW-blocked (R102). -/
def Issuer.growBlocked (u : Issuer) : Bool :=
  let fs := (u.frags.filter (fun p => p.1 < 8 && p.2.st != FragSt.free)).map (fun p => p.2)
  let grow := fun (f : Frag) => f.st == FragSt.blocked && f.why == Why.grow
  fs.all (fun f => grow f || f.st == FragSt.parked) && fs.any grow

/-- GROW_FAIL (R102): where every resident gang is GROW-blocked and nothing can be granted, the youngest request fails. -/
def execGrowFail (core : Nat) (s : State) : Host.Outcome State Fault Refusal :=
  let k := s.core core
  let gs := k.gangs.filter (fun p => p.1 < 32)
  if !(gs.all (fun p => p.2.growBlocked)) || (match k.poolQ with
    | [] => true
    | q :: _ => k.fits q) then .next s
  else
    match k.poolQ.foldl (fun (m : Option PoolReq) q => match m with
      | none => some q
      | some p => if p.rank < q.rank then some q else some p) none with
    | none => .next s
    | some q => .next ((s.dropPool core q.id).updIssuer q.who (fun u => u.setPool q.id (.poolDone false 0)))

-- forking and joining gangs

/-- A gang as a core-level launch starts it (R199). -/
def Issuer.forked (ctx blk alloc index group born : Nat) (m0 : Word) (sp : Dword) (entry : Pc) : Issuer :=
  { Issuer.fresh ctx 0 with
    alloc := alloc, blk := blk, index := index, group := group, born := born
    frags := [(0, Frag.fresh entry 0xFFFFFFFF 0xFF)]
    m := (List.range 8).map (fun j => (j, m0.extractLsb' (4 * j) 4))
    s := ((List.range 8).map (fun j => [(8 + j, sp), (16 + j, BitVec.ofNat 64 index), (32 + j, BitVec.ofNat 64 group)])).flatten }

/-- The launched gangs take the lowest free numbers (R199). -/
def State.fork (s : State) (core blk : Nat) (gs : List (Nat × Issuer)) : State :=
  s.updCore core (fun c => { c with gangs := c.gangs ++ gs.map (fun p => (p.1, { p.2 with blk := blk })) })

/-- The status of a core-level LAUNCH (R198). -/
def launchStatus (st : Nat) (gids : List Nat) : Dword := fieldAt 56 st ||| fieldAt 0 (maskOf gids)

/-- The gangs of a core-level LAUNCH: `units` of 8 registers each, from `start` (R199). -/
def Cx.launchGangs (c : Cx) (f : LFmt) (core blk units : Nat) (start : Pc) (s : State) : List Nat × State :=
  let n := bitsAt f.imm 0 5
  let gids := (s.core core).freeGids.take n
  let m0 : Word := if f.sk = 0 then 0xFFFFFFFF else (c.s f.sk 0).setWidth 32
  let gs := ((List.range n).zip gids).map (fun p =>
    let u := Issuer.forked c.u.ctx blk units p.1 (bitsAt f.imm 16 4) s.cycles m0 (c.s f.sp 0) start
    (p.2, { u with s := u.s ++ (List.range 8).map (fun j => (24 + j, BitVec.ofNat 64 n)) }))
  (gids, s.fork core blk gs)

/-- LAUNCH at core level (R197 to R200). One that waits in the pool queue has read its header (R198). -/
def launchCoreBody (f : LFmt) (c : Cx) (s : State) : Res :=
  match c.who with
  | .stream core blk =>
    let n := bitsAt f.imm 0 5
    let k := s.core core
    let done := fun (st : Nat) (gids : List Nat) (s : State) =>
      Res.ok (c.asyncNow (fun j => [.s j f.sd.toNat (launchStatus st gids)]) s)
    let launch := fun (units : Nat) (start : Pc) (s : State) =>
      let r := c.launchGangs f core blk units start s
      done 0 r.1 r.2
    match c.fr.wait with
    | .poolDone _ _ => done 4 [] s
    | .pool id =>
      (match k.poolQ.find? (fun q => q.id = id) with
        | none => done 4 [] s
        | some q =>
          if k.headFits id then launch (q.regs / 8) q.start ((s.dropPool core id).noteGranted core q) else .stall .grow s)
    | .denied => done 3 [] s
    | _ =>
      match s.readHeader c.who.die c.u.ctx (c.s f.se 0) with
      | .wait => .stall (if s.headerParked c.who then .faultParked else .fetch) s
      | .bad _ => done 3 [] s
      | .ok bs =>
        match Header.ofBytes bs [0, 6] with
        | none => done 3 [] s
        | some hd =>
          let units := if bitsAt f.imm 8 6 = 0 then hd.regs else bitsAt f.imm 8 6
          let regs := 8 * units
          if 16 < n + (k.gangsOf blk).length ∨ Config.poolRegs < n * regs then done 2 [] s
          else if s.noneOlder core c.who && n * regs ≤ k.freeRegs && n ≤ k.freeGids.length then
            launch units hd.entry (s.noteTaken core c.who)
          else if f.nb then done 1 [] s
          else c.askPool core regs n hd.entry s
  | .gang _ _ => .ok s
  | .clusterSeq _ => .ok s
  | .dieSeq _ => .ok s
  | .packageSeq => .ok s

/-- JOIN at core level (R201). -/
def joinCoreBody (f : LFmt) (c : Cx) (s : State) : Res :=
  match c.who with
  | .stream core blk =>
    let mask := bitsAt f.imm 0 16
    let named := fun (g : Nat) => mask = 0 || mask.testBit g
    if ((s.core core).gangsOf blk).any (fun p => named p.2.group) || (s.core core).leaving blk named then .stall .barrier s
    else
      let bad := match s.block core blk with
        | none => []
        | some k => (k.failed.filter (fun p => named p.2)).map (fun p => p.1)
      .ok (c.asyncNow (fun j => [.s j f.sd.toNat (launchStatus (if bad.isEmpty then 0 else 9) bad)]) s)
  | .gang _ _ => .ok s
  | .clusterSeq _ => .ok s
  | .dieSeq _ => .ok s
  | .packageSeq => .ok s

-- barriers

/-- The level and key of a barrier instruction, or its fault (R203). -/
def Cx.barOf (c : Cx) (f : LFmt) (s : State) : BarKey ⊕ TrapReq :=
  let lvl := (resolve c.u.level f.lvl.toNat).getD 1
  if lvl = 1 ∧ s.barCount c.who ≤ f.b.toNat then .inr (c.fault 0x42 1 0) else .inl (s.barKey c.who lvl f.b.toNat)

/-- The end of a wait (R207): the arrival is consumed, and cF receives ERR at the next marker. -/
def Cx.barDone (c : Cx) (k : BarKey) (f : LFmt) (err : Bool) (s : State) : Res :=
  .ok (c.asyncNow (fun j => [.c j f.cd.toNat err]) (s.dropArr k c.who c.pass))

/-- Whether a fragment has stores or atomics to bytes bound to a barrier yet to be performed: its arrival releases them (R292, R293,
R298). -/
def Cx.boundAhead (c : Cx) (lvl n : Nat) (s : State) : Bool :=
  let bs := (s.ctxOf c.u.ctx).bindings.filter (fun b => b.obj = .bar lvl n)
  (c.u.entriesOf c.slices c.fr.isDbg true).any (fun p =>
    (p.2.kind == AccKind.store || p.2.kind == AccKind.atomic) && p.2.accs.any (fun a =>
      a.waits && bs.any (fun b => b.space = p.2.space && a.ea.toNat < b.base + b.len && b.base < a.ea.toNat + a.len)))

/-- See `Cx.boundAhead`: the arrival of a barrier instruction waits for them. -/
def Cx.mustRelease (c : Cx) (f : LFmt) (s : State) : Bool :=
  c.boundAhead ((resolve c.u.level f.lvl.toNat).getD 1) f.b.toNat s

/-- BAR (R207, R292). -/
def execBar (h : Hdr) (f : LFmt) (s : State) : Host.Outcome State Fault Refusal :=
  issue (.bar h f) h (fun c s =>
    match c.barOf f s with
    | .inr t => .trap t s
    | .inl k =>
      let look := fun (s : State) => match s.waitEnded k c.who c.pass with
        | some e => c.barDone k f e s
        | none => .stall .barrier s
      if c.fr.wait = .arrived then look s
      else if c.mustRelease f s then .stall .memory s
      else if s.mustHold k c.who c.pass then .stall .barrier s
      else look ((s.setWait c.who c.entry .arrived).arrive k c.who c.pass c.u.liveSlices)) s

/-- BARA (R207, R292). -/
def execBara (h : Hdr) (f : LFmt) (s : State) : Host.Outcome State Fault Refusal :=
  issue (.bara h f) h (fun c s =>
    match c.barOf f s with
    | .inr t => .trap t s
    | .inl k =>
      if c.mustRelease f s then .stall .memory s
      else if s.mustHold k c.who c.pass then .stall .barrier s
      else .ok (s.arrive k c.who c.pass c.u.liveSlices)) s

/-- BARW (R207). -/
def execBarw (h : Hdr) (f : LFmt) (s : State) : Host.Outcome State Fault Refusal :=
  issue (.barw h f) h (fun c s =>
    match c.barOf f s with
    | .inr t => .trap t s
    | .inl k =>
      match s.waitEnded k c.who c.pass with
      | some e => c.barDone k f e s
      | none => .stall .barrier ((s.watchFor k c.who c.pass).setWait c.who c.entry .watching)) s

-- FENCE and bindings

/-- FENCE (R296): it acts for every slice of the fragment. -/
def execFence (h : Hdr) (f : LFmt) (s : State) : Host.Outcome State Fault Refusal :=
  issue (.fence h f) h (fun c s =>
    let es := c.u.entriesOf c.slices c.fr.isDbg true
    let held := es.any (fun p => p.2.accs.any (fun a => a.waits) && (f.ord != 1 || p.2.kind != AccKind.store))
    if held then .stall .memory s else .ok s) s

/-- The tuple of a BIND or UNBIND, its levels and spaces as they resolve (R49), or none where a limit is broken (R297). -/
def Cx.binding (c : Cx) (f : LFmt) (all : Bool) : Option Binding :=
  let space := (resolve c.u.level f.lvl.toNat).getD 0
  let base := (c.sl f.se).toNat
  let len := (c.sl f.sp).toNat
  let o := (c.sl f.sk).toNat
  let sc := (resolve c.u.level f.scope.toNat).getD 0
  let obj := if f.op = 0 then BindObj.bar sc f.b.toNat else BindObj.word sc o
  if f.op = 1 ∧ (o % 4 ≠ 0 ∨ spaceSize sc < o + 4) then none
  else if all then some { space := 0, base := 0, len := 0, obj := obj }
  else if base % 64 ≠ 0 ∨ len % 64 ≠ 0 ∨ len < 64 ∨ 2 ^ 40 < len ∨ spaceSize space < base + len then none
  else some { space := space, base := base, len := len, obj := obj }

/-- The status of a BIND or UNBIND (R297). -/
def Cx.bound (c : Cx) (f : LFmt) (st : Nat) (s : State) : Res :=
  let n := (s.ctxOf c.u.ctx).bindings.length
  .ok (c.asyncNow (fun j => [.s j f.sd.toNat (fieldAt 56 st ||| fieldAt 0 n)]) s)

/-- BIND (R297, R298). -/
def execBind (h : Hdr) (f : LFmt) (s : State) : Host.Outcome State Fault Refusal :=
  issue (.bind h f) h (fun c s =>
    let bs := (s.ctxOf c.u.ctx).bindings
    match c.binding f false with
    | none => c.bound f 2 s
    | some b =>
      if bs.contains b then c.bound f 0 s
      else if 256 ≤ bs.length then c.bound f 1 s
      else c.bound f 0 (s.updCtx c.u.ctx (fun x => { x with bindings := x.bindings ++ [b] }))) s

/-- UNBIND (R297, R298). -/
def execUnbind (h : Hdr) (f : LFmt) (s : State) : Host.Outcome State Fault Refusal :=
  issue (.unbind h f) h (fun c s =>
    let all := bitAt f.imm 0
    let bs := (s.ctxOf c.u.ctx).bindings
    match c.binding f all with
    | none => c.bound f 2 s
    | some b =>
      let gone := fun (x : Binding) => if all then x.obj = b.obj else x = b
      if !(bs.any (fun x => decide (gone x))) then c.bound f 3 s
      else c.bound f 0 (s.updCtx c.u.ctx (fun x => { x with bindings := x.bindings.filter (fun y => !(decide (gone y))) }))) s

-- progress, time, idling

/-- A write of BPROG (R132): of two in one cycle the one of the lower gang stands, the stream counting below gang 0. -/
def State.writeProg (s : State) (w : Who) (v : BitVec 16) : State :=
  let rank := match w with
    | .gang _ g => g + 1
    | .stream _ _ => 0
    | .clusterSeq _ => 0
    | .dieSeq _ => 0
    | .packageSeq => 0
  match s.blockOf w with
  | none => s
  | some (n, b) => s.updBlock n b (fun k =>
      if k.bprogBy.any (fun p => p.1 = s.cycles && p.2 < rank) then k
      else { k with bprog := v, bprogBy := some (s.cycles, rank) })

/-- PROG (R132): no effect from a sequencer. -/
def execProg (h : Hdr) (f : DFmt) (s : State) : Host.Outcome State Fault Refusal :=
  issue (.prog h f) h (fun c s =>
    let v : BitVec 16 := if f.imm = 0 then (c.sl f.sa).setWidth 16 else f.imm.setWidth 16
    .ok (s.writeProg c.who v)) s

/-- CLOCK (R133). -/
def execClock (h : Hdr) (f : DFmt) (s : State) : Host.Outcome State Fault Refusal :=
  issue (.clock h f) h (fun c s =>
    .ok (c.putS f.sd (fun _ => BitVec.ofNat 64 (if f.imm = 0 then s.cycles else s.tb)) s)) s

/-- The watches of an IDLE are forgotten. -/
def Cx.idleDone (c : Cx) (bars : List BarKey) (s : State) : Res :=
  .ok (bars.foldl (fun s k => s.dropArr k c.who [16 + c.entry]) s)

/-- Whether a wait is an IDLE's. -/
def Wait.isIdle : Wait → Bool
  | .idle _ => true
  | _ => false

/-- Whether the time of an IDLE that began at `t0` is over (R135). -/
def State.idleOver (s : State) (t0 limit : Nat) : Bool := limit ≠ 0 && t0 + limit ≤ s.cycles

/-- IDLE (R135). -/
def execIdle (h : Hdr) (f : DFmt) (s : State) : Host.Outcome State Fault Refusal :=
  issue (.idle h f) h (fun c s =>
    let ns := bitsSet (bitsAt f.imm 0 16) 16
    let bars := ns.map (fun n => s.barKey c.who 1 n)
    let limit := (c.sl f.sa).toNat
    if !(ns.all (fun n => n < s.barCount c.who)) then .trap (c.fault 0x42 1 0) s
    else if ns.isEmpty && limit = 0 && !c.who.isSeq then .ok s
    else
      match c.fr.wait with
      | .woken => c.idleDone bars s
      | .idle t0 =>
        if s.idleOver t0 limit || bars.any (fun k => match s.arrOf k c.who (16 + c.entry) with
          | some (.seen _) => true
          | _ => false) then c.idleDone bars s
        else .stall .barrier s
      | _ =>
        let s := bars.foldl (fun s k => s.setArr k c.who [16 + c.entry] .watch) s
        .stall .barrier (s.setWait c.who c.entry (.idle s.cycles))) s

/-- IDLE_TIMEOUT (R135): a waiting IDLE whose time is over ends at its next attempt; the event makes its fragment eligible. -/
def execIdleTimeout (who : Who) (s : State) : Host.Outcome State Fault Refusal :=
  .next (s.updIssuer who (fun u => { u with frags := u.frags.map (fun p =>
    (p.1, if (p.2.wait.isIdle || p.2.wait2.isIdle) && p.2.st == FragSt.blocked then { p.2 with st := .eligible } else p.2)) }))

end Sys2Proof.Machine
end

