-- ==== Sys2Proof/Machine/Window.lean ====
section
/-! DEFINITION. Import windows of a context (R440), the plane of packages (R427, R428), and messages on their way to a peer (R434, R435,
R438, R448, R459). -/
namespace Sys2Proof.Machine

/-- A level-2 entry of an import table (R440). -/
structure Import where
  key : BitVec 32
  eidx : Nat
  flags : Nat
  len : Nat
  deriving DecidableEq, Repr

/-- The import entry of a peer's window, or none where V is 0 at any level (R440, R448). -/
def State.importOf (s : State) (ctx peer w : Nat) : Option Import :=
  let base := s.impbase.get ctx 0
  if !(bitAt base 0) then none
  else
    let l1 := BitVec.ofNat 64 (s.sysWord (4096 * bitsAt base 12 40 + 8 * peer))
    if !(bitAt l1 0) then none
    else
      let a := 256 * bitsAt l1 8 44 + 16 * w
      let lo := BitVec.ofNat 64 (s.sysWord a)
      let flags := bitsAt lo 48 8
      if flags % 2 = 0 then none
      else some { key := lo.setWidth 32, eidx := bitsAt lo 32 12, flags := flags, len := s.sysWord (a + 8) }

-- the projective plane (R427, R428)

/-- The product in GF(32), modulo x^5 + x^2 + 1 (R427). -/
def gfMul (a b : Nat) : Nat :=
  let p := (List.range 5).foldl (fun p i => if b.testBit i then p ^^^ (a <<< i) else p) 0
  [8, 7, 6, 5].foldl (fun p i => if p.testBit i then p ^^^ (0x25 <<< (i - 5)) else p) p

/-- The inverse of a nonzero element. -/
def gfInv (a : Nat) : Nat := ((List.range 32).find? (fun x => gfMul a x = 1)).getD 0

/-- The point of an ID (R427). -/
def pointOf (id : Nat) : Nat × Nat × Nat :=
  if id < 1024 then (id / 32, id % 32, 1) else if id < 1056 then (id - 1024, 1, 0) else (1, 0, 0)

/-- The ID of a point, normalised so that its last nonzero coordinate is 1 (R428). -/
def idOf (p : Nat × Nat × Nat) : Nat :=
  let (x, y, z) := p
  if z ≠ 0 then 32 * gfMul x (gfInv z) + gfMul y (gfInv z)
  else if y ≠ 0 then 1024 + gfMul x (gfInv y)
  else 1056

/-- Whether two distinct packages are neighbours (R427). -/
def neighbours (p q : Nat) : Bool :=
  let (a, b, c) := pointOf p
  let (x, y, z) := pointOf q
  p != q && gfMul a x ^^^ gfMul b y ^^^ gfMul c z == 0

/-- The package between two that are no neighbours: the cross product (R428). -/
def between (p q : Nat) : Nat :=
  let (a, b, c) := pointOf p
  let (x, y, z) := pointOf q
  idOf (gfMul b z ^^^ gfMul c y, gfMul c x ^^^ gfMul a z, gfMul a y ^^^ gfMul b x)

/-- The peer that a register names, or none (R443). -/
def peerOf (x : Dword) : Option Nat := if bitsAt x 11 53 ≠ 0 ∨ 1056 < bitsAt x 0 11 then none else some (bitsAt x 0 11)

/-- MINOK of the routing entry for `d` (R434). -/
def State.minOk (s : State) (d : Nat) : Bool := bitAt (s.rtent.get d rtentReset) 63

/-- The cause that a refusal raises (R448). -/
def statusCause (st : Nat) : Nat :=
  if st = 1 then 0x17 else if st = 2 then 0x18 else if st = 3 then 0x19 else if st = 4 then 0x13 else if st = 5 then 0x15 else 0x1B

/-- The intermediates to which a minimal path exists, and from which one to `d` does (R435): what the other package's routes are is a free
value (notes/assumptions 145). -/
def State.vias (s : State) (d : Nat) : List Nat :=
  (s.rtent.filter (fun p => s.minOk p.1 && p.1 != d && p.1 != s.fabid.toNat && Config.peerMinOk p.1 d s.tb)).map (fun p => p.1)

/-- The intermediate of a message to `d`, or none on a minimal path or to the package itself (R435): drawn at random, a free
value, among those with a path. -/
def State.viaOf (s : State) (d : Nat) : Option Nat :=
  if d = s.fabid.toNat ∨ s.minOk d then none
  else match s.vias d with
    | [] => none
    | v :: r => some ((v :: r).getD (Config.drawnIntermediate s.draws % (r.length + 1)) v)

/-- Whether a message to `d` has a path (R435). -/
def State.hasPath (s : State) (d : Nat) : Bool := d = s.fabid.toNat || s.minOk d || !(s.vias d).isEmpty

/-- A message with its route filled in leaves the package (R435, R438). -/
def State.sendMsg (s : State) (m : Msg) : State :=
  let via := s.viaOf m.dest
  { s with
    outbox := s.outbox ++ [{ m with src := s.fabid.toNat, hops := 0, nonMin := via.isSome, half2 := false,
                                    via := via.getD 0x7FF }]
    draws := s.draws + 1 }

/-- Whether a request to `d` meets a RETRY in this package, the last on its route: `d` is a neighbour in S3 (R459). Whether another package
is in S3 is a free value (notes/assumptions 85). -/
def State.asleep (s : State) (d : Nat) : Bool := neighbours s.fabid.toNat d && s.minOk d && Config.peerAsleep s.draws d

/-- A request is put out, or stays to be sent again where it meets a RETRY here (R438, R459). -/
def State.putOut (s : State) (m : Msg) : State := if s.asleep m.dest then { s with draws := s.draws + 1 } else s.sendMsg m

/-- A request that awaits its response (R448): its transaction number is the next. -/
def State.sendReq (s : State) (o : ReqOwner) (m : Msg) : State :=
  let tid := s.nextTid
  let m := { m with tid := tid }
  let r : Req := { tid := tid, owner := o, msg := m, sentAt := s.tb, retry := s.asleep m.dest }
  ({ s with nextTid := tid + 1, reqs := s.reqs ++ [r] } : State).putOut m

/-- An empty message of a class, operation and destination. -/
def Msg.to (dest cls op : Nat) : Msg :=
  { dest := dest, src := 0, cls := cls, hops := 0, nonMin := false, half2 := false, op := op, via := 0x7FF, key := 0, eidx := 0,
    tid := 0, offset := 0, size := 0, aop := 0, status := 0, count := 0, lanes := 0, rsv := false, data := [] }

end Sys2Proof.Machine
end

