-- ==== Sys2Proof/Machine/Remote.lean ====
section
/-! DEFINITION. Remote instructions: group 9 (R443 to R449), from their log entries to their responses. -/
namespace Sys2Proof.Machine

/-- The flag of the import or export entry that an instruction needs (R444): RD, W, A, S. -/
def remoteFlag (op : Nat) : Nat := if op = 0x240 then 1 else if op = 0x241 then 2 else if op = 0x244 then 4 else 3

/-- The fault of a lane at its issue, by address and window (R443, R448): ALIGN, RNOWIN, RBOUNDS. -/
def State.remoteBad (s : State) (ctx peer op w len : Nat) (off : BitVec 64) : Option Nat :=
  if off.toNat % len ≠ 0 then some 0x10
  else match s.importOf ctx peer w with
    | none => some 0x1A
    | some i =>
      if !(i.flags.testBit (remoteFlag op)) then some 0x1A
      else if op ≠ 0x244 ∧ (off.toInt < 0 ∨ i.len < off.toNat + len) then some 0x18
      else none

/-- The class of a gang's accesses (R437): 1 from a core that a collective's partition holds (R417). -/
def State.accessClass (s : State) (w : Who) : Nat :=
  match w.core? with
  | none => 0
  | some n => b2n (s.packets.any (fun p => p.status.isNone && p.part.contains n))

/-- log2 of 1, 2, 4, 8 or 16. -/
def sizeLog (len : Nat) : Nat := if len = 16 then 4 else if len = 8 then 3 else if len = 4 then 2 else if len = 2 then 1 else 0

/-- The request of one access (R438, R443 to R447). -/
def State.remoteMsg (s : State) (core g : Nat) (e : LogEntry) (a : Acc) (i : Import) : Msg :=
  match e.ins.form with
  | some (op, _, .m f) =>
    let len := a.len
    let aop := f.aop.toNat
    let code := if op = 0x240 then 1 else if op = 0x241 then (if aop = 0 then 2 else 3) else if op = 0x242 then 4
      else if op = 0x243 then 5 else 6
    { Msg.to (e.peer.getD 0) (if op = 0x244 then 2 else s.accessClass (.gang core g)) code with
      key := i.key, eidx := i.eidx, offset := if op = 0x244 then 0 else a.ea, size := if op = 0x244 then 0 else sizeLog len
      aop := aop, count := 1, lanes := BitVec.ofNat 32 (2 ^ a.lane)
      data := if op = 0x240 then [] else if op = 0x243 then bytesOf a.data len ++ bytesOf a.data2 len
        else if op = 0x244 then bytesOf a.data 8 ++ bytesOf f.disp.toNat 4
        else if op = 0x241 ∧ aop = 0 then bytesOf a.data len
        else bytesOf a.data len ++ [BitVec.ofNat 8 f.ty.toNat] }
  | _ => Msg.to 0 0 0

/-- Whether the request of an access is on its way. -/
def State.requested (s : State) (core g n lane : Nat) : Bool :=
  s.reqs.any (fun r => r.owner = .log core g n && r.msg.lanes.getLsbD lane)

/-- Requests of log entry `n` whose order allows it leave (R449); one with no path fails as NOPEER (R435), and one that is made again
meets the tests of its issue again (R186). -/
def State.sendEntry (s : State) (core g n : Nat) : State :=
  let w := Who.gang core g
  let len := match (s.issuer w).bind (fun u => u.log.find n) with
    | none => 0
    | some e => if e.space = 5 then e.accs.length else 0
  (List.range len).foldl (fun s i =>
    match s.issuer w with
    | none => s
    | some u =>
      match u.log.find n with
      | none => s
      | some e =>
        match e.accs[i]?, e.peer with
        | some a, some p =>
          if 256 ≤ core || !a.waits || s.requested core g n a.lane || !(u.mayPerform e i a) then s
          else if !(s.hasPath p) then s.failAcc core g n i u.ctx a 0x1B
          else
            match s.remoteBad u.ctx p (Instr.opY e.ins).1 e.window a.len a.ea, s.importOf u.ctx p e.window with
            | some k, _ => s.failAcc core g n i u.ctx a k
            | none, some im => s.sendReq (.log core g n) (s.remoteMsg core g e a im)
            | none, none => s
        | some a, none => if 256 ≤ core || !a.waits then s else s.failAcc core g n i u.ctx a 0x1B
        | none, _ => s) s

/-- Every entry of a gang sends what it may. -/
def State.sendLog (s : State) (core g : Nat) : State :=
  match s.issuer (.gang core g) with
  | none => s
  | some u =>
    u.log.foldl (fun s p => (s.sendEntry core g p.1).updIssuer (.gang core g) (fun u => u.settle p.1)) s

/-- ACCESS_RETURN (R183): what waited for these accesses to be performed is sent to its peers (R305, R307). -/
def execAccessReturn (core gid entry : Nat) (lanes : BitVec 32) (s : State) : Host.Outcome State Fault Refusal :=
  .next ((s.returnEntry core gid entry lanes).sendLog core gid)

/-- The entries of a remote instruction (R443): one for each distinct peer with an active lane (R183), in the order of the lowest slices that
hold the peers; they are entered together, or the instruction stalls until as many are free as there are distinct peers. -/
def Cx.remote (c : Cx) (i : Instr) (op : Nat) (f : MFmt) (kind : AccKind) (uni : Bool) (accs : List Acc) (s : State) : Res :=
  match c.who with
  | .gang core g =>
    let peers := (groupBy (c.pass.map (fun j => (j, c.s f.sb j)))).map (fun p => p.1)
    let groups := (peers.map (fun sp => (sp, accs.filter (fun a => c.s f.sb (a.lane / 4) = sp)))).filter (fun p => !p.2.isEmpty)
    let free := (List.range 16).filter (fun n => (c.u.log.find n).isNone)
    if groups.isEmpty then .ok s
    else if free.length < peers.length then .stall (s.logFull c.who c.u) s
    else
      let width := tyBits f.ty.toNat
      let st := if kind == AccKind.store then (s, 0) else c.async .memory s
      let bad := fun (sp : Dword) (a : Acc) => match peerOf sp with
        | none => some 0x1B
        | some p => s.remoteBad c.u.ctx p op f.w.toNat a.len a.ea
      let mark := fun (sp : Dword) (l : List Acc) => l.map (fun a =>
        { a with st := match bad sp a with
            | none => AccSt.pending
            | some k => AccSt.failed k })
      let es := (free.zip groups).map (fun p => (p.1, mark p.2.1 p.2.2, peerOf p.2.1))
      let good := ((es.map (fun p => p.2.1)).flatten).filter (fun a => a.waits)
      let lanesOfAcc := fun (a : Acc) =>
        if uni then (a.slices.map (fun j => ((List.range 4).map (fun i => 4 * j + i)).filter
          (fun l => c.fr.lmask.getLsbD l))).flatten else [a.lane]
      let addrs := (good.map (fun a => (lanesOfAcc a).map (fun l =>
        { lane := l, space := 5, ea := a.ea, len := a.len, rd := kind != AccKind.store && op != 0x244,
          wr := kind != AccKind.load || op == 0x244 : AccEv }))).flatten
      let vals := if kind == AccKind.load then []
        else (good.map (fun a => (lanesOfAcc a).map (fun l =>
          let v := if op = 0x243 then a.data2 else a.data
          { kind := 2, lane := l, vals := if a.len = 16 then [v % 2 ^ 64, v / 2 ^ 64] else [v], width := width : ValEv }))).flatten
      let info := fun (j : Nat) =>
        { pc := c.cur.at_, lmask := c.fr.lmask, mask := c.u.active c.fr, inh := c.u.inh,
          addrs := addrs.filter (fun a => a.lane / 4 = j), stored := vals.filter (fun v => v.lane / 4 = j), elems := [],
          width := width : LoadInfo }
      let s := st.1.updIssuer c.who (fun u =>
        { u with flights := u.flights.map (fun (x : Flight) =>
            if x.tag = st.2 && x.kind == FlightKind.memory && op != 0x244 then { x with load := some (info x.slice) } else x) })
      let s := es.foldl (fun s p =>
        let js := (p.2.1.map (fun a => a.slices)).flatten.eraseDups
        let sm : BitVec 8 := BitVec.ofNat 8 (maskOf js)
        let lanes := if uni then lanesOf js else BitVec.ofNat 32 (maskOf (p.2.1.map (fun a => a.lane)))
        s.updIssuer c.who (fun u =>
          { u with
            log := u.log.put p.1 { ins := i, pc := c.cur.at_, smask := sm, frag := BitVec.ofNat 8 (maskOf c.slices), lanes := lanes, act := c.u.active c.fr, uni := uni,
                                   kind := kind, space := 5, accs := p.2.1, tag := st.2, seq := u.logSeq, old := false,
                                   dbg := c.fr.isDbg, peer := p.2.2 }
            logSeq := u.logSeq + 1 })) s
      let s := es.foldl (fun s p => p.2.1.foldl (fun s a => match a.st with
        | .failed k => s.logDie (core / 64) a.ea.toNat c.u.ctx 0 1 k
        | .pending => s
        | .done => s
        | .dropped => s) s) s
      -- the slices that make no access have nothing outstanding
      let used := (accs.map (fun a => a.slices)).flatten
      let s := s.updIssuer c.who (fun u => (c.pass.filter (fun j => !(used.contains j))).foldl (fun u j =>
        u.complete st.2 j [] true none) u)
      .ok (c.events addrs vals (s.sendLog core g))
  | .stream _ _ => .ok s
  | .clusterSeq _ => .ok s
  | .dieSeq _ => .ok s
  | .packageSeq => .ok s

/-- The offset of lane `l` in its window (R443). -/
def Cx.off (c : Cx) (f : MFmt) (l off : Nat) : BitVec 64 :=
  f.disp.signExtend 64 + (if f.x then (c.v1 f.vi.toNat l).signExtend 64 else 0) + BitVec.ofNat 64 off

/-- One access per active lane. -/
def Cx.remoteAccs (c : Cx) (f : MFmt) (len : Nat) (data : Nat → Nat × Nat) : List Acc :=
  c.act.map (fun l => Acc.lane1 l len (c.off f l (if f.x then 0 else len * l)) (data l).1 (data l).2)

/-- RLD (R444). -/
def execRld (h : Hdr) (f : MFmt) (s : State) : Host.Outcome State Fault Refusal :=
  issue (.rld h f) h (fun c s =>
    c.remote (.rld h f) 0x240 f .load false (c.remoteAccs f (tyBits f.ty.toNat / 8) (fun _ => (0, 0))) s) s

/-- RST (R444, R445). -/
def execRst (h : Hdr) (f : MFmt) (s : State) : Host.Outcome State Fault Refusal :=
  issue (.rst h f) h (fun c s =>
    let ty := f.ty.toNat
    c.remote (.rst h f) 0x241 f .store false
      (c.remoteAccs f (tyBits ty / 8) (fun l => (c.vraw ty f.vt.toNat l % 2 ^ tyBits ty, 0))) s) s

/-- RATOM (R444). -/
def execRatom (h : Hdr) (f : MFmt) (s : State) : Host.Outcome State Fault Refusal :=
  issue (.ratom h f) h (fun c s =>
    c.remote (.ratom h f) 0x242 f .atomic false (c.remoteAccs f (atomLen f) (c.atomArgs f)) s) s

/-- RCAS (R444). -/
def execRcas (h : Hdr) (f : MFmt) (s : State) : Host.Outcome State Fault Refusal :=
  issue (.rcas h f) h (fun c s =>
    c.remote (.rcas h f) 0x243 f .atomic false (c.remoteAccs f (atomLen f) (c.atomArgs f)) s) s

/-- RSIG (R447): one message for each group of slices that agree on peer, payload and tag. -/
def execRsig (h : Hdr) (f : MFmt) (s : State) : Host.Outcome State Fault Refusal :=
  issue (.rsig h f) h (fun c s =>
    let arg := fun (j : Nat) => (c.s (f.vt.setWidth 6) j).toNat
    let accs := (groupBy (c.pass.map (fun j => (j, c.s f.sb j, arg j)))).map (fun p =>
      { lane := 4 * p.2.headD 0, slices := p.2, ea := 0, len := 1, data := p.1.2, data2 := 0, st := .pending : Acc })
    c.remote (.rsig h f) 0x244 f .load true accs s) s

/-- The response to a logged access (R448, R449): STATUS 0 performs it, RETRY leaves it pending, any other marks it. -/
def State.answerLog (s : State) (core g n : Nat) (req resp : Msg) : State :=
  let w := Who.gang core g
  match s.issuer w with
  | none => s
  | some u =>
    match u.log.find n with
    | none => s
    | some e =>
      let s := (List.range e.accs.length).foldl (fun s i =>
        match e.accs[i]? with
        | none => s
        | some a =>
          if !(req.lanes.getLsbD a.lane) || !a.waits then s
          else if resp.status = 0 then
            let x := ofBytes (resp.data.take a.len)
            let flags := match e.kind, e.ins.form with
              | .atomic, some (_, _, .m f) => (atomOp f.aop.toNat f.ty.toNat x a.data a.data2).2
              | _, _ => 0
            let ts := if e.kind == AccKind.store then [] else e.gives n a x flags
            let ld := if e.kind == AccKind.store then none else e.loaded a x
            s.updIssuer w (fun u =>
              let u := u.updLog n (fun e => e.setSt i .done)
              a.slices.foldl (fun u j => u.complete e.tag j (ts.filterMap (fun t => if t.1 = j then some t.2 else none)) false
                (ld.map (fun x => { x with elems := x.elems.filter (fun q => q.1 / 4 = j) }))) u)
          else s.failAcc core g n i u.ctx a (statusCause resp.status)) s
      (s.updIssuer w (fun u => u.settle n)).sendLog core g

end Sys2Proof.Machine
end

