-- ==== Sys2Proof/Machine/Copy.lean ====
section
/-! DEFINITION. Bulk copies (R212 to R217), multicasts (R363 to R368) and the pieces in which the engines perform them:
core, cluster (R362), die (R378) and package (R452, R453). -/
namespace Sys2Proof.Machine

-- what a copy is

/-- The core whose queues a copy passes through (R214, R363). -/
def Copy.viaCore (c : Copy) : Option Nat := c.who.core?

/-- Whether a copy counts among those in flight at a place (R214, R363). -/
def Copy.isAt (c : Copy) (p : Place) : Bool := c.place = p || (match c.viaCore with
  | none => false
  | some n => p = .core n && c.packet.isNone)

/-- The queue a copy enters (R214, R362, R363): a core's load or store queue, or the engine's single one. -/
def Copy.queue (c : Copy) : Place × Bool := match c.viaCore with
  | none => (c.place, false)
  | some n => (.core n, c.up)

/-- Copies that a place keeps in flight (R214, R362). -/
def flightLimit : Place → Nat
  | .core _ => 512
  | .cluster _ => 256
  | .die _ => 256
  | .package => 256

/-- Copies in flight at a place. -/
def State.flyingAt (s : State) (p : Place) : Nat := (s.copies.filter (fun (c : Copy) => c.flying && c.isAt p)).length

/-- Copies waiting in a queue (R214). -/
def State.queued (s : State) (q : Place × Bool) : Nat := (s.copies.filter (fun (c : Copy) => !c.flying && c.queue = q)).length

/-- Copy `id`; changed by `f`. -/
def State.copyOf (s : State) (id : Nat) : Option Copy := s.copies.find? (fun c => c.id = id)
def State.updCopy (s : State) (id : Nat) (f : Copy → Copy) : State :=
  { s with copies := updateFirst (fun (c : Copy) => c.id = id) f s.copies }

/-- A copy at the head of its queue goes into flight where the engines it uses have room (R214). -/
def State.feed (s : State) (c : Copy) : State :=
  let blocked := (s.copies.takeWhile (fun (d : Copy) => d.id ≠ c.id)).any (fun d => !d.flying && d.queue = c.queue)
  let room := (match c.viaCore with
    | none => true
    | some n => s.flyingAt (.core n) < 512) && s.flyingAt c.place < flightLimit c.place
  if c.flying || blocked || !room then s else s.updCopy c.id (fun d => { d with flying := true })

/-- Every queue feeds its engine (R214). -/
def State.feedCopies (s : State) : State := s.copies.foldl (fun s c => s.feed c) s

/-- The address of a location as the logs name it. -/
def Loc.addr : Loc → Nat
  | .core _ a => a
  | .cluster _ a => a
  | .die _ a => a
  | .virt _ _ a => a
  | .pod _ _ _ a => a
  | .host a => a

/-- How far into an aligned 16-byte unit the destination of a copy begins: R213 aligns both ends, R416 sets a packet's COPY no
alignment. -/
def Copy.skew (c : Copy) : Nat := (c.dsts.headD c.src).addr % 16

/-- The pieces of a copy, each an aligned 16-byte unit of the destination or as much of one as the copy writes (R215, R289): how many they
are, where piece `p` begins in the bytes of the copy and how long it is, and its offsets at the source and the destination (R213). -/
def Copy.pieces (c : Copy) : Nat := if c.rows * c.width = 0 then 0 else (c.rows * c.width + c.skew + 15) / 16
def Copy.from_ (c : Copy) (p : Nat) : Nat := 16 * p - c.skew
def Copy.len (c : Copy) (p : Nat) : Nat := Nat.min (c.rows * c.width) (16 * (p + 1) - c.skew) - c.from_ p
def Copy.srcOff (c : Copy) (p : Nat) : Nat := c.from_ p / c.width * c.sstride + c.from_ p % c.width
def Copy.dstOff (c : Copy) (p : Nat) : Nat := c.from_ p / c.width * c.dstride + c.from_ p % c.width

/-- Whether destination `m` needs nothing more: written in full, or failed. -/
def Copy.isOver (c : Copy) (m : Nat) : Bool :=
  c.failed.any (fun p => p.1 = m) || (c.done.filter (fun p => p.1 = m)).length = c.pieces

/-- The status of a multicast (R367). -/
def Copy.status (c : Copy) : Dword :=
  let mem := fun (p : Nat × Nat) => (bitsSet c.mask 8).getD p.1 0
  let bad := maskOf (c.failed.map mem)
  fieldAt 56 (if c.failed.isEmpty then 0 else if c.failed.length = c.dsts.length then 2 else 1)
    ||| c.failed.foldl (fun a p => a ||| fieldAt (32 + 2 * mem p) p.2) 0
    ||| fieldAt 17 (b2n c.pois) ||| fieldAt 16 (b2n c.fw) ||| fieldAt 8 bad ||| fieldAt 0 c.mask

-- retirement

/-- The final status of a packet is known (R417, R418): its copy, arm or signal is over. -/
def State.packetDone (s : State) (seq status cause addr : Nat) : State :=
  { s with packets := s.packets.map (fun (p : Packet) =>
      if p.seq = seq && p.status.isNone then { p with status := some status, cause := cause, addr := BitVec.ofNat 64 addr } else p) }

/-- What a retired copy leaves its issuer, if that has not ended: DONE, FW and POIS for CWAIT (R217), the status of a multicast
(R365). -/
def State.creditCopy (s : State) (c : Copy) : State :=
  if c.gone then s
  else
    let s := (s.updIssuer c.who (fun u =>
      { u with cwDone := satAt 16 (u.cwDone + 1), cwFw := u.cwFw || c.fw, cwPois := u.cwPois || c.pois })).wakeSeq c.who
    match c.ret with
    | none => s
    | some (sm, tag, sd) => if sd = 0 then s else s.deliver c.who tag sd (slicesOf sm) c.status

/-- A copy retires (R217, R365). -/
def State.retireCopy (s : State) (c : Copy) : State :=
  let s : State := { s with copies := s.copies.filter (fun d => d.id ≠ c.id) }
  let s := match c.packet with
    | none => s.creditCopy c
    | some q => s.packetDone q (if c.pois then 5 else 0) (if c.pois then 0x13 else 0) (if c.pois then c.fwAt else 0)
  s.feedCopies

/-- A copy whose destinations are all over retires. -/
def State.testCopy (s : State) (id : Nat) : State :=
  match s.copyOf id with
  | none => s
  | some c => if (List.range c.dsts.length).all (fun m => c.isOver m) then s.retireCopy c else s

/-- The die whose error log and translation an engine uses (R216, R380). -/
def Copy.die (c : Copy) : Nat := match c.place with
  | .core n => n / 64
  | .cluster n => n / 8
  | .die d => d
  | .package => 0

/-- A denied or refused copy ends (R378, R418, R453): it is logged, its barrier gets an error arrival, and it retires with
FW, and POIS where poison ended it; what it still asks of a peer is not sent again. -/
def State.denyCopy (s : State) (c : Copy) (addr cause : Nat) : State :=
  let s := if c.place = .package then s.logPkg addr c.ctx 4 8 0 else s.logDie c.die addr c.ctx 4 8 0
  let s := s.errorAll c.bars
  let s : State := { s with
    copies := s.copies.filter (fun d => d.id ≠ c.id)
    reqs := s.reqs.filter (fun r => match r.owner with
      | .copy id _ => id ≠ c.id
      | _ => true) }
  let pois := c.pois || cause = 0x13
  let s := match c.packet with
    | none => s.creditCopy { c with fw := true, pois := pois }
    | some q => s.packetDone q (if cause = 0x13 then 5 else 3) cause addr
  s.feedCopies

-- the firmware path and poison

/-- The flat place of a piece of a location, translated where it is a virtual address (R380), for its poison and its
address in the logs; host memory and windows have none. -/
def State.placeOf (s : State) (die : Nat) (l : Loc) (off kind : Nat) : Attempt (Option (Nat × Option Nat)) :=
  match l with
  | .core n a => .ok (some (coreKey n (a + off), none))
  | .cluster n a => .ok (some (clusterKey n (a + off), none))
  | .die n a => .ok (some (dieKey n (a + off), none))
  | .virt ctx _ a =>
    (match s.translate die ctx (a + off) kind with
      | .ok pa => .ok (some (pa, some (s.keyOf ctx)))
      | .wait => .wait
      | .bad c => .bad c)
  | .pod _ _ _ _ => .ok none
  | .host _ => .ok none

/-- The rest of a copy moves to the firmware path (R216): the failing granule is logged when it does. -/
def State.toFirmware (s : State) (c : Copy) (addr : Nat) : State :=
  if c.fw then s
  else
    let s := s.updCopy c.id (fun d => { d with fw := true, fwAt := addr / 64 * 64 })
    if c.place = .package then s.logPkg (addr / 64 * 64) c.ctx 4 4 0 else s.logDie c.die (addr / 64 * 64) c.ctx 4 4 0

/-- Whether a copy writes the whole granule of the destination bytes of piece `p`, and has done so (R216). -/
def Copy.wrote (c : Copy) (m p base : Nat) : Bool :=
  let g := (base + c.dstOff p) / 64
  let inG := fun (q : Nat) => (base + c.dstOff q) / 64 = g
  let near := (((List.range 8).filter (fun i => 4 ≤ p + i && p + i < c.pieces + 4)).map (fun i => p + i - 4)).filter inG
  ((List.range 4).all (fun i => near.any (fun q => (base + c.dstOff q) % 64 / 16 = i && c.len q = 16)))
    && near.all (fun q => c.done.contains (m, q))

/-- Piece `p` has been performed at destination `m`: its packet and its barrier gain the bytes (R215, R300), and the copy may be over. -/
def State.pieceOver (s : State) (c : Copy) (p m : Nat) : State :=
  let s : State := match c.packet with
    | none => s
    | some q => { s with packets := s.packets.map (fun (x : Packet) => if x.seq = q then { x with done := x.done + c.len p } else x) }
  let s := match c.bars[m]? with
    | none => s
    | some k => s.addBytes k (c.len p)
  s.testCopy c.id

/-- Piece `p` is written to destination `m`: its bytes are stored, poison is carried or cleared, the barrier gains the bytes
(R215, R216); a host destination receives the link's poison indication with them (R406). `pois` says that the source granule is
poisoned. A destination that waits for its translation is not written, and one that has lost it ends the copy. -/
def State.putPiece (s : State) (id p m : Nat) (bs : List Byte) (pois : Bool) : State :=
  match s.copyOf id with
  | none => s
  | some c =>
    match c.dsts[m]? with
    | none => s
    | some d =>
      let note := fun (s : State) => s.updCopy id (fun d =>
        let done := (m, p) :: d.done
        { d with done := done, pois := d.pois || pois
                 got := d.got.filter (fun g => g.1 ≠ p || !((List.range d.dsts.length).all (fun k =>
                   done.contains (k, p) || d.failed.any (fun x => x.1 = k)))) })
      match s.placeOf c.die d (c.dstOff p) kWrite with
      | .ok (some k) =>
        let g := k.1 / 64
        let s := note (s.writeAt k bs)
        let s :=
          if pois then (s.setPoison g).updCopy id (fun d => { d with marked := g :: d.marked })
          else if (s.copyOf id).any (fun c => c.wrote m p d.addr && !(c.marked.contains g)) then s.clearPoison (64 * g) 64
          else s
        s.pieceOver c p m
      | .ok none =>
        (match d with
          | .host a => note { s with hostOut := s.hostOut ++ [(a + c.dstOff p, bs, pois)] }
          | _ => note s).pieceOver c p m
      | .wait => s
      | .bad k => s.denyCopy c (d.addr + c.dstOff p) k

/-- The runs of source bytes of a piece, none across a granule: offsets and lengths. -/
def Copy.runs (c : Copy) (p : Nat) : List (Nat × Nat) :=
  let n := 64 - (c.src.addr + c.srcOff p) % 64
  if c.len p ≤ n then [(c.srcOff p, c.len p)] else [(c.srcOff p, n), (c.srcOff p + n, c.len p - n)]

/-- The bytes of one run of source bytes, with the offset of a poisoned granule, or what stops the read (R215, R384). -/
def State.getRun (s : State) (c : Copy) (r : Nat × Nat) : Attempt (List Byte × Option Nat) :=
  match s.placeOf c.die c.src r.1 kRead with
  | .wait => .wait
  | .bad k => .bad k
  | .ok none => .ok ((List.range r.2).map (fun i => Config.hostByte s.draws (c.src.addr + r.1 + i)), none)
  | .ok (some k) => .ok (s.readAt k r.2, if s.poisoned k.1 r.2 then some r.1 else none)

/-- The bytes of some runs, in order. -/
def State.getRuns (s : State) (c : Copy) : List (Nat × Nat) → Attempt (List Byte × Option Nat)
  | [] => .ok ([], none)
  | r :: l =>
    match s.getRun c r, s.getRuns c l with
    | .bad k, _ => .bad k
    | .wait, .bad k => .bad k
    | .wait, _ => .wait
    | .ok _, .wait => .wait
    | .ok _, .bad k => .bad k
    | .ok x, .ok y => .ok (x.1 ++ y.1, x.2.or y.2)

/-- The bytes of a piece at its source, with the offset of its first poisoned run, or what stops the read (R215, R384). -/
def State.getPiece (s : State) (c : Copy) (p : Nat) : Attempt (List Byte × Option Nat) := s.getRuns c (c.runs p)

/-- Where the source of a piece stops its read: the offset of the run that fails. -/
def State.badRun (s : State) (c : Copy) (p : Nat) : Nat :=
  (((c.runs p).find? (fun r => match s.getRun c r with
    | .bad _ => true
    | .wait => false
    | .ok _ => false)).map (fun r => r.1)).getD (c.srcOff p)

/-- A piece as its destinations receive it, with the offset of poison in its source: a multicast reads it once for all its members
(R365). -/
def State.takePiece (s : State) (c : Copy) (p : Nat) : Attempt (List Byte × Option Nat × State) :=
  match c.got.find? (fun g => g.1 = p) with
  | some g => .ok (g.2.1, if g.2.2 then some (c.srcOff p) else none, s)
  | none =>
    match s.getPiece c p with
    | .wait => .wait
    | .bad k => .bad k
    | .ok (bs, pois) =>
      let s : State := { s with draws := s.draws + 1 }
      .ok (bs, pois, if c.dsts.length ≤ 1 then s else s.updCopy c.id (fun d => { d with got := (p, bs, pois.isSome) :: d.got }))

/-- The message of a piece that goes to a peer (R438, R453). -/
def pieceMsg (peer : Nat) (key : BitVec 32) (eidx off op : Nat) (bs : List Byte) : Msg :=
  { Msg.to peer 0 op with
    key := key, eidx := eidx, offset := BitVec.ofNat 64 off, size := 4, count := 1, lanes := 1, data := bs }

/-- Whether a piece's request is on its way. -/
def State.pieceSent (s : State) (id p : Nat) : Bool := s.reqs.any (fun r => r.owner = .copy id p)

/-- A piece is sent to a peer, or refused where there is no path (R435, R453). -/
def State.sendPiece (s : State) (c : Copy) (p peer : Nat) (m : Msg) : State :=
  if s.pieceSent c.id p then s
  else if !(s.hasPath peer) then s.denyCopy c m.offset.toNat 0x1B
  else s.sendReq (.copy c.id p) m

/-- The 4 KiB segment of a piece in the footprint of destination `m`, row by row (R316). -/
def Copy.segment (c : Copy) (m p : Nat) : Nat × Nat :=
  (c.from_ p / c.width, (((c.dsts[m]?).map Loc.addr).getD 0 + c.dstOff p) / 4096)

/-- Whether the segment of a piece is in progress: some of its pieces are done, and some are not (R316). -/
def Copy.inProgress (c : Copy) (m p : Nat) : Bool :=
  let near := ((List.range 514).filter (fun i => 257 ≤ p + i && p + i < c.pieces + 257)).map (fun i => p + i - 257)
  let seg := near.filter (fun q => c.segment m q = c.segment m p)
  seg.any (fun q => c.done.contains (m, q)) && !(seg.all (fun q => c.done.contains (m, q)))

/-- Whether a copy stands at the boundary of a segment at every destination (R316). -/
def Copy.atBoundary (c : Copy) : Bool :=
  c.done.all (fun x => c.isOver x.1 || !(c.inProgress x.1 x.2))

/-- Whether a location lies in a core whose state is saved (R317). -/
def Loc.isSaved : Loc → Bool
  | .core n _ => 256 ≤ n
  | _ => false

/-- Whether a copy is to stop at the end of its segment at destination `m` (R316, R317, R368, R425): its block or the member block
is stopped, or the package suspends; whether it may not move at all. -/
def State.copyStops (s : State) (c : Copy) (m : Nat) : Bool :=
  s.suspst = 1 || (match c.home with
    | none => false
    | some h => s.stoppedAt h.1 h.2) || (match c.bars[m]? with
    | some (.block n b _) => s.stoppedAt n b
    | _ => false)
def State.copyFrozen (s : State) (c : Copy) (m : Nat) : Bool :=
  s.stopped || s.suspst = 3 || c.src.isSaved || (c.dsts[m]?).any Loc.isSaved || c.viaCore.any (fun n => 256 ≤ n)

/-- Piece `p` of a copy in flight is performed at destination `m` (R215, R216, R365, R378, R453), unless it has been, waits for a
translation, or the copy is stopped. -/
def State.copyPiece (s : State) (id p m : Nat) : State :=
  match s.copyOf id with
  | none => s
  | some c =>
    match c.dsts[m]? with
    | none => s
    | some d =>
      if !c.flying || c.pieces ≤ p || c.done.contains (m, p) || c.failed.any (fun x => x.1 = m) || s.copyFrozen c m
          || (s.copyStops c m && !(c.inProgress m p)) then s
      else
        let src := c.src.addr + c.srcOff p
        let bad := c.src.addr + s.badRun c p
        let dst := d.addr + c.dstOff p
        match s.placeOf c.die d (c.dstOff p) kWrite with
        | .wait => s
        | .bad k => (s.denyCopy c dst k)
        | .ok _ =>
          match c.src with
          | .pod peer key eidx _ => (s.sendPiece c p peer (pieceMsg peer key eidx src 1 []))
          | _ =>
            match s.takePiece c p with
            | .wait => s
            | .bad k => (s.denyCopy c bad k)
            | .ok (bs, pois, s) =>
              match d with
              | .pod peer key eidx _ =>
                if pois.isSome then (s.denyCopy c dst 0x13)
                else (s.sendPiece c p peer (pieceMsg peer key eidx dst 2 bs))
              | _ => ((match pois with
                | none => s
                | some o => s.toFirmware c (c.src.addr + o)).putPiece id p m bs pois.isSome)

/-- The response to a piece (R453): performed, kept for another try, or the end of the copy. -/
def State.answerCopy (s : State) (id p : Nat) (resp : Msg) : State :=
  match s.copyOf id with
  | none => s
  | some c =>
    let off := match c.src with
      | .pod _ _ _ a => a + c.srcOff p
      | _ => ((c.dsts.headD c.src).addr) + c.dstOff p
    if resp.status ≠ 0 then s.denyCopy c off (statusCause resp.status)
    else s.putPiece id p 0 (takePad resp.data (c.len p) 0) false

-- COPY, MCAST, CWAIT

/-- The shape of a copy: rows, row bytes, source stride, destination stride; or none where R213 gives INFO 3. -/
def shapeOf (two : Bool) (x : Dword) : Option (Nat × Nat × Nat × Nat) :=
  if two then
    let r := bitsAt x 0 16
    let w := bitsAt x 16 16
    let ss := bitsAt x 32 16
    let ds := bitsAt x 48 16
    if r = 0 ∨ w = 0 ∨ w % 16 ≠ 0 ∨ ss % 16 ≠ 0 ∨ ds % 16 ≠ 0 ∨ (1 < r ∧ ds < w) then none else some (r, w, ss, ds)
  else
    let l := bitsAt x 0 32
    if bitsAt x 32 32 ≠ 0 ∨ l % 16 ≠ 0 ∨ 524288 < l then none else some (1, l, 0, 0)

/-- Whether a footprint lies inside a space of the given size (R213). -/
def footOk (base size rows width stride : Nat) : Bool := base + (rows - 1) * stride + width ≤ size

/-- The INFO of a COPYARG for the operands of a copy, or its shape (R213): alignment, then shape, then footprint. -/
def copyArgs (two : Bool) (x : Dword) (dst dsize src ssize : Nat) : Nat ⊕ (Nat × Nat × Nat × Nat) :=
  if dst % 16 ≠ 0 ∨ src % 16 ≠ 0 then .inl 1
  else match shapeOf two x with
    | none => .inl 3
    | some (r, w, ss, ds) =>
      if !(footOk dst dsize r w ds) || !(footOk src ssize r w ss) then .inl 2 else .inr (r, w, ss, ds)

/-- The two end points of a COPY, its sizes and its barrier, for its resolved levels, or the fault met first (R212, R362,
R378, R452). -/
def Cx.copyEnds (c : Cx) (f : XFmt) (s : State) : (Loc × Nat × Loc × Nat × Place × Bool) ⊕ TrapReq :=
  let fr := (resolveUp c.u.level f.lfrom.toNat).getD 0
  let ctx := c.u.ctx
  let da := c.sl f.sa
  let sa := c.sl f.sb
  let cl := c.who.cluster?.getD 0
  let d := c.who.die
  let loc := fun (lvl : Nat) (a : Dword) =>
    if lvl = 1 then (Loc.core (c.who.core?.getD 0) a.toNat, Config.scratchBytes)
    else if lvl = 2 then (Loc.cluster cl a.toNat, Config.clusterBytes)
    else if lvl = 3 then (Loc.die d a.toNat, Config.dieBytes)
    else (Loc.virt ctx d a.toNat, 2 ^ 57)
  if c.u.level ≤ 1 then
    let to_ := if fr = 2 then 1 else 2
    .inl ((loc to_ da).1, (loc to_ da).2, (loc fr sa).1, (loc fr sa).2, .core (c.who.core?.getD 0), fr = 1)
  else if c.u.level ≤ 3 then
    let to_ := if fr = c.u.level then c.u.level + 1 else c.u.level
    .inl ((loc to_ da).1, (loc to_ da).2, (loc fr sa).1, (loc fr sa).2,
      if c.u.level = 2 then .cluster cl else .die d, false)
  else
    let win := if fr = 5 then sa else da
    let peer := bitsAt win 52 11
    if bitAt win 63 ∨ 1056 < peer then .inr (c.fault 0x41 5 0)
    else
      match s.importOf ctx peer (bitsAt win 48 4) with
      | none => .inr (c.fault 0x1A 0 0)
      | some i =>
        if !(i.flags.testBit (if fr = 5 then 1 else 2)) then .inr (c.fault 0x1A 0 0)
        else
          let pod := Loc.pod peer i.key i.eidx (bitsAt win 0 48)
          if fr = 5 then .inl (.virt ctx 0 da.toNat, 2 ^ 57, pod, i.len, .package, false)
          else .inl (pod, i.len, .virt ctx 0 sa.toNat, 2 ^ 57, .package, false)

/-- Whether a location lies in the SRAM of a die that another context owns (R374). -/
def State.notOwned (s : State) (ctx : Nat) : Loc → Bool
  | .die d _ => (match (s.die d).owner with
    | none => false
    | some o => o != ctx)
  | .core _ _ => false
  | .cluster _ _ => false
  | .virt _ _ _ => false
  | .pod _ _ _ _ => false
  | .host _ => false

/-- A context takes the unowned die whose SRAM it names (R374). -/
def State.claimLoc (s : State) (ctx : Nat) : Loc → State
  | .die d _ => s.claimDie d ctx
  | .core _ _ => s
  | .cluster _ _ => s
  | .virt _ _ _ => s
  | .pod _ _ _ _ => s
  | .host _ => s

/-- COPY (R212 to R214, R362, R378, R452). -/
def execCopy (h : Hdr) (f : XFmt) (s : State) : Host.Outcome State Fault Refusal :=
  issue (.copy h f) h (fun c s =>
    let core := c.u.level ≤ 1
    let b := f.b.toNat
    if core ∧ s.barCount c.who ≤ b then .trap (c.fault 0x42 1 0) s
    else
      match c.copyEnds f s with
      | .inr t => .trap t s
      | .inl (dst, dsize, src, ssize, place, up) =>
        match copyArgs (bitAt f.aux 0) (c.sl (f.vx.setWidth 6)) dst.addr dsize src.addr ssize with
        | .inl info => .trap (c.fault 0x41 info 0) s
        | .inr (r, w, ss, ds) =>
          if s.notOwned c.u.ctx dst || s.notOwned c.u.ctx src then .trap (c.fault 0x41 2 0) s
          else
            let lvl := if core then 1 else if c.u.level ≤ 3 then c.u.level else 4
            let cp : Copy :=
              { id := s.nextId, who := c.who, place := place, up := up, flying := false, ctx := c.u.ctx, src := src,
                dsts := [dst], rows := r, width := w, sstride := ss, dstride := ds, bars := [s.barKey c.who lvl b], done := [],
                failed := [], fw := false, pois := false, tids := [], packet := none, ret := none, mask := 0,
                home := s.blockOf c.who, marked := [], gone := false, got := [], fwAt := 0 }
            if w = 0 then .ok (s.creditCopy cp)
            else if 16 ≤ s.queued cp.queue then .stall .queueFull s
            else
              let s := (s.claimLoc c.u.ctx dst).claimLoc c.u.ctx src
              .ok ({ s with nextId := s.nextId + 1, copies := s.copies ++ [cp] } : State).feedCopies) s

/-- Why a member of a multicast fails at issue (R366), or its barrier. -/
def State.mcastMember (s : State) (ctx core slot bar : Nat) : Option BarKey :=
  match s.block core slot with
  | none => none
  | some b => if b.stream.ctx ≠ ctx ∨ b.bars ≤ bar then none else some (.block core slot bar)

/-- MCAST (R363 to R367). -/
def execMcast (h : Hdr) (f : XFmt) (s : State) : Host.Outcome State Fault Refusal :=
  issue (.mcast h f) h (fun c s =>
    let m := c.sl (f.vy.setWidth 6)
    let dst := (c.sl f.sa).toNat
    let src := (c.sl f.sb).toNat
    let cl := c.who.cluster?.getD 0
    let mask := bitsAt m 0 8
    match copyArgs (bitAt f.aux 0) (c.sl (f.vx.setWidth 6)) dst Config.scratchBytes src Config.clusterBytes with
    | .inl info => .trap (c.fault 0x41 info 0) s
    | .inr (r, w, ss, ds) =>
      if mask = 0 ∨ bitsAt m 56 8 ≠ 0 then .trap (c.fault 0x41 4 0) s
      else
        let mem := (bitsSet mask 8).map (fun k => (8 * cl + k, s.mcastMember c.u.ctx (8 * cl + k) (bitsAt m (8 + 2 * k) 2)
          (bitsAt m (24 + 4 * k) 4)))
        let bad := ((List.range mem.length).zip mem).filterMap (fun p => if p.2.2.isNone then some (p.1, 3) else none)
        let cp : Copy :=
          { id := s.nextId, who := c.who, place := .cluster cl, up := false, flying := false, ctx := c.u.ctx
            src := .cluster cl src, dsts := mem.map (fun p => .core p.1 dst), rows := r, width := w, sstride := ss
            dstride := ds, bars := mem.map (fun p => p.2.getD (.cluster cl 0)), done := [], failed := bad, fw := false
            pois := false, tids := [], packet := none, ret := none, mask := mask, home := s.blockOf c.who, marked := [], gone := false, got := [], fwAt := 0 }
        let sd := f.imm10.toNat % 64
        let none_ := w = 0 || bad.length = mem.length
        if !none_ && 16 ≤ s.queued cp.queue then .stall .queueFull s
        else
          let st := if sd = 0 then (s, 0) else c.async .status s
          let cp := { cp with ret := some (c.passMask, st.2, sd) }
          if none_ then .ok (st.1.creditCopy cp)
          else .ok ({ st.1 with nextId := s.nextId + 1, copies := st.1.copies ++ [cp] } : State).feedCopies) s

/-- Outstanding copies of an issuer (R217). -/
def State.outstanding (s : State) (w : Who) : Nat :=
  (s.copies.filter (fun (c : Copy) => c.who = w && c.packet.isNone && !c.gone)).length

/-- CWAIT (R217). -/
def execCwait (h : Hdr) (f : XFmt) (s : State) : Host.Outcome State Fault Refusal :=
  issue (.cwait h f) h (fun c s =>
    let out := s.outstanding c.who
    if f.imm10.toNat < out then .stall .memory s
    else
      let v : Dword := fieldAt 32 out ||| fieldAt 17 (b2n c.u.cwPois) ||| fieldAt 16 (b2n c.u.cwFw) ||| fieldAt 0 c.u.cwDone
      .ok ((c.asyncNow (fun j => [.s j f.sa.toNat v]) s).updIssuer c.who (fun u =>
        { u with cwDone := 0, cwFw := false, cwPois := false }))) s

-- members that fail, copies that are discarded

/-- Member destination `m` of a multicast fails for a reason (R366): DSTERR gives an error arrival, GONE does not. -/
def State.failMember (s : State) (id m reason : Nat) : State :=
  match s.copyOf id with
  | none => s
  | some c =>
    if c.isOver m then s
    else
      let s := s.updCopy id (fun d => { d with failed := d.failed ++ [(m, reason)] })
      let s := if reason = 1 then (match c.bars[m]? with
        | none => s
        | some k => s.barError k) else s
      s.testCopy id

/-- The block in a slot is gone: it fails as a member of every multicast that names it (R366). -/
def State.goneMembers (s : State) (core slot : Nat) : State :=
  s.copies.foldl (fun s c =>
    if c.ret.isNone then s
    else ((List.range c.dsts.length).zip c.bars).foldl (fun s p => match p.2 with
      | .block k b _ => if k = core ∧ b = slot then s.failMember c.id p.1 2 else s
      | _ => s) s) s

/-- Copies are discarded with their work (R313, R327, R408). -/
def State.dropCopies (s : State) (p : Copy → Bool) : State :=
  let gone := s.copies.filter p
  ({ s with copies := s.copies.filter (fun c => !(p c))
            reqs := s.reqs.filter (fun r => match r.owner with
              | .copy id _ => !(gone.any (fun c => c.id = id))
              | _ => true) } : State).feedCopies

end Sys2Proof.Machine
end

