-- ==== Sys2Proof/Machine/Stockpot.lean ====
section
/-! DEFINITION. Stockpots (R329 to R353): record images, inserts and their combining, groups and JOIN, gates, reductions
(R369 to R372, R454 to R456), and the instructions LAUNCH, JOIN and REDUCE at the levels above the core. -/
namespace Sys2Proof.Machine

-- record images (R331)

def Image.entry (i : Image) : Nat := bitsAt i.ctl 0 32
def Image.tlevel (i : Image) : Nat := bitsAt i.ctl 32 3
def Image.prio (i : Image) : Nat := bitsAt i.ctl 35 7
def Image.op (i : Image) : Nat := bitsAt i.ctl 42 4
def Image.nwords (i : Image) : Nat := bitsAt i.ctl 46 4
def Image.idem (i : Image) : Bool := bitAt i.ctl 50
def Image.nospill (i : Image) : Bool := bitAt i.ctl 51
def Image.trapfull (i : Image) : Bool := bitAt i.ctl 52
def Image.gate0 (i : Image) : Nat := bitsAt i.ctl 56 8
def Image.limit (i : Image) : Nat := bitsAt i.lim 0 12
def Image.gate1 (i : Image) : Nat := bitsAt i.lim 12 8
def Image.group (i : Image) : Nat := bitsAt i.lim 20 12

/-- The image in 64 bytes (R331). -/
def Image.ofBytes (bs : List Byte) : Image :=
  let word := fun (a n : Nat) => Sys2Proof.ofBytes ((bs.drop a).take n)
  { key := BitVec.ofNat 64 (word 0 8), words := (List.range 10).map (fun w => BitVec.ofNat 32 (word (8 + 4 * w) 4))
    ctl := BitVec.ofNat 64 (word 48 8), lim := BitVec.ofNat 32 (word 60 4) }

/-- COUNT in the bytes of an image (R331). -/
def countOf (bs : List Byte) : Nat := Sys2Proof.ofBytes ((bs.drop 56).take 4)

/-- The bytes of an image with a COUNT (R331). -/
def Image.bytes (i : Image) (count : Nat) : List Byte :=
  bytesOf i.key.toNat 8 ++ (i.words.map (fun w => bytesOf w.toNat 4)).flatten ++ bytesOf i.ctl.toNat 8 ++ bytesOf count 4
    ++ bytesOf i.lim.toNat 4

/-- The marks of reduction records and of their roots (R333, R370, R455). -/
def redMark : Nat := 0xFFFFFFFF
def rootMark : Nat := 0xFFFFFFFE

/-- The level of a stockpot: 0 to 31 cluster, 32 to 35 die, 36 package (R329). -/
def potLevel (p : Nat) : Nat := if p < 32 then 2 else if p < 36 then 3 else 4

/-- Slots of a stockpot (R329). -/
def potSize (p : Nat) : Nat := if p < 32 then 1024 else if p < 36 then 2048 else 4096

/-- The stockpot of a level that an issuer reaches (R334). -/
def potOf (w : Who) (lvl : Nat) : Nat := if lvl = 2 then w.cluster?.getD 0 else if lvl = 3 then 32 + w.die else 36

/-- The sequencer at the level of a stockpot. -/
def potSeq (p : Nat) : Who := if p < 32 then .clusterSeq p else if p < 36 then .dieSeq (p - 32) else .packageSeq

/-- Whether this package holds the pod-root role (R429). -/
def State.isRoot (s : State) : Bool := s.podroot != 0x7FF && s.podroot == s.fabid

/-- A malformed gate byte (R333). -/
def gateBad (p g : Nat) : Bool := if g < 128 then g != 0 else g / 16 % 8 < 2 || 4 < g / 16 % 8 || g / 16 % 8 < potLevel p

/-- A malformed image for a stockpot, the TLEVELs of its insert being given (R333). -/
def State.imageBad (s : State) (p : Nat) (levels : List Nat) (i : Image) (count : Nat) : Bool :=
  bitsAt i.ctl 53 3 ≠ 0 || count ≠ 0 || 12 ≤ i.op || 10 < i.nwords || !(levels.contains i.tlevel)
    || (i.tlevel = 5 && !s.isRoot) || gateBad p i.gate0 || gateBad p i.gate1 || i.entry = redMark || i.entry = rootMark

/-- The barrier that a gate byte names in the instance that contains a stockpot (R344). -/
def gateKey (p g : Nat) : BarKey :=
  if g / 16 % 8 = 2 then .cluster p (g % 16)
  else if g / 16 % 8 = 3 then .die (if p < 32 then p / 8 else p - 32) (g % 16)
  else .package (g % 16)

/-- The phase of a barrier as a record of context `ctx` means it: of the instance, or as it was saved with the context's
state (R344, R356). -/
def State.phaseFor (s : State) (k : BarKey) (ctx : Nat) : BitVec 16 :=
  match s.gateBar k ctx with
  | some b => (s.bar b).phase
  | none =>
    let look := fun (bars : List (Nat × Barrier)) (n : Nat) => (Tab.get bars n (Barrier.reset 0)).phase
    match k, s.images.find? (fun i => i.ctx = ctx && (match i.what, k with
      | .cluster n _, .cluster m _ => n = m
      | .die n _, .die m _ => n = m
      | _, _ => false)) with
    | .cluster _ b, some i => (match i.what with
      | .cluster _ bars => look bars b
      | _ => 0)
    | .die _ b, some i => (match i.what with
      | .die _ bars => look bars b
      | _ => 0)
    | _, _ => 0

/-- Whether every gate of a record is open (R344). -/
def State.gatesOpen (s : State) (r : Rec) : Bool :=
  r.gates.all (fun g => (s.phaseFor g.1 r.ctx - g.2).toNat < 0x8000)

/-- The gates of a record created now (R344). -/
def State.gatesOf (s : State) (p ctx : Nat) (i : Image) : List (BarKey × BitVec 16) :=
  ([i.gate0, i.gate1].filter (fun g => 128 ≤ g)).map (fun g => (gateKey p g, s.phaseFor (gateKey p g) ctx + 1))

-- operators (R340)

/-- combine(o, n) (R340). -/
def combineWord (op : Nat) (o n : Word) : Word :=
  if op = 1 then o + n
  else if op = 2 then BitVec.ofNat 32 (fAdd 9 0 (decodeFp 9 o.toNat) (decodeFp 9 n.toNat)).1
  else if op = 3 then (if n.toInt < o.toInt then n else o)
  else if op = 4 then (if o.toInt < n.toInt then n else o)
  else if op = 5 then (if n < o then n else o)
  else if op = 6 then (if o < n then n else o)
  else if op = 7 then o ||| n
  else if op = 8 then o &&& n
  else if op = 10 then n
  else if op = 11 then o + (if n = 0 then 0 else 1)
  else o

/-- The words of a waiting image after a combine (R336): its own NWORDS count. -/
def Image.combine (m n : Image) : Image :=
  { m with words := (List.range 10).map (fun w =>
      if w < m.nwords then combineWord m.op (m.words.getD w 0) (n.words.getD w 0) else m.words.getD w 0) }

/-- The words of an image at its creation (R336): under COUNT each declared word is 1 or 0. -/
def Image.created (i : Image) : Image :=
  if i.op = 11 then { i with words := (List.range 10).map (fun w =>
    if w < i.nwords then (if i.words.getD w 0 = 0 then 0 else 1) else i.words.getD w 0) } else i

-- groups (R349)

/-- Whether an entry of a group table is in use: it counts records, or a JOIN waits on it (R349). -/
def Group.live (g : Group) : Bool := g.count ≠ 0 || !g.joiners.isEmpty
def Pot.group (p : Pot) (ctx g : Nat) : Option Group := (p.groups.find (ctx, g)).filter Group.live
def Pot.groupsUsed (p : Pot) : Nat := (p.groups.filter (fun e => e.2.live)).length

/-- A record of a group is created (R349). -/
def Pot.enter (p : Pot) (ctx g : Nat) : Pot :=
  if g = 0 then p
  else match p.group ctx g with
    | some e => { p with groups := p.groups.put (ctx, g) { e with count := e.count + 1 } }
    | none => { p with groups := p.groups.put (ctx, g) { count := 1, errs := 0, joiners := [] } }

/-- A record of a group has retired (R349): the entry goes where nothing needs it. -/
def Pot.leave (p : Pot) (ctx g : Nat) (err : Bool) : Pot :=
  match p.group ctx g with
  | none => p
  | some e =>
    let e := { e with count := e.count - 1, errs := e.errs + b2n err }
    { p with groups := if e.live then p.groups.put (ctx, g) e else p.groups.drop (ctx, g) }

-- inserting (R336)

/-- How an insert ends at its arrival (R336): in a record, combined or not, with the COUNT it returns; refused by a
NOSPILL match; or for want of a slot or a group entry. -/
inductive InsEnd where
  | ok (slot : Nat) (comb : Bool) (count : Nat)
  | full (count : Nat)
  | noSlot
  deriving DecidableEq, Repr

/-- Whether a record waits as the match of an image (R336), sealed or not. -/
def Rec.same (r : Rec) (ctx : Nat) (i : Image) : Bool :=
  r.st == RecSt.waiting && !r.gateErr && r.ctx = ctx && r.img.key == i.key && r.img.entry = i.entry && r.img.op = i.op && i.op ≠ 0

/-- The lowest free slot of a stockpot. -/
def State.freeSlot (s : State) (p : Nat) : Option Nat :=
  if potSize p ≤ (s.pot p).recs.length then none
  else (List.range ((s.pot p).recs.length + 1)).find? (fun n => ((s.pot p).recs.find n).isNone)

/-- Slot `n` of a stockpot changed by `f`. -/
def State.updRec (s : State) (p n : Nat) (f : Rec → Rec) : State :=
  s.updPot p (fun e => match e.recs.find n with
    | none => e
    | some r => { e with recs := e.recs.put n (f r) })

/-- Whether a count seals a record (R336). -/
def sealsAt (limit count : Nat) : Bool := (limit ≠ 0 && count = limit) || count = 2 ^ 32 - 1

/-- A record that an insert creates (R332, R336). -/
def State.newRec (s : State) (p ctx : Nat) (i : Image) (timeout podN : Option Nat) : Rec :=
  { ctx := ctx, img := i.created, count := 1, st := .waiting, sealed := if i.limit = 1 then some .limit else none, created := s.tb,
    order := (s.pot p).nextOrder, gates := s.gatesOf p ctx i, gateErr := false, home := p,
    groups := if i.group = 0 then [] else [(p, i.group)], runner := none, contribs := [], from_ := [], flushed := none,
    result := none, timeout := timeout.map (fun t => s.tb + 1000 * t), packets := [], partition := [],
    podN := podN, cutAt := none }

/-- An insert at its arrival point (R336). -/
def State.tryInsert (s : State) (p ctx : Nat) (i : Image) (timeout podN : Option Nat) : State × InsEnd :=
  let q := s.pot p
  match q.recs.find? (fun r => r.2.same ctx i && r.2.sealed.isNone) with
  | some (n, m) =>
    let c := m.count
    let m' := { m with img := m.img.combine i, count := c + 1,
                       sealed := if sealsAt m.img.limit (c + 1) then some .limit else none }
    ((s.updRec p n (fun _ => m')).wakeSeq (potSeq p), .ok n true c)
  | none =>
    match (if i.nospill then q.recs.find? (fun r => r.2.same ctx i && r.2.sealed == some SealWhy.limit) else none) with
    | some (_, m) => (s, .full m.count)
    | none =>
      match s.freeSlot p with
      | none => (s, .noSlot)
      | some n =>
        if i.group ≠ 0 && (q.group ctx i.group).isNone && 256 ≤ q.groupsUsed then (s, .noSlot)
        else
          let r := s.newRec p ctx i timeout podN
          let s := s.updPot p (fun e => { e.enter ctx i.group with recs := e.recs.put n r, nextOrder := e.nextOrder + 1 })
          (s.wakeSeq (potSeq p), .ok n false 0)

-- reductions (R370 to R372, R455, R456)

/-- Whether a record is a reduction's (R370). -/
def Rec.isRed (r : Rec) : Bool := r.img.entry = redMark || r.img.entry = rootMark

/-- The two result words of a reduction as one value (R371). -/
def twoWords (l : List Word) : Dword := (l.getD 1 0) ++ (l.getD 0 0)

/-- The results of a contribution return (R371): its words and its status word. -/
def State.giveRed (s : State) (w : Who) (sm : BitVec 8) (tag sd : Nat) (v st : Dword) : State :=
  (s.updIssuer w (fun u => (slicesOf sm).foldl (fun u j => u.complete tag j [.s j sd v, .s j (sd + 1) st] true none) u)).wakeSeq w

/-- The status word of a reduction (R371). -/
def redStatus (st order count : Nat) : Dword := fieldAt 56 st ||| fieldAt 32 (order % 4096) ||| fieldAt 0 (count % 2 ^ 32)

/-- A reduction record completes (R371, R372, R456): every contributor's result is on its way to its marker. -/
def State.completeRed (s : State) (p n st : Nat) (words : List Word) (count : Nat) : State :=
  match (s.pot p).recs.find n with
  | none => s
  | some r =>
    let s := s.updRec p n (fun r => { r with result := some (words, st, count), sealed := some (r.sealed.getD .flush) })
    r.contribs.foldl (fun s k => s.giveRed k.who k.smask k.tag k.sd (twoWords words) (redStatus st k.order count)) s

/-- The message of a partial (R438, R455): the words, then the count expected in all. -/
def partialMsg (r : Rec) (n : Nat) : Msg :=
  { Msg.to (bitsAt r.img.key 0 11) 2 9 with
    eidx := r.ctx, offset := r.img.key, aop := r.img.op, count := r.count, size := 2
    data := ((r.img.words.take 2).map (fun w => bytesOf w.toNat 4)).flatten ++ bytesOf n 8 }

/-- An intermediate record is flushed (R455): sealed, its partial sent or kept to be sent when a path returns. -/
def State.flushRed (s : State) (n : Nat) : State :=
  match (s.pot 36).recs.find n with
  | none => s
  | some r =>
    match r.podN, r.flushed with
    | some k, none =>
      let cut := if s.hasPath (bitsAt r.img.key 0 11) then none else some s.tb
      let s := s.updRec 36 n (fun r => { r with flushed := some s.nextTid, sealed := some (r.sealed.getD .flush), cutAt := cut })
      let m := partialMsg r k
      if s.hasPath m.dest then s.sendReq (.partial_ n) m
      else { s with nextTid := s.nextTid + 1,
                    reqs := s.reqs ++ [{ tid := s.nextTid, owner := .partial_ n, msg := { m with tid := s.nextTid }, sentAt := s.tb,
                                         retry := true }] }
    | _, _ => s

/-- A contribution has arrived (R370, R455): noted in its record, which completes or is flushed when it is sealed. -/
def State.contribute (s : State) (p n : Nat) (k : Contrib) : State :=
  let s := s.updRec p n (fun r => { r with contribs := r.contribs ++ [k] })
  match (s.pot p).recs.find n with
  | none => s
  | some r =>
    if r.sealed.isNone || r.result.isSome then s
    else if r.podN.isSome then s.flushRed n
    else s.completeRed p n 0 r.img.words r.count

/-- Whether a contributor has still to collect (R371): a result of its contribution is pending or set aside. -/
def State.collecting (s : State) (k : Contrib) : Bool :=
  match s.issuer k.who with
  | none => false
  | some u => k.smask != 0 && (u.flights ++ (u.saved.map (fun v => v.flights)).getD []).any (fun f => f.tag = k.tag && f.kind != .fixed)

/-- REDUCE_TIMEOUT (R372). -/
def execReduceTimeout (p n : Nat) (s : State) : Host.Outcome State Fault Refusal :=
  match (if s.stopped then none else (s.pot p).recs.find n) with
  | none => .next s
  | some r =>
    if r.img.entry = redMark && r.result.isNone && r.podN.isNone && r.timeout.any (fun t => t ≤ s.tb) then
      .next (s.completeRed p n 5 r.img.words r.count)
    else .next s

/-- INTERMEDIATE_FLUSH (R455). -/
def execIntermediateFlush (n : Nat) (s : State) : Host.Outcome State Fault Refusal :=
  match (if s.stopped then none else (s.pot 36).recs.find n) with
  | none => .next s
  | some r => if r.result.isNone && r.timeout.any (fun t => t ≤ s.tb) then .next (s.flushRed n) else .next s

-- the answers to an insert

/-- The status word of an insert (R337). -/
def insStatus (st : Nat) (comb : Bool) (count : Nat) : Dword := fieldAt 56 st ||| fieldAt 55 (b2n comb) ||| fieldAt 0 (count % 2 ^ 32)

/-- A response to message `m` (R438, R448). -/
def State.respond (s : State) (m : Msg) (status : Nat) (data : List Byte) : State :=
  s.sendMsg { m with dest := m.src, op := 11, status := status, rsv := false, data := data }

/-- The request of a held message id's sender, for the answer to a remote insert (R450). -/
def State.answerRemote (s : State) (src tid : Nat) (v : Dword) : State :=
  s.respond { Msg.to 0 2 7 with src := src, tid := tid } 0 (bytesOf v.toNat 8)

/-- JOINs of peers that wait on a group of the package stockpot are answered once its count is zero (R350, R451). -/
def State.answerJoiners (s : State) (ctx g : Nat) : State :=
  match (s.pot 36).group ctx g with
  | none => s
  | some e =>
    if e.count ≠ 0 then s
    else
      let v := fieldAt 56 (if e.errs = 0 then 0 else 9) ||| fieldAt 0 (e.errs % 2 ^ 32)
      let left := { e with joiners := e.joiners.filter (fun j => match j with
        | .remote _ _ => false
        | .issuer _ _ => true) }
      let s := s.updPot 36 (fun q => { q with groups := if left.live then q.groups.put (ctx, g) left else q.groups.drop (ctx, g) })
      e.joiners.foldl (fun s j => match j with
        | .remote src tid => s.respond { Msg.to 0 2 8 with src := src, tid := tid } 0 (bytesOf v.toNat 8)
        | .issuer _ _ => s) s

/-- Insert `id` is over. -/
def State.dropInsert (s : State) (id : Nat) : State := { s with inserts := s.inserts.filter (fun p => p.id ≠ id) }

/-- Insert `id` changed by `f`. -/
def State.updInsert (s : State) (id : Nat) (f : PendIns → PendIns) : State :=
  { s with inserts := updateFirst (fun (p : PendIns) => p.id = id) f s.inserts }

/-- An arm entry of a die changed by `f`. -/
def State.updArm (s : State) (d e : Nat) (f : Arm → Arm) : State :=
  s.updDie d (fun x => match x.arms.find e with
    | none => x
    | some a => { x with arms := x.arms.put e (f a) })

/-- Nothing has been inserted: SPFULL is due (R338, R450), where the issuer has not ended meanwhile. The image has been read, and is what
another attempt inserts (R173, R335; notes/assumptions 170: DEDUCED). -/
def State.insSpfull (s : State) (p : PendIns) (i : Image) : State :=
  match p.src with
  | .remote src tid => (s.dropInsert p.id).answerRemote src tid (fieldAt 56 0x43)
  | _ =>
    if p.src.by.any (fun x => p.frag = 0 || ((s.issuer x.1).map (fun u => u.ended)).getD true) then s.dropInsert p.id
    else s.updInsert p.id (fun p => { p with spfull := true, stalled := false, img := some i })

/-- The word that a contribution puts into a reduction, as its own result (R371). -/
def PendIns.own (p : PendIns) : Dword := twoWords ((p.img.map (fun i => i.words)).getD [])

/-- Packet `seq`, and a doubleword of its slot (R416). -/
def State.packet (s : State) (seq : Nat) : Option Packet := s.packets.find? (fun p => p.seq = seq)
def Packet.word (p : Packet) (i : Nat) : Dword := BitVec.ofNat 64 (Sys2Proof.ofBytes ((p.body.drop (8 * i)).take 8))

/-- A packet has one record fewer to wait for (R417, R418): `err` where its root retired in error. -/
def State.packetRetire (s : State) (seq : Nat) (err : Bool) : State :=
  { s with packets := s.packets.map (fun (p : Packet) =>
      if p.seq = seq && p.status.isNone then
        let p := { p with open_ := p.open_ - 1, rootErr := p.rootErr || err }
        if p.open_ = 0 then { p with status := some (if p.late ≠ 0 then p.late else if p.rootErr then 9 else 0) } else p
      else p) }

/-- The image of a packet is refused: of its root, which ends the packet, or of its collective, which leaves the root running
(R417, R418). -/
def State.packetRefuse (s : State) (seq st addr : Nat) : State :=
  if (s.packet seq).any (fun p => !p.part.isEmpty) then
    ({ s with packets := s.packets.map (fun (p : Packet) => if p.seq = seq then { p with late := st } else p) } : State).packetRetire
      seq false
  else s.packetDone seq st 0 addr

/-- An insert is refused with a status of R337: BUSY, FULL, BADREC or, from a peer, NOPEER. -/
def State.insRefuse (s : State) (p : PendIns) (st count : Nat) : State :=
  let s := s.dropInsert p.id
  match p.src with
  | .launch w m tag sd c => if sd = 0 then s else s.deliver w tag sd (slicesOf m) (insStatus st false (if c then count else 0))
  | .reduce w m tag sd => s.giveRed w m tag sd p.own (redStatus st 0 0)
  | .arm _ _ => s
  | .packet q => s.packetRefuse q (if st = 3 then 2 else if st = 2 then 7 else st) (if st = 3 then p.addr.toNat else 0)
  | .remote src tid => s.answerRemote src tid (insStatus st false count)

/-- The insert of a firing (R399). -/
def armIns (id d e : Nat) (a : Arm) (img : Image) : PendIns :=
  { id := id, pot := if a.level = 3 then 32 + d else 36, ctx := a.ctx, die := d, src := .arm d e, space := 0, addr := 0, bad := false,
    img := some img, key := none, words01 := none, nb := false, ns := false, level := a.level, timeout := none, podN := none,
    seq := 0, frag := 0, dbg := false, old := false, spfull := false, stalled := false, again := false, sent := none, ghost := none }

/-- The image of a tag firing: words 0 and 1 take the payload address (R398). -/
def Arm.withPayload (a : Arm) (v : Dword) : Image :=
  { a.img with words := [v.setWidth 32, v.extractLsb' 32 32] ++ a.img.words.drop 2 }

/-- A firing is over (R398, R399): its insert has arrived, or was dropped. A one-shot arm goes; a persistent one sends the
next message that waits behind it. -/
def State.fireOver (s : State) (d e : Nat) : State :=
  match (s.die d).arms.find e with
  | none => s
  | some a =>
    let a := { a with fired := a.fired + 1, waiting := none }
    if (a.isTag && !a.persist) || (!a.isTag && a.period.toNat = 0) then
      s.updDie d (fun x => { x with arms := x.arms.drop e })
    else match a.backlog with
      | [] => s.updArm d e (fun _ => a)
      | v :: r =>
        let p := armIns s.nextId d e a (a.withPayload v)
        ({ s with nextId := s.nextId + 1, inserts := s.inserts ++ [p] } : State).updArm d e
          (fun _ => { a with waiting := some p.id, backlog := r })

/-- The insert of a firing is dropped (R399): logged as KIND 7 with its STATUS or SPFULL. -/
def State.dropFiring (s : State) (p : PendIns) (d e info : Nat) : State :=
  let s := (s.dropInsert p.id).logDie d 0 p.ctx 7 7 info
  (s.updDie d (fun x => { x with dropped := BitVec.ofNat 16 (satAt 16 (x.dropped.toNat + 1)) })).fireOver d e

/-- An insert has ended in a record (R336): its issuer, reduction, arm, packet or peer learns of it. -/
def State.insArrived (s : State) (p : PendIns) (n : Nat) (comb : Bool) (count : Nat) : State :=
  let s := s.dropInsert p.id
  match p.src with
  | .launch w m tag sd c => if sd = 0 then s else s.deliver w tag sd (slicesOf m) (insStatus 0 comb (if c then count else 0))
  | .reduce w m tag sd => s.contribute p.pot n { who := w, smask := m, tag := tag, sd := sd, order := count }
  | .arm d e => s.fireOver d e
  | .packet q =>
    let part := ((s.packet q).map (fun x => x.part)).getD []
    s.updRec p.pot n (fun r => { r with packets := r.packets ++ [q], partition := if part.isEmpty then r.partition else part })
  | .remote src tid => s.answerRemote src tid (insStatus 0 comb count)

/-- TLEVELs that an insert may carry (R333, R417, R450). -/
def PendIns.levels (p : PendIns) : List Nat := match p.src with
  | .launch _ _ _ _ _ => [p.level - 1]
  | .reduce _ _ _ _ => [p.level]
  | .arm _ _ => [1, 2, 3, 4]
  | .packet _ => [1, 2, 3, 4, 5]
  | .remote _ _ => [4]

/-- The address of a refused image is logged (R333): in the log of the die that owns the stockpot, or of the package. -/
def State.logImage (s : State) (pot addr ctx : Nat) : State :=
  if pot < 36 then s.logDie (if pot < 32 then pot / 8 else pot - 32) addr ctx 3 3 0 else s.logPkg addr ctx 3 3 0

/-- The 64 bytes of an image (R333, R335): a read of the issuer in one of its spaces. -/
def State.readImage (s : State) (w : Who) (die ctx space : Nat) (a : Dword) : Attempt (List Byte) :=
  if a.toNat % 64 ≠ 0 then .bad 0x10
  else if space = 4 then (if bitsAt a 57 7 ≠ 0 then .bad 0x11 else s.virtRead die ctx a.toNat 64 kRead)
  else if spaceSize space < a.toNat + 64 || (space = 3 && s.notOwned ctx (.die die 0)) then .bad 0x11
  else match flatOf w.core? w.cluster? die space a.toNat with
    | none => .bad 0x11
    | some k => if s.poisoned k 64 then .bad 0x13 else .ok (s.mem.read k 64)

/-- Whether an attempt to read an image reads die space: the access that makes a context the owner of an unowned die (R374), whatever
the image is like. -/
def State.readsDie (s : State) (w : Who) (die ctx space : Nat) (a : Dword) : Bool :=
  space = 3 && (match s.readImage w die ctx space a with
    | .wait => false
    | .bad k => k = 0x13
    | .ok _ => true)

/-- The image of an insert with what replaces parts of it (R336). -/
def PendIns.edit (p : PendIns) (i : Image) : Image :=
  let i := match p.key with
    | none => i
    | some k => { i with key := k }
  let i := match p.words01 with
    | none => i
    | some v => { i with words := [v.setWidth 32, v.extractLsb' 32 32] ++ i.words.drop 2 }
  if p.ns then { i with ctl := i.ctl ||| (1 <<< 51) } else i

/-- Whether an insert leaves for a peer's stockpot (R450). -/
def PendIns.leaves (p : PendIns) : Bool := p.level = 5 && p.podN.isNone

/-- Whether an earlier insert of the same issuer into the same stockpot has still to arrive (R335). -/
def State.insBehind (s : State) (p : PendIns) : Bool :=
  match p.src.by with
  | none => false
  | some x => (s.inserts.takeWhile (fun q => q.id ≠ p.id)).any (fun q => q.src.by.any (fun y => y.1 = x.1) && q.ghost = p.ghost && q.pot = p.pot && q.leaves == p.leaves && !q.spfull)

/-- An insert with its image at hand arrives at its stockpot (R336 to R338, R399). -/
def State.arriveInsert (s : State) (p : PendIns) (i : Image) : State :=
  let stall := fun (s : State) => s.updInsert p.id (fun p => { p with stalled := true, img := some i })
  match s.tryInsert p.pot p.ctx i p.timeout p.podN with
  | (s', .ok n comb count) => s'.insArrived p n comb count
  | (_, .full count) =>
    (match p.src with
      | .arm d e => s.dropFiring p d e (if i.trapfull then 0x43 else 2)
      | .packet _ => s.insRefuse p 2 count
      | _ => if i.trapfull then s.insSpfull p i else s.insRefuse p 2 count)
  | (_, .noSlot) =>
    (match p.src with
      | .arm d e => if i.trapfull then s.dropFiring p d e 0x43 else stall s
      | .packet _ => if i.trapfull then s.insRefuse p 2 0 else stall s
      | _ =>
        if i.trapfull then s.insSpfull p i
        else if p.nb then s.insRefuse p 1 0
        else stall s)

/-- The message of an insert at pod level (R438, R450). -/
def insertMsg (p : PendIns) (i : Image) : Msg :=
  { Msg.to (bitsAt i.key 0 11) 2 7 with
    eidx := p.ctx, offset := i.key, size := 6, aop := b2n p.nb, count := 1, data := i.bytes 0 }

/-- An insert at pod level leaves for its package (R450). -/
def State.sendInsert (s : State) (p : PendIns) (i : Image) : State :=
  let d := bitsAt i.key 0 11
  if 1056 < d || !(s.hasPath d) then s.insRefuse p 5 0
  else (s.updInsert p.id (fun p => { p with sent := some s.nextTid, img := some i })).sendReq (.insert p.id) (insertMsg p i)

/-- The party that reads the image of an insert. -/
def PendIns.reader (p : PendIns) : Who := match p.src.by with
  | none => .packageSeq
  | some x => x.1

/-- The image of an insert is at hand, malformed, or still to come. -/
def State.insImage (s : State) (p : PendIns) : Attempt Image :=
  match p.img with
  | some i => .ok (p.edit i)
  | none =>
    if p.bad then .bad 0
    else
      match s.readImage p.reader p.die p.ctx p.space p.addr with
        | .wait => .wait
        | .bad k => .bad k
        | .ok bs => if s.imageBad p.pot p.levels (p.edit (Image.ofBytes bs)) (countOf bs) then .bad 0 else .ok (p.edit (Image.ofBytes bs))

/-- An insert is attempted (R335, R336) once the earlier stores of its fragment have been performed, which it releases (R292, R303,
R304, R371). A first read of its image in die space makes the context the owner of the die (R374). -/
def State.attemptInsert (s : State) (p : PendIns) : State :=
  if p.spfull || p.sent.isSome || s.insBehind p
      || p.src.by.any (fun x => x.1.isSaved || s.storesAhead x.1 p.frag p.dbg p.seq) then s
  else
    let s := if p.img.isNone && s.readsDie p.reader p.die p.ctx p.space p.addr then s.claimDie p.die p.ctx else s
    match s.insImage p with
    | .wait => s
    | .bad _ => ((s.logImage p.pot p.addr.toNat p.ctx).insRefuse p 3 0)
    | .ok i =>
      let s := s.updInsert p.id (fun p => { p with again := false })
      let p := { p with again := false }
      if p.leaves && p.src.by.isSome then s.sendInsert p i else s.arriveInsert p i

-- LAUNCH

/-- LAUNCH at levels 2 to 5 (R334, R335). -/
def launchPotBody (f : LFmt) (c : Cx) (s : State) : Res :=
  let lvl := (resolve c.u.level f.lvl.toNat).getD 2
  let sd := f.sd.toNat
  let st := if sd = 0 then (s, 0) else c.async .status s
  let p : PendIns :=
    { id := s.nextId, pot := potOf c.who lvl, ctx := c.u.ctx, die := c.who.die, src := .launch c.who c.passMask st.2 sd f.c,
      space := bitsAt f.imm 0 3, addr := c.sl f.se, bad := false, img := none,
      key := if f.sk = 0 then none else some (c.sl f.sk), words01 := if f.sp = 0 then none else some (c.sl f.sp), nb := f.nb,
      ns := f.ns, level := lvl, timeout := none, podN := none, seq := c.u.logSeq, frag := BitVec.ofNat 8 (maskOf c.slices),
      dbg := c.fr.isDbg, old := false, spfull := false, stalled := false, again := false, sent := none, ghost := none }
  .ok { st.1 with nextId := s.nextId + 1, inserts := st.1.inserts ++ [p] }

/-- LAUNCH, by its resolved level. -/
def launchBody (f : LFmt) (c : Cx) (s : State) : Res :=
  if resolve c.u.level f.lvl.toNat = some 1 then launchCoreBody f c s else launchPotBody f c s

def execLaunchCore (h : Hdr) (f : LFmt) (s : State) : Host.Outcome State Fault Refusal := issue (.launchCore h f) h (launchBody f) s
def execLaunchStockpot (h : Hdr) (f : LFmt) (s : State) : Host.Outcome State Fault Refusal := issue (.launchStockpot h f) h (launchBody f) s

-- JOIN

/-- The result word of a stockpot JOIN (R350). -/
def joinStatus (st failed : Nat) : Dword := fieldAt 56 st ||| fieldAt 0 (failed % 2 ^ 32)

/-- A group whose count is zero, with its error retirements; none while records are counted (R350). -/
def State.groupOver (s : State) (p ctx g : Nat) : Option Nat :=
  match (s.pot p).group ctx g with
  | none => some 0
  | some e => if e.count = 0 then some e.errs else none

/-- A joiner waits on a group, or no longer (R349). -/
def State.addJoiner (s : State) (p ctx g : Nat) (j : Joiner) : State :=
  s.updPot p (fun q => match q.group ctx g with
    | none => q
    | some e => { q with groups := q.groups.put (ctx, g) { e with joiners := j :: e.joiners.filter (fun x => x != j) } })
def State.dropJoiner (s : State) (p ctx g : Nat) (j : Joiner) : State :=
  s.updPot p (fun q => match q.group ctx g with
    | none => q
    | some e =>
      let e := { e with joiners := e.joiners.filter (fun x => x != j) }
      { q with groups := if e.live then q.groups.put (ctx, g) e else q.groups.drop (ctx, g) })

/-- The request of a JOIN at pod level (R451). -/
def joinMsg (peer ctx g : Nat) : Msg := { Msg.to peer 2 8 with eidx := ctx, offset := BitVec.ofNat 64 g, count := 1 }

/-- JOIN at levels 2 to 5 (R350, R451). -/
def joinPotBody (f : LFmt) (c : Cx) (s : State) : Res :=
  let lvl := (resolve c.u.level f.lvl.toNat).getD 2
  let x := c.sl f.sk
  let g := bitsAt x 0 16
  let done := fun (v : Dword) (s : State) => Res.ok (c.asyncNow (fun j => [.s j f.sd.toNat v]) s)
  if g = 0 ∨ 4095 < g then done (joinStatus 6 0) s
  else if lvl = 5 then
    let peer := bitsAt x 16 11
    match c.fr.wait with
    | .joinDone v => done v s
    | .joinSent _ => .stall .stockpot s
    | _ =>
      if bitsAt x 27 37 ≠ 0 || 1056 < peer || !(s.hasPath peer) then done (joinStatus 7 0) s
      else .stall .stockpot ((s.setWait c.who c.entry (.joinSent s.nextTid)).sendReq (.join c.who c.entry) (joinMsg peer c.u.ctx g))
  else
    let p := potOf c.who lvl
    let j := Joiner.issuer c.who c.entry
    match s.groupOver p c.u.ctx g with
    | some errs => done (joinStatus (if errs = 0 then 0 else 9) errs) (s.dropJoiner p c.u.ctx g j)
    | none => .stall .stockpot (s.addJoiner p c.u.ctx g j)

/-- JOIN, by its resolved level. -/
def joinBody (f : LFmt) (c : Cx) (s : State) : Res :=
  if resolve c.u.level f.lvl.toNat = some 1 then joinCoreBody f c s else joinPotBody f c s

def execJoinCore (h : Hdr) (f : LFmt) (s : State) : Host.Outcome State Fault Refusal := issue (.joinCore h f) h (joinBody f) s
def execJoinStockpot (h : Hdr) (f : LFmt) (s : State) : Host.Outcome State Fault Refusal := issue (.joinStockpot h f) h (joinBody f) s

/-- The fragment that waits for the answer to a JOIN has it (R451), also where a trap has set its table aside. -/
def State.answerJoin (s : State) (w : Who) (tid : Nat) (v : Dword) : State :=
  let go := fun (t : Tab Nat Frag) => t.map (fun p =>
    let here := fun (x : Wait) => if x = .joinSent tid then .joinDone v else x
    if p.2.wait = .joinSent tid || p.2.wait2 = .joinSent tid then
      (p.1, { p.2 with wait := here p.2.wait, wait2 := here p.2.wait2, st := if p.2.st == FragSt.blocked then .eligible else p.2.st })
    else p)
  s.updIssuer w (fun u => { u with frags := go u.frags, saved := u.saved.map (fun v => { v with frags := go v.frags }) })

-- REDUCE

/-- The image of a contribution (R370, R455). -/
def redImage (key v : Dword) (op limit tlevel mark : Nat) : Image :=
  { key := key, words := [v.setWidth 32, v.extractLsb' 32 32] ++ List.replicate 8 0
    ctl := fieldAt 0 mark ||| fieldAt 32 tlevel ||| fieldAt 35 127 ||| fieldAt 42 op ||| fieldAt 46 2
    lim := BitVec.ofNat 32 limit }

/-- REDUCE, by its resolved level (R369, R370, R454, R455): every slice of the fragment receives its result (R373). -/
def reduceBody (f : LFmt) (c : Cx) (s : State) : Res :=
  let lvl := (resolve c.u.level f.lvl.toNat).getD 2
  let key := c.sl f.sk
  let v := c.sl f.sp
  let n := bitsAt f.imm 0 12
  let us := bitsAt f.imm 16 16
  let sd := f.sd.toNat
  let root := bitsAt key 0 11
  let nl := bitsAt (c.sl f.se) 0 12
  if lvl = 5 && (1056 < root || !(s.hasPath root)) then
    .ok ({ c with pass := c.slices }.asyncNow (fun j => [.s j sd v, .s j (sd + 1) (redStatus 7 0 0)]) s)
  else
    let st := { c with pass := c.slices }.async .status s
    let p : PendIns :=
      { id := s.nextId, pot := if lvl = 5 then 36 else potOf c.who lvl, ctx := c.u.ctx, die := c.who.die,
        src := .reduce c.who (BitVec.ofNat 8 (maskOf c.slices)) st.2 sd, space := 0, addr := 0, bad := false,
        img := some (redImage key v f.op.toNat (if lvl = 5 && nl ≠ 0 then nl else n) (if lvl = 5 then 4 else lvl) redMark),
        key := none, words01 := none, nb := f.nb, ns := false, level := lvl, timeout := if us = 0 then none else some us,
        podN := if lvl = 5 then some n else none, seq := c.u.logSeq, frag := BitVec.ofNat 8 (maskOf c.slices), dbg := c.fr.isDbg,
        old := false, spfull := false, stalled := false, again := false, sent := none, ghost := none }
    .ok { st.1 with nextId := s.nextId + 1, inserts := st.1.inserts ++ [p] }

def execReduce (h : Hdr) (f : LFmt) (s : State) : Host.Outcome State Fault Refusal := issue (.reduce h f) h (reduceBody f) s
def execReducePod (h : Hdr) (f : LFmt) (s : State) : Host.Outcome State Fault Refusal := issue (.reducePod h f) h (reduceBody f) s

end Sys2Proof.Machine
end

