-- ==== Sys2Proof/Machine/Arms.lean ====
section
/-! DEFINITION. Armed launches (R395 to R401): ARM and DISARM, the arm table of a die, and the firings of time and tag arms. -/
namespace Sys2Proof.Machine

/-- The status word of an ARM (R400). -/
def armStatus (st handle : Nat) : Dword := fieldAt 56 st ||| fieldAt 0 handle

/-- A waiting ARM is over with a status (R396, R400, R418). -/
def State.armOver (s : State) (p : PendArm) (st handle : Nat) : State :=
  let s : State := { s with pendArms := s.pendArms.filter (fun q => q.id ≠ p.id) }
  let s := match p.who with
    | none => s
    | some (w, m, tag) => if p.sd = 0 then s else s.deliver w tag p.sd (slicesOf m) (armStatus st handle)
  match p.packet with
  | none => s
  | some q => s.packetDone q (if st = 3 then 2 else if st = 7 then 8 else if st = 4 then 1 else st) 0 (if st = 3 then p.addr.toNat else 0)

/-- Whether a live tag arm of the package has a context and tag (R396). -/
def State.tagArmed (s : State) (ctx : Nat) (tag : Dword) : Bool :=
  (List.range 4).any (fun d => (s.die d).arms.any (fun a => a.2.isTag && a.2.ctx = ctx && a.2.arg = tag))

/-- The party that reads the image of an ARM. -/
def PendArm.reader (p : PendArm) : Who := match p.who with
  | none => .packageSeq
  | some x => x.1

/-- The image of an ARM is at hand, malformed, or still to come (R396). -/
def State.armImage (s : State) (p : PendArm) : Attempt Image :=
  if p.stalled then .ok p.arm.img
  else if p.bad then .bad 0
  else
    let w := p.reader
    if w.isSaved || s.storesAhead w p.frag p.dbg p.seq then .wait
    else match s.readImage w p.die p.ctx p.space p.addr with
      | .wait => .wait
      | .bad k => .bad k
      | .ok bs =>
        let i := Image.ofBytes bs
        if s.imageBad (if p.arm.level = 3 then 32 + p.die else 36) (if p.arm.level = 3 then [1, 2] else [1, 2, 3, 4]) i (countOf bs)
        then .bad 0 else .ok i

/-- An ARM reaches its die's arm table (R396, R397). -/
def State.attemptArm (s : State) (id : Nat) : State :=
  match s.pendArms.find? (fun p => p.id = id) with
  | none => s
  | some p =>
    let s0 := s
    let s := if !p.stalled && s.armImage p != .wait && s.readsDie p.reader p.die p.ctx p.space p.addr then s.claimDie p.die p.ctx else s
    match s0.armImage p with
    | .wait => s
    | .bad _ => (s.logImage (if p.arm.level = 3 then 32 + p.die else 36) p.addr.toNat p.ctx).armOver p 3 0
    | .ok i =>
      if p.badArg then s.armOver p 4 0
      else if p.arm.isTag && s.tagArmed p.ctx p.arm.arg then s.armOver p 7 0
      else
        let x := s.die p.die
        let ahead := (s.pendArms.takeWhile (fun q => q.id ≠ id)).any (fun q => q.die = p.die && q.stalled)
        if 4096 ≤ x.arms.length || ahead then
          if p.nb then s.armOver p 1 0
          else { s with pendArms := s.pendArms.map (fun q =>
            if q.id = id then { q with stalled := true, arm := { q.arm with img := i } } else q) }
        else
          let e := ((List.range 4096).find? (fun n => (x.arms.find n).isNone)).getD 0
          let gen := (x.armGens.get e 0 + 1) % 2 ^ 16
          let a := { p.arm with img := i, gen := gen, order := s.nextId }
          let s : State := { s with nextId := s.nextId + 1 }
          (s.updDie p.die (fun x => { x with arms := x.arms.put e a, armGens := x.armGens.put e gen })).armOver p 0
            (65536 * gen + 4096 * p.die + e)

/-- ARM.at and ARM.tag (R395, R396). -/
def armBody (f : LFmt) (c : Cx) (s : State) : Res :=
  let sd := f.sd.toNat
  let tag := bitAt f.imm 3
  let k := c.sl f.sk
  let st := if sd = 0 then (s, 0) else c.async .status s
  let a : Arm :=
    { ctx := c.u.ctx, img := redImage 0 0 0 0 0 0, level := (resolve c.u.level f.lvl.toNat).getD 3, isTag := tag,
      arg := if tag then k else c.sl f.sp, period := if tag then 0 else k, persist := bitAt f.imm 4, gen := 0, order := 0,
      fired := 0, waiting := none, backlog := [] }
  let bad := if tag then bitsAt k 0 32 = 0 ∨ bitsAt k 32 32 ≠ 0 else 1 ≤ k.toNat ∧ k.toNat ≤ 999
  let p : PendArm :=
    { id := s.nextId, die := c.who.die, ctx := c.u.ctx, who := some (c.who, c.passMask, st.2), packet := none,
      space := bitsAt f.imm 0 3, addr := c.sl f.se, arm := a, nb := f.nb, sd := sd, seq := c.u.logSeq, frag := BitVec.ofNat 8 (maskOf c.slices),
      dbg := c.fr.isDbg, badArg := decide bad, bad := false, stalled := false, gone := false }
  .ok { st.1 with nextId := s.nextId + 1, pendArms := st.1.pendArms ++ [p] }

def execArmAt (h : Hdr) (f : LFmt) (s : State) : Host.Outcome State Fault Refusal := issue (.armAt h f) h (armBody f) s
def execArmTag (h : Hdr) (f : LFmt) (s : State) : Host.Outcome State Fault Refusal := issue (.armTag h f) h (armBody f) s

/-- DISARM (R400, R401). -/
def execDisarm (h : Hdr) (f : LFmt) (s : State) : Host.Outcome State Fault Refusal :=
  issue (.disarm h f) h (fun c s =>
    let x := c.sl f.sk
    let d := bitsAt x 12 2
    let e := bitsAt x 0 12
    let done := fun (v : Dword) (s : State) => Res.ok (c.asyncNow (fun j => [.s j f.sd.toNat v]) s)
    match (s.die d).arms.find e with
    | none => done (armStatus 8 0) s
    | some a =>
      if a.ctx ≠ c.u.ctx ∨ a.gen ≠ bitsAt x 16 16 ∨ bitsAt x 32 32 ≠ 0 ∨ bitsAt x 14 2 ≠ 0 then done (armStatus 8 0) s
      else
        let s := s.updDie d (fun y => { y with arms := y.arms.drop e })
        let s : State := { s with inserts := s.inserts.filter (fun p => p.src != .arm d e) }
        done (armStatus 0 (satAt 32 a.fired)) s) s

/-- Firings that fell due are counted as missed (R398). -/
def State.missArm (s : State) (d n : Nat) : State :=
  s.updDie d (fun x => { x with missed := BitVec.ofNat 16 (satAt 16 (x.missed.toNat + n)) })

/-- An arm fires (R398, R399): its insert sets out at once. -/
def State.fireArm (s : State) (d e : Nat) (a : Arm) (img : Image) : State :=
  let p := armIns s.nextId d e a img
  (({ s with nextId := s.nextId + 1, inserts := s.inserts ++ [p] } : State).updArm d e
    (fun _ => { a with waiting := some p.id })).attemptInsert p

/-- Whether a time arm is due and free to fire. -/
def Arm.due (a : Arm) (tb : Nat) : Bool := !a.isTag && a.arg.toNat ≤ tb && !(a.waiting.isSome && a.period.toNat = 0)

/-- ARM_TIME_FIRE (R398): arms that are due together, of any die, fire in increasing T, then in the order armed; a firing that falls due
while the last is still waiting is missed, and of several times that passed all but one are. -/
def execArmTimeFire (d e : Nat) (s : State) : Host.Outcome State Fault Refusal :=
  match (if s.stopped then none else (s.die d).arms.find e) with
  | none => .next s
  | some a =>
    let first := (List.range 4).all (fun k => (s.die k).arms.all (fun x =>
      !(x.2.due s.tb) || a.arg < x.2.arg || (a.arg = x.2.arg && a.order ≤ x.2.order)))
    if !(a.due s.tb) || !first then .next s
    else
      let p := a.period.toNat
      if p = 0 then .next (s.fireArm d e a a.img)
      else
        let n := (s.tb - a.arg.toNat) / p + 1
        let a' := { a with arg := BitVec.ofNat 64 (a.arg.toNat + n * p) }
        if a.waiting.isSome then .next ((s.updArm d e (fun _ => a')).missArm d n)
        else .next ((s.missArm d (n - 1)).fireArm d e a' a.img)

/-- A tagged message for a context reaches the package (R398): whether an arm fires or keeps it. -/
def State.tagMessage (s : State) (ctx : Nat) (tag : BitVec 32) (payload : Dword) : State × Bool :=
  let hit := (List.range 4).filterMap (fun d =>
    ((s.die d).arms.find? (fun a => a.2.isTag && a.2.ctx = ctx && a.2.arg = tag.setWidth 64)).map (fun a => (d, a.1, a.2)))
  let refuse := fun (d : Nat) => (s.updDie d (fun x => { x with nomatch_ := BitVec.ofNat 16 (satAt 16 (x.nomatch_.toNat + 1)) }), false)
  match hit with
  | [] => refuse 0
  | (d, e, a) :: _ =>
    if a.waiting.isNone then (s.fireArm d e a (a.withPayload payload), true)
    else if a.persist && a.backlog.length < 64 then (s.updArm d e (fun a => { a with backlog := a.backlog ++ [payload] }), true)
    else refuse d

/-- ARM_TAG_FIRE (R398). -/
def execArmTagFire (ctx : Nat) (tag : BitVec 32) (payload : BitVec 64) (s : State) : Host.Outcome State Fault Refusal :=
  .next (if s.stopped then s else (s.tagMessage ctx tag payload).1)

end Sys2Proof.Machine
end

