-- ==== Sys2Proof/WellFormed.lean ====
section
/-! DEFINITION. Well-formed instructions: those whose words are legal for some issuer (R48 to R57), each under the
constructor that its selecting field names. Events have no word and no fields to judge. -/
namespace Sys2Proof

/-- Whether the constructor is the one that the selecting field of a shared opcode names: LAUNCH and JOIN by lvl (R197,
R201), REDUCE by lvl (R454), ARM by imm32[3] (R395), ZLD and ZST by aux[1:0] (R235). -/
def Instr.variantOk : Instr → Bool
  | .launchCore _ f => f.lvl == 1
  | .launchStockpot _ f => f.lvl != 1
  | .joinCore _ f => f.lvl == 1
  | .joinStockpot _ f => f.lvl != 1
  | .reduce _ f => f.lvl != 5
  | .reducePod _ f => f.lvl == 5
  | .armAt _ f => !(f.imm.getLsbD 3)
  | .armTag _ f => f.imm.getLsbD 3
  | .zld _ f => f.aux.extractLsb' 0 2 != 1 && f.aux.extractLsb' 0 2 != 2
  | .zldA _ f => f.aux.extractLsb' 0 2 == 1
  | .zldK _ f => f.aux.extractLsb' 0 2 == 2
  | .zst _ f => f.aux.extractLsb' 0 2 != 1 && f.aux.extractLsb' 0 2 != 2
  | .zstA _ f => f.aux.extractLsb' 0 2 == 1
  | .zstK _ f => f.aux.extractLsb' 0 2 == 2
  | _ => true

/-- Whether an instruction is well formed. -/
def Instr.wf (i : Instr) : Bool := i.legal none none == none && i.variantOk

end Sys2Proof
end

