-- ==== Sys2Proof/Decode.lean ====
section
/-! DEFINITION. From words to instructions (R41, R46, R53 to R57): `decodeRaw` reads any 96-bit word, `decode` rejects by
name what is no instruction for any issuer, `encode` writes the words of an instruction. Two operations of one opcode
that the opcode table names apart (LAUNCH, JOIN, REDUCE, ARM, ZLD, ZST) are told apart by the field that selects them. -/
namespace Sys2Proof

/-- The header of a word (R46). -/
def Hdr.ofWord (w : IWord) : Hdr := { y := w.getLsbD 85, g := w.extractLsb' 80 5 }

/-- The fields of a word in the S format (R54). -/
def SFmt.ofWord (w : IWord) : SFmt :=
  { sd := w.extractLsb' 74 6, sa := w.extractLsb' 68 6, sb := w.extractLsb' 62 6, cx := w.extractLsb' 58 4,
    ty := w.extractLsb' 54 4, aux := w.extractLsb' 50 4, i := w.getLsbD 49, rsv := w.extractLsb' 45 4,
    wid := w.extractLsb' 38 7, pos := w.extractLsb' 32 6, imm := w.extractLsb' 0 32 }

/-- Bits [79:0] of a word in the S format (R54). -/
def SFmt.word (f : SFmt) : BitVec 80 :=
 f.sd ++ f.sa ++ f.sb ++ f.cx ++ f.ty ++ f.aux ++ BitVec.ofBool f.i ++ f.rsv ++ f.wid ++ f.pos ++ f.imm

/-- The fields of a word in the V format (R54). -/
def VFmt.ofWord (w : IWord) : VFmt :=
  { vd := w.extractLsb' 72 8, va := w.extractLsb' 64 8, vb := w.extractLsb' 56 8, vc := w.extractLsb' 48 8,
    ty := w.extractLsb' 44 4, aux := w.extractLsb' 40 4, rnd := w.extractLsb' 37 3, sat := w.getLsbD 36,
    i := w.getLsbD 35, sel := w.extractLsb' 32 3, imm := w.extractLsb' 0 32 }

/-- Bits [79:0] of a word in the V format (R54). -/
def VFmt.word (f : VFmt) : BitVec 80 :=
 f.vd ++ f.va ++ f.vb ++ f.vc ++ f.ty ++ f.aux ++ f.rnd ++ BitVec.ofBool f.sat ++ BitVec.ofBool f.i ++ f.sel ++ f.imm

/-- The fields of a word in the M format (R54). -/
def MFmt.ofWord (w : IWord) : MFmt :=
  { vt := w.extractLsb' 72 8, sb := w.extractLsb' 66 6, vi := w.extractLsb' 58 8, space := w.extractLsb' 55 3,
    q := w.extractLsb' 52 3, ty := w.extractLsb' 48 4, aop := w.extractLsb' 44 4, ord := w.extractLsb' 42 2,
    scope := w.extractLsb' 39 3, w := w.extractLsb' 35 4, x := w.getLsbD 34, rsv := w.extractLsb' 32 2,
    disp := w.extractLsb' 0 32 }

/-- Bits [79:0] of a word in the M format (R54). -/
def MFmt.word (f : MFmt) : BitVec 80 :=
 f.vt ++ f.sb ++ f.vi ++ f.space ++ f.q ++ f.ty ++ f.aop ++ f.ord ++ f.scope ++ f.w ++ BitVec.ofBool f.x ++ f.rsv ++
    f.disp

/-- The fields of a word in the B format (R54). -/
def BFmt.ofWord (w : IWord) : BFmt :=
  { sl := w.extractLsb' 74 6, cb := w.extractLsb' 70 4, inv := w.getLsbD 69, mt := w.extractLsb' 65 4,
    st := w.extractLsb' 59 6, q := w.extractLsb' 56 3, dim := w.extractLsb' 53 3, ind := w.getLsbD 52,
    rsv := w.extractLsb' 48 4, disp := w.extractLsb' 3 45, slot := w.extractLsb' 0 3 }

/-- Bits [79:0] of a word in the B format (R54). -/
def BFmt.word (f : BFmt) : BitVec 80 :=
 f.sl ++ f.cb ++ BitVec.ofBool f.inv ++ f.mt ++ f.st ++ f.q ++ f.dim ++ BitVec.ofBool f.ind ++ f.rsv ++ f.disp ++
    f.slot

/-- The fields of a word in the X format (R54). -/
def XFmt.ofWord (w : IWord) : XFmt :=
  { zd := w.extractLsb' 76 4, za := w.extractLsb' 72 4, vx := w.extractLsb' 64 8, vy := w.extractLsb' 56 8,
    h := w.extractLsb' 52 4, ax := w.extractLsb' 48 4, ay := w.extractLsb' 44 4, sa := w.extractLsb' 38 6,
    sb := w.extractLsb' 32 6, ty := w.extractLsb' 28 4, bsel := w.extractLsb' 26 2, k := w.extractLsb' 24 2,
    b := w.extractLsb' 20 4, lfrom := w.extractLsb' 17 3, lto := w.extractLsb' 14 3, aux := w.extractLsb' 10 4,
    imm10 := w.extractLsb' 0 10 }

/-- Bits [79:0] of a word in the X format (R54). -/
def XFmt.word (f : XFmt) : BitVec 80 :=
 f.zd ++ f.za ++ f.vx ++ f.vy ++ f.h ++ f.ax ++ f.ay ++ f.sa ++ f.sb ++ f.ty ++ f.bsel ++ f.k ++ f.b ++ f.lfrom ++
    f.lto ++ f.aux ++ f.imm10

/-- The fields of a word in the L format (R54). -/
def LFmt.ofWord (w : IWord) : LFmt :=
  { lvl := w.extractLsb' 77 3, se := w.extractLsb' 71 6, sk := w.extractLsb' 65 6, sp := w.extractLsb' 59 6,
    sd := w.extractLsb' 53 6, b := w.extractLsb' 49 4, cd := w.extractLsb' 45 4, op := w.extractLsb' 41 4,
    scope := w.extractLsb' 38 3, ord := w.extractLsb' 36 2, c := w.getLsbD 35, nb := w.getLsbD 34, ns := w.getLsbD 33,
    rsv := w.getLsbD 32, imm := w.extractLsb' 0 32 }

/-- Bits [79:0] of a word in the L format (R54). -/
def LFmt.word (f : LFmt) : BitVec 80 :=
 f.lvl ++ f.se ++ f.sk ++ f.sp ++ f.sd ++ f.b ++ f.cd ++ f.op ++ f.scope ++ f.ord ++ BitVec.ofBool f.c ++
    BitVec.ofBool f.nb ++ BitVec.ofBool f.ns ++ BitVec.ofBool f.rsv ++ f.imm

/-- The fields of a word in the D format (R54). -/
def DFmt.ofWord (w : IWord) : DFmt :=
  { sd := w.extractLsb' 74 6, sa := w.extractLsb' 68 6, sv := w.extractLsb' 64 4, vt := w.extractLsb' 56 8,
    gid := w.extractLsb' 51 5, q := w.extractLsb' 48 3, csr := w.extractLsb' 32 16, imm := w.extractLsb' 0 32 }

/-- Bits [79:0] of a word in the D format (R54). -/
def DFmt.word (f : DFmt) : BitVec 80 :=
 f.sd ++ f.sa ++ f.sv ++ f.vt ++ f.gid ++ f.q ++ f.csr ++ f.imm

/-- Bits [79:0] of the first word of an instruction (R53, R54). -/
def Body.word : Body → BitVec 80
  | .s f => f.word
  | .sli f _ => f.word
  | .v f => f.word
  | .m f => f.word
  | .b f => f.word
  | .x f => f.word
  | .l f => f.word
  | .d f => f.word

/-- A word from its opcode, header and fields (R46). -/
def packWord (op : Nat) (h : Hdr) (b : BitVec 80) : IWord :=
  BitVec.ofNat 10 op ++ BitVec.ofBool h.y ++ h.g ++ b

/-- The words of an instruction, the one at the lower slot first: one, or two for SLI (R53). Events have none. -/
def encode (i : Instr) : List IWord :=
  match i with
  | .reservedOpcode w => [w]
  | i =>
    match i.form with
    | none => []
    | some (op, h, .sli f ext) => [packWord op h f.word, ext]
    | some (op, h, b) => [packWord op h b.word]

/-- Group 0 of the opcode map (R55). -/
def decodeGroup0 (fn : Nat) (h : Hdr) (w ext : IWord) : Instr :=
  match fn with
  | 0x00 => .sadd h (SFmt.ofWord w)
  | 0x01 => .ssub h (SFmt.ofWord w)
  | 0x02 => .smul h (SFmt.ofWord w)
  | 0x03 => .smulh h (SFmt.ofWord w)
  | 0x04 => .sdiv h (SFmt.ofWord w)
  | 0x05 => .srem h (SFmt.ofWord w)
  | 0x06 => .sand h (SFmt.ofWord w)
  | 0x07 => .sor h (SFmt.ofWord w)
  | 0x08 => .sxor h (SFmt.ofWord w)
  | 0x09 => .sandn h (SFmt.ofWord w)
  | 0x0A => .sshl h (SFmt.ofWord w)
  | 0x0B => .sshr h (SFmt.ofWord w)
  | 0x0C => .ssar h (SFmt.ofWord w)
  | 0x0D => .smin h (SFmt.ofWord w)
  | 0x0E => .smax h (SFmt.ofWord w)
  | 0x0F => .smov h (SFmt.ofWord w)
  | 0x10 => .sli h (SFmt.ofWord w) ext
  | 0x11 => .spopc h (SFmt.ofWord w)
  | 0x12 => .sclz h (SFmt.ofWord w)
  | 0x13 => .sbfx h (SFmt.ofWord w)
  | 0x14 => .sbfi h (SFmt.ofWord w)
  | 0x15 => .slea h (SFmt.ofWord w)
  | _ => .reservedOpcode w

/-- Group 1 of the opcode map (R55). -/
def decodeGroup1 (fn : Nat) (h : Hdr) (w : IWord) : Instr :=
  match fn with
  | 0x00 => .scmp h (SFmt.ofWord w)
  | 0x01 => .ssel h (SFmt.ofWord w)
  | _ => .reservedOpcode w

/-- Group 2 of the opcode map (R55). -/
def decodeGroup2 (fn : Nat) (h : Hdr) (w : IWord) : Instr :=
  match fn with
  | 0x00 => .mand h (SFmt.ofWord w)
  | 0x01 => .mor h (SFmt.ofWord w)
  | 0x02 => .mxor h (SFmt.ofWord w)
  | 0x03 => .mandn h (SFmt.ofWord w)
  | 0x04 => .mnot h (SFmt.ofWord w)
  | 0x05 => .mpopc h (SFmt.ofWord w)
  | 0x06 => .mffs h (SFmt.ofWord w)
  | 0x07 => .mget h (SFmt.ofWord w)
  | 0x08 => .mput h (SFmt.ofWord w)
  | 0x09 => .mmov h (SFmt.ofWord w)
  | _ => .reservedOpcode w

/-- Group 3 of the opcode map (R55). -/
def decodeGroup3 (fn : Nat) (h : Hdr) (w : IWord) : Instr :=
  match fn with
  | 0x00 => .nop h (BFmt.ofWord w)
  | 0x01 => .bra h (BFmt.ofWord w)
  | 0x02 => .brc h (BFmt.ofWord w)
  | 0x03 => .brz h (BFmt.ofWord w)
  | 0x04 => .brnz h (BFmt.ofWord w)
  | 0x05 => .brvAny h (BFmt.ofWord w)
  | 0x06 => .brvAll h (BFmt.ofWord w)
  | 0x07 => .brl h (BFmt.ofWord w)
  | 0x08 => .call h (BFmt.ofWord w)
  | 0x09 => .ret h (BFmt.ofWord w)
  | 0x0A => .regang h (BFmt.ofWord w)
  | 0x0B => .exit h (BFmt.ofWord w)
  | 0x0C => .trap h (BFmt.ofWord w)
  | 0x0D => .yield h (BFmt.ofWord w)
  | _ => .reservedOpcode w

/-- Group 4 of the opcode map (R55). -/
def decodeGroup4 (fn : Nat) (h : Hdr) (w : IWord) : Instr :=
  match fn with
  | 0x00 => .vadd h (VFmt.ofWord w)
  | 0x01 => .vsub h (VFmt.ofWord w)
  | 0x02 => .vmul h (VFmt.ofWord w)
  | 0x03 => .vmulh h (VFmt.ofWord w)
  | 0x04 => .vmad h (VFmt.ofWord w)
  | 0x05 => .vand h (VFmt.ofWord w)
  | 0x06 => .vor h (VFmt.ofWord w)
  | 0x07 => .vxor h (VFmt.ofWord w)
  | 0x08 => .vandn h (VFmt.ofWord w)
  | 0x09 => .vshl h (VFmt.ofWord w)
  | 0x0A => .vshr h (VFmt.ofWord w)
  | 0x0B => .vsar h (VFmt.ofWord w)
  | 0x0C => .vmin h (VFmt.ofWord w)
  | 0x0D => .vmax h (VFmt.ofWord w)
  | 0x0E => .vabs h (VFmt.ofWord w)
  | 0x0F => .vneg h (VFmt.ofWord w)
  | 0x10 => .vcmp h (VFmt.ofWord w)
  | 0x11 => .vsel h (VFmt.ofWord w)
  | 0x12 => .vpopc h (VFmt.ofWord w)
  | 0x13 => .vclz h (VFmt.ofWord w)
  | 0x14 => .vbfx h (VFmt.ofWord w)
  | 0x15 => .vbfi h (VFmt.ofWord w)
  | 0x16 => .vdot4 h (VFmt.ofWord w)
  | 0x17 => .vmov h (VFmt.ofWord w)
  | 0x18 => .vspl h (VFmt.ofWord w)
  | _ => .reservedOpcode w

/-- Group 5 of the opcode map (R55). -/
def decodeGroup5 (fn : Nat) (h : Hdr) (w : IWord) : Instr :=
  match fn with
  | 0x00 => .vfadd h (VFmt.ofWord w)
  | 0x01 => .vfsub h (VFmt.ofWord w)
  | 0x02 => .vfmul h (VFmt.ofWord w)
  | 0x03 => .vfma h (VFmt.ofWord w)
  | 0x04 => .vfms h (VFmt.ofWord w)
  | 0x05 => .vfnma h (VFmt.ofWord w)
  | 0x06 => .vfmin h (VFmt.ofWord w)
  | 0x07 => .vfmax h (VFmt.ofWord w)
  | 0x08 => .vfcmp h (VFmt.ofWord w)
  | 0x09 => .vfclass h (VFmt.ofWord w)
  | 0x0A => .vrcp h (VFmt.ofWord w)
  | 0x0B => .vrsq h (VFmt.ofWord w)
  | 0x0C => .vsqrt h (VFmt.ofWord w)
  | 0x0D => .vdiv h (VFmt.ofWord w)
  | 0x0E => .vexp2 h (VFmt.ofWord w)
  | 0x0F => .vlog2 h (VFmt.ofWord w)
  | 0x10 => .vsin h (VFmt.ofWord w)
  | 0x11 => .vcos h (VFmt.ofWord w)
  | 0x12 => .vfrnd h (VFmt.ofWord w)
  | 0x13 => .vftrunc h (VFmt.ofWord w)
  | 0x14 => .vfscale h (VFmt.ofWord w)
  | _ => .reservedOpcode w

/-- Group 6 of the opcode map (R55). -/
def decodeGroup6 (fn : Nat) (h : Hdr) (w : IWord) : Instr :=
  match fn with
  | 0x00 => .vcvt h (VFmt.ofWord w)
  | 0x01 => .vpack h (VFmt.ofWord w)
  | 0x02 => .vunpack h (VFmt.ofWord w)
  | 0x03 => .vquant h (VFmt.ofWord w)
  | 0x04 => .vdeq h (VFmt.ofWord w)
  | 0x05 => .vscale h (VFmt.ofWord w)
  | _ => .reservedOpcode w

/-- Group 7 of the opcode map (R55). -/
def decodeGroup7 (fn : Nat) (h : Hdr) (w : IWord) : Instr :=
  match fn with
  | 0x00 => .qswap h (VFmt.ofWord w)
  | 0x01 => .qbcast h (VFmt.ofWord w)
  | 0x02 => .vshfl h (VFmt.ofWord w)
  | 0x03 => .vbcast h (VFmt.ofWord w)
  | 0x04 => .vred h (VFmt.ofWord w)
  | 0x05 => .vscan h (VFmt.ofWord w)
  | 0x06 => .vballot h (VFmt.ofWord w)
  | 0x07 => .velect h (VFmt.ofWord w)
  | 0x08 => .vcompact h (VFmt.ofWord w)
  | _ => .reservedOpcode w

/-- Group 8 of the opcode map (R55). -/
def decodeGroup8 (fn : Nat) (h : Hdr) (w : IWord) : Instr :=
  match fn with
  | 0x00 => .vld h (MFmt.ofWord w)
  | 0x01 => .vst h (MFmt.ofWord w)
  | 0x02 => .vldx h (MFmt.ofWord w)
  | 0x03 => .vstx h (MFmt.ofWord w)
  | 0x04 => .sld h (MFmt.ofWord w)
  | 0x05 => .sst h (MFmt.ofWord w)
  | 0x06 => .vatom h (MFmt.ofWord w)
  | 0x07 => .satom h (MFmt.ofWord w)
  | 0x08 => .ladle h (MFmt.ofWord w)
  | 0x09 => .ldrain h (MFmt.ofWord w)
  | 0x0A => .pref h (MFmt.ofWord w)
  | 0x0B => .fld h (MFmt.ofWord w)
  | 0x0C => .fst h (MFmt.ofWord w)
  | _ => .reservedOpcode w

/-- Group 9 of the opcode map (R55). -/
def decodeGroup9 (fn : Nat) (h : Hdr) (w : IWord) : Instr :=
  match fn with
  | 0x00 => .rld h (MFmt.ofWord w)
  | 0x01 => .rst h (MFmt.ofWord w)
  | 0x02 => .ratom h (MFmt.ofWord w)
  | 0x03 => .rcas h (MFmt.ofWord w)
  | 0x04 => .rsig h (MFmt.ofWord w)
  | _ => .reservedOpcode w

/-- Group 10 of the opcode map (R55). -/
def decodeGroup10 (fn : Nat) (h : Hdr) (w : IWord) : Instr :=
  match fn with
  | 0x00 => let f := LFmt.ofWord w; if f.lvl = 1 then .launchCore h f else .launchStockpot h f
  | 0x01 => let f := LFmt.ofWord w; if f.lvl = 1 then .joinCore h f else .joinStockpot h f
  | 0x02 => .bar h (LFmt.ofWord w)
  | 0x03 => .bara h (LFmt.ofWord w)
  | 0x04 => .barw h (LFmt.ofWord w)
  | 0x05 => .copy h (XFmt.ofWord w)
  | 0x06 => .mcast h (XFmt.ofWord w)
  | 0x07 => .cwait h (XFmt.ofWord w)
  | 0x08 => let f := LFmt.ofWord w; if f.lvl = 5 then .reducePod h f else .reduce h f
  | 0x09 => .fence h (LFmt.ofWord w)
  | 0x0A => .bind h (LFmt.ofWord w)
  | 0x0B => .unbind h (LFmt.ofWord w)
  | 0x0C => let f := LFmt.ofWord w; if f.imm.getLsbD 3 then .armTag h f else .armAt h f
  | 0x0D => .disarm h (LFmt.ofWord w)
  | _ => .reservedOpcode w

/-- Group 11 of the opcode map (R55). -/
def decodeGroup11 (fn : Nat) (h : Hdr) (w : IWord) : Instr :=
  match fn with
  | 0x00 => .mma h (XFmt.ofWord w)
  | 0x01 => .mmas h (XFmt.ofWord w)
  | 0x02 => .mmat h (XFmt.ofWord w)
  | 0x03 => .hld h (XFmt.ofWord w)
  | 0x04 => .zclr h (XFmt.ofWord w)
  | 0x05 => let f := XFmt.ofWord w
    if f.aux.extractLsb' 0 2 = 1 then .zldA h f
    else if f.aux.extractLsb' 0 2 = 2 then .zldK h f
    else .zld h f
  | 0x06 => let f := XFmt.ofWord w
    if f.aux.extractLsb' 0 2 = 1 then .zstA h f
    else if f.aux.extractLsb' 0 2 = 2 then .zstK h f
    else .zst h f
  | 0x07 => .zepi h (XFmt.ofWord w)
  | 0x08 => .mwait h (XFmt.ofWord w)
  | _ => .reservedOpcode w

/-- Group 12 of the opcode map (R55). -/
def decodeGroup12 (fn : Nat) (h : Hdr) (w : IWord) : Instr :=
  match fn with
  | 0x00 => .factLu h (XFmt.ofWord w)
  | 0x01 => .factCh h (XFmt.ofWord w)
  | 0x02 => .factQr h (XFmt.ofWord w)
  | 0x03 => .trsm h (XFmt.ofWord w)
  | 0x04 => .qapply h (XFmt.ofWord w)
  | 0x05 => .perm h (XFmt.ofWord w)
  | 0x06 => .ztr h (XFmt.ofWord w)
  | _ => .reservedOpcode w

/-- Group 13 of the opcode map (R55). -/
def decodeGroup13 (fn : Nat) (h : Hdr) (w : IWord) : Instr :=
  match fn with
  | 0x00 => .svset h (DFmt.ofWord w)
  | 0x01 => .svclr h (DFmt.ofWord w)
  | 0x02 => .dget h (DFmt.ofWord w)
  | 0x03 => .dput h (DFmt.ofWord w)
  | 0x04 => .dstep h (DFmt.ofWord w)
  | 0x05 => .drun h (DFmt.ofWord w)
  | 0x06 => .dstat h (DFmt.ofWord w)
  | 0x07 => .mark h (DFmt.ofWord w)
  | 0x08 => .trace h (DFmt.ofWord w)
  | _ => .reservedOpcode w

/-- Group 14 of the opcode map (R55). -/
def decodeGroup14 (fn : Nat) (h : Hdr) (w : IWord) : Instr :=
  match fn with
  | 0x00 => .csrr h (DFmt.ofWord w)
  | 0x01 => .csrw h (DFmt.ofWord w)
  | 0x02 => .grow h (DFmt.ofWord w)
  | 0x03 => .shrink h (DFmt.ofWord w)
  | 0x04 => .trapret h (DFmt.ofWord w)
  | 0x05 => .prog h (DFmt.ofWord w)
  | 0x06 => .clock h (DFmt.ofWord w)
  | 0x07 => .idle h (DFmt.ofWord w)
  | _ => .reservedOpcode w

/-- The instruction a word spells, legal or not; `ext` is the word in the next slot of its line (R46, R53, R55). -/
def decodeRaw (w ext : IWord) : Instr :=
  let h := Hdr.ofWord w
  let fn := bitsAt w 86 6
  match bitsAt w 92 4 with
  | 0 => decodeGroup0 fn h w ext
  | 1 => decodeGroup1 fn h w
  | 2 => decodeGroup2 fn h w
  | 3 => decodeGroup3 fn h w
  | 4 => decodeGroup4 fn h w
  | 5 => decodeGroup5 fn h w
  | 6 => decodeGroup6 fn h w
  | 7 => decodeGroup7 fn h w
  | 8 => decodeGroup8 fn h w
  | 9 => decodeGroup9 fn h w
  | 10 => decodeGroup10 fn h w
  | 11 => decodeGroup11 fn h w
  | 12 => decodeGroup12 fn h w
  | 13 => decodeGroup13 fn h w
  | 14 => decodeGroup14 fn h w
  | _ => .reservedOpcode w

/-- The instruction of a word, or the name of the reason why it is none for any issuer (R57). -/
def decode (w ext : IWord) : Except Reject Instr :=
  match (decodeRaw w ext).legal none none with
  | some r => .error r
  | none => .ok (decodeRaw w ext)

/-- The decoder on the bits of an instruction, those of the first word lowest. -/
def decodeTableWord (_nbits w : Nat) : Option Instr :=
  match decode (BitVec.ofNat 96 w) (BitVec.ofNat 96 (w >>> 96)) with
  | .error _ => none
  | .ok i => some i

end Sys2Proof
end

