-- ==== Sys2Proof/Machine/Convert.lean ====
section
/-! DEFINITION. Conversions and block-scaled conversions: group 6 (R152 to R155), visible after four steps (R64). -/
namespace Sys2Proof.Machine

/-- The code of one element of type `src` in type `dst` (R30, R31, R18): code and flags. -/
def convert (dst src rnd : Nat) (sat : Bool) (x : Nat) : Nat × Nat :=
  if src < 8 then
    if dst < 8 then intOut dst sat (elemInt src x) else toFp dst rnd sat (ofInt (elemInt src x))
  else if dst < 8 then toInt (dst < 4) (tyBits dst) rnd (decodeFp src x)
  else toFp dst rnd sat (decodeFp src x)

/-- VCVT (R152): the narrow side is the element at sel. -/
def execVcvt (h : Hdr) (f : VFmt) (s : State) : Host.Outcome State Fault Refusal :=
  issue (.vcvt h f) h (fun c s =>
    let dst := f.ty.toNat
    let src := f.aux.toNat
    c.vec 4 (fun l =>
      let ws := tyBits src
      let raw := c.vraw src f.va.toNat l
      let x := if ws < 32 then raw / 2 ^ (ws * f.sel.toNat) % 2 ^ ws else raw
      let r := convert dst src f.rnd.toNat f.sat x
      let wd := tyBits dst
      { tgts := if wd < 32 then [partTgt l f.vd.toNat (wd * f.sel.toNat) wd r.1] else vdTgts dst f.vd.toNat l r.1
        flags := r.2, fmt := [] }) s) s

/-- VPACK (R153): a run of registers into the elements of one. -/
def execVpack (h : Hdr) (f : VFmt) (s : State) : Host.Outcome State Fault Refusal :=
  issue (.vpack h f) h (fun c s =>
    let dst := f.ty.toNat
    c.vec 4 (fun l =>
      let rs := (List.range (runLen dst)).map (fun e =>
        convert dst f.aux.toNat f.rnd.toNat f.sat (c.v1 (f.va.toNat + e) l).toNat)
      { tgts := [laneTgt l f.vd.toNat (packN (tyBits dst) (rs.map (fun p => p.1)))]
        flags := rs.foldl (fun a p => a ||| p.2) 0, fmt := [] }) s) s

/-- VUNPACK (R153): the elements of one register, or the trits of one byte, into a run of registers. -/
def execVunpack (h : Hdr) (f : VFmt) (s : State) : Host.Outcome State Fault Refusal :=
  issue (.vunpack h f) h (fun c s =>
    let dst := f.ty.toNat
    let src := f.aux.toNat
    c.vec 4 (fun l =>
      let x := (c.v1 f.va.toNat l).toNat
      if src = 15 then
        let b := x / 2 ^ (8 * f.sel.toNat) % 256
        let trit := fun (t : Nat) => if dst = 9 then (toFp 9 0 false (ofInt (tritOf b t))).1 else wrapW 32 (tritOf b t)
        { tgts := (List.range 5).map (fun t => laneTgt l (f.vd.toNat + t) (trit t))
          flags := if tritBad b then fFMT else 0, fmt := if tritBad b then [b] else [] }
      else
        let rs := (unpackN (tyBits src) (32 / tyBits src) x).map (fun e => convert dst src 0 false e)
        { tgts := ((List.range rs.length).zip rs).map (fun p => laneTgt l (f.vd.toNat + p.1) p.2.1)
          flags := rs.foldl (fun a p => a ||| p.2) 0, fmt := [] }) s) s

/-- The byte of a scale register that holds the scale of element position `sel` (R154). -/
def scaleByte (ty sel : Nat) : Nat := if ty = 14 then sel / 2 else sel

/-- VDEQ (R154): exact; the only flags are FMT and NV. -/
def execVdeq (h : Hdr) (f : VFmt) (s : State) : Host.Outcome State Fault Refusal :=
  issue (.vdeq h f) h (fun c s =>
    let ty := f.ty.toNat
    let w := tyBits ty
    c.vec 4 (fun l =>
      let b := (c.v1 f.vb.toNat l).toNat / 2 ^ (8 * scaleByte ty f.sel.toNat) % 256
      let sc := scaleOf b
      let p := scaleBy (decodeFp ty ((c.v1 f.va.toNat l).toNat / 2 ^ (w * f.sel.toNat) % 2 ^ w)) sc.1
      { tgts := [laneTgt l f.vd.toNat (toFp 9 0 false p.1).1], flags := p.2 ||| sc.2
        fmt := if sc.2 = 0 then [] else [b] }) s) s

/-- The exact quotient of an FP32 value by a block scale, kept with a sticky bit, and the flags of the division (R154). -/
def scaleQuot (x sc : Val) : Val × Nat :=
  match x, sc with
  | x, .nan _ => (.nan false, fNV ||| x.sig)
  | .nan s, _ => (.nan s, 0)
  | .inf n, .inf _ => (.inf n, 0)
  | .inf n, .fin _ _ _ => (.inf n, 0)
  | .fin n _ _, .inf _ => (.fin n 0 0, 0)
  | .fin n m e, .fin _ m' e' =>
    if m' = 0 then (if m = 0 then (.nan false, fNV) else (.inf n, fDZ))
    else if m = 0 then (.fin n 0 0, 0)
    else
      let q := m * 2 ^ 40 / m'
      (.fin n (2 * q + (if m * 2 ^ 40 % m' = 0 then 0 else 1)) (e - e' - 41), 0)

/-- An FP32 value quantised by a scale (R154, R155): the saturating column of R30. -/
def quantise (ty rnd : Nat) (x sc : Val) : Nat × Nat :=
  let q := scaleQuot x sc
  let r := toFp ty rnd true q.1
  (r.1, r.2 ||| q.2)

/-- VSCALE (R154). -/
def execVscale (h : Hdr) (f : VFmt) (s : State) : Host.Outcome State Fault Refusal :=
  issue (.vscale h f) h (fun c s =>
    let ty := f.ty.toNat
    let w := tyBits ty
    c.vec 4 (fun l =>
      let b := (c.v1 f.vb.toNat l).toNat / 2 ^ (8 * scaleByte ty f.sel.toNat) % 256
      let sc := scaleOf b
      let r := quantise ty f.rnd.toNat (decodeFp 9 (c.v1 f.va.toNat l).toNat) sc.1
      { tgts := [partTgt l f.vd.toNat (w * f.sel.toNat) w r.1], flags := r.2 ||| sc.2
        fmt := if sc.2 = 0 then [] else [b] }) s) s

/-- The largest magnitude code among FP32 codes, NaNs passed over; 0 if there is none (R155). -/
def amaxCode (xs : List Nat) : Nat :=
  xs.foldl (fun a x => let m := x % 2 ^ 31; if 0x7F800000 < m then a else Nat.max a m) 0

/-- `n1 × 2^e1 ≤ n2 × 2^e2`. -/
def leScaled (n1 : Nat) (e1 : Int) (n2 : Nat) (e2 : Int) : Bool :=
  if e1 ≤ e2 then decide (n1 ≤ n2 * 2 ^ (e2 - e1).toNat) else decide (n1 * 2 ^ (e1 - e2).toNat ≤ n2)

/-- The scale code of VQUANT for the FP32 magnitude code `amax` (R155): the least scale with `amax ≤ scale × fmax`. -/
def quantCode (ty amax : Nat) : Nat :=
  if amax = 0 then 0x38
  else if amax = 0x7F800000 then 0x7E
  else
    let a := finVal 9 amax
    let fmax := if ty = 12 then 448 else if ty = 13 then 57344 else 6
    ((List.range 0x7D).find? (fun i => match (scaleOf (i + 1)).1 with
      | .fin _ m e => leScaled a.1 a.2 (m * fmax) e
      | .nan _ => false
      | .inf _ => false)).map (fun i => i + 1) |>.getD 0x7E

/-- VQUANT (R155): one scale over the active lanes, written to each, and the block quantised by it. -/
def execVquant (h : Hdr) (f : VFmt) (s : State) : Host.Outcome State Fault Refusal :=
  issue (.vquant h f) h (fun c s =>
    let ty := f.ty.toNat
    let w := tyBits ty
    let code := quantCode ty (amaxCode (c.act.map (fun l => (c.v1 f.va.toNat l).toNat)))
    c.vec 4 (fun l =>
      let r := quantise ty f.rnd.toNat (decodeFp 9 (c.v1 f.va.toNat l).toNat) (scaleOf code).1
      { tgts := [partTgt l f.vc.toNat (8 * scaleByte ty f.sel.toNat) 8 code,
                 partTgt l f.vd.toNat (w * f.sel.toNat) w r.1]
        flags := r.2, fmt := [] }) s) s

end Sys2Proof.Machine
end

