-- ==== Sys2Proof/Machine/Matrix.lean ====
section
/-! DEFINITION. The matrix array (R220 to R244): tiles and their poison, weight slots, the array queue, what each instruction
of group 11 does at its issue and at each of its boundaries, rows on their way to memory, and deferred faults. -/
namespace Sys2Proof.Machine

-- tiles

/-- Element (i, j) of tile `t` (R220). -/
def tileKey (t i j : Nat) : Nat := 4096 * t + 64 * i + j

/-- The elements of tile `t`. -/
def tileOf (z : Tab Nat Word) (t : Nat) : Tab Nat Word := z.filter (fun p => p.1 / 4096 = t)

/-- Tile `t` holds `f i j` (R220). -/
def Core.setTile (c : Core) (t : Nat) (f : Nat → Nat → Word) : Core :=
  let new := ((List.range 64).map (fun i => (List.range 64).map (fun j => (tileKey t i j, f i j)))).flatten
  { c with z := c.z.filter (fun p => p.1 / 4096 ≠ t) ++ new.filter (fun p => p.2 ≠ 0) }

/-- Row `i` of tile `t` holds some words; a row written whole loses its poison (R239). -/
def Core.setRow (c : Core) (t i : Nat) (ws : List Word) : Core :=
  let new := ((List.range 64).map (fun j => (tileKey t i j, ws.getD j 0))).filter (fun p => p.2 ≠ 0)
  { c with z := c.z.filter (fun p => p.1 / 64 ≠ 64 * t + i) ++ new, zpoison := c.zpoison.filter (fun r => r ≠ 64 * t + i) }

/-- The poison of every row of tile `t` goes (R239). -/
def Core.cleanTile (c : Core) (t : Nat) : Core := { c with zpoison := c.zpoison.filter (fun r => r / 64 ≠ t) }

/-- The first poisoned row among some rows of tile `t`, as the TVAL of MPOISON (R238). -/
def Core.poisonedRow (c : Core) (t : Nat) (rows : List Nat) : Option Dword :=
  (rows.find? (fun i => c.zpoison.contains (64 * t + i))).map (fun i => BitVec.ofNat 64 (0x100 * t + i))

/-- Entry `e` of `k(r)`: at the start of the block it holds `e` (R221). -/
def Core.kEntry (c : Core) (r e : Nat) : Byte := c.k.get (64 * r + e) (BitVec.ofNat 8 e)

-- operands in memory

/-- Row bytes of `n` elements (R226): ternary holds 7 bytes for 32 trits. -/
def rowBytes (ty n : Nat) : Nat := if ty = 15 then 7 * n / 32 else n * tyBits ty / 8

/-- What the array meets when it reads bytes of core scratch or cluster memory: the bytes, a granule that is poisoned
(R238), or bytes that a row it has handed on has still to reach (R228). -/
inductive Got (α : Type) where
  | ok (a : α)
  | pois (addr : Dword)
  | hold
  deriving DecidableEq, Repr

/-- The first byte of a location of core or cluster memory in the flat memory. -/
def Loc.flat : Loc → Nat
  | .core n a => coreKey n a
  | .cluster n a => clusterKey n a
  | .die n a => dieKey n a
  | .virt _ _ a => a
  | .pod _ _ _ a => a
  | .host a => a

/-- Whether `n` bytes at `k` meet a row that core `core` has still to perform (R228). -/
def State.rowsPend (s : State) (core k n : Nat) : Bool :=
  (s.core core).rows.any (fun r => r.loc.flat < k + n && k < r.loc.flat + r.bytes.length)

/-- A read of the array (R228, R238): `n` bytes of space `space` at `a`. -/
def State.arrRead (s : State) (core space a n : Nat) : Got (List Byte) :=
  let k := if space = 1 then coreKey core a else clusterKey (core / 8) a
  if s.rowsPend core k n then .hold
  else match (granulesOf k n).find? (fun g => s.poison.contains g) with
    | some g => .pois (BitVec.ofNat 64 (a + 64 * g - k))
    | none => .ok (s.mem.read k n)

/-- Several reads, the first that fails deciding. -/
def State.arrReads (s : State) (core space n : Nat) : List Nat → Got (List (List Byte))
  | [] => .ok []
  | a :: r =>
    match s.arrRead core space a n with
    | .hold => .hold
    | .pois v => .pois v
    | .ok b =>
      match s.arrReads core space n r with
      | .hold => .hold
      | .pois v => .pois v
      | .ok bs => .ok (b :: bs)

/-- Codes of `n` elements packed in bytes (R12, R226). -/
def codesOf (ty n : Nat) (bs : List Byte) : List Nat := unpackN (tyBits ty) n (ofBytes bs)

/-- Trits of one K-block of seven bytes (R20). -/
def tritsOf (bs : List Byte) : List Int :=
  (List.range 32).map (fun k => tritOf (bs.getD (k / 5) 0).toNat (k % 5))

-- weight slots

/-- The segments of a bitmap payload (R232, R233): for each of `n` K-blocks its 32 elements, packed at full length; nothing
where the payload is not exactly that long or a filler byte is not zero. -/
def bitmapBlocks (ty : Nat) : Nat → List Byte → Option (List (List Byte))
  | 0, bs => if bs.isEmpty then some [] else none
  | n + 1, bs =>
    let w := tyBits ty
    let m := ofBytes (bs.take 4)
    let nb := (popCount m 32 * w + 7) / 8
    let len := (4 + nb + 3) / 4 * 4
    if bs.length < len ∨ ((bs.take len).drop (4 + nb)).any (fun x => x != 0) then none
    else
      let kept := codesOf ty (popCount m 32) ((bs.drop 4).take nb)
      let full := (List.range 32).map (fun e => if m.testBit e then kept.getD (popCount m e) 0 else 0)
      match bitmapBlocks ty n (bs.drop len) with
      | none => none
      | some r => some (bytesOf (packN w full) (32 * w / 8) :: r)

/-- The K-blocks of a slot, those of column 0 first (R232, R233). -/
def HSlot.blocks (h : HSlot) : Option (List (List Byte)) :=
  if h.mode = 1 then bitmapBlocks h.format (64 * h.kext / 32) h.payload
  else if h.payload.length ≠ 64 * rowBytes h.format h.kext then none
  else some ((List.range (64 * h.kext / 32)).map (fun i =>
    (h.payload.drop (i * rowBytes h.format 32)).take (rowBytes h.format 32)))

/-- The slot a weight image in 16 header bytes describes, its payload still to be read, and LEN; nothing where a field lies
outside R232. -/
def HSlot.ofHeader (b : List Byte) : Option (HSlot × Nat) :=
  let kext := Sys2Proof.ofBytes (b.take 2)
  let fmt := (b.getD 2 0).toNat
  let mode := (b.getD 3 0).toNat
  let len := Sys2Proof.ofBytes ((b.drop 4).take 4)
  if kext < 32 ∨ 512 < kext ∨ kext % 32 ≠ 0 ∨ !([0, 9, 10, 11, 12, 13, 14, 15].contains fmt) ∨ 1 < mode ∨ len = 0 ∨ 8192 < len
      ∨ ((b.drop 8).take 8).any (fun x => x != 0) ∨ (fmt = 15 ∧ mode = 1) then none
  else some ({ valid := true, mode := mode, kext := kext, format := fmt, payload := [] }, len)

-- sums of products

/-- One exact chunk sum, rounded once (R36, R37): code and flags. -/
def chunkSum (ps : List (Nat × Val)) : Nat × Nat :=
  let vs := ps.map (fun p => p.2)
  let pos := vs.any (fun v => v == Val.inf false)
  let neg := vs.any (fun v => v == Val.inf true)
  if vs.any (fun v => v.isNaN) || (pos && neg) then nanOut 9 fNV
  else if pos || neg then (infCode 9 neg, 0)
  else
    let fs := vs.filterMap (fun v => match v with
      | .fin n m e => some (n, m, e)
      | .nan _ => none
      | .inf _ => none)
    let nz := fs.filter (fun f => f.2.1 ≠ 0)
    match nz with
    | [] => (signed 9 (fs.all (fun f => f.1)) 0, 0)
    | f :: r =>
      let q := r.foldl (fun a g => if g.2.2 < a then g.2.2 else a) f.2.2
      let x := nz.foldl (fun a g => a + scaledInt g.1 g.2.1 g.2.2 q) 0
      if x = 0 then (0, 0) else roundFp 9 0 false (x < 0) x.natAbs q

/-- One element of the accumulator after a chunk (R36): code and flags. -/
def accumulate (z : Nat) (a b : List Val) : Nat × Nat :=
  let c := chunkSum ((a.zip b).map (fun p => fProd p.1 p.2))
  let r := fAdd 9 0 (decodeFp 9 z) (decodeFp 9 c.1)
  (r.1, r.2 ||| c.2)

/-- The elements of a chunk times its block's scale (R22): values and flags. -/
def scaledChunk (ty : Nat) (codes : List Nat) (sc : Option Nat) : List Val × Nat :=
  let vs := codes.map (decodeFp ty)
  match sc with
  | none => (vs, 0)
  | some b =>
    let k := scaleOf b
    let r := vs.map (fun v => scaleBy v k.1)
    (r.map (fun p => p.1), r.foldl (fun a p => a ||| p.2) k.2)

-- steps of the array

/-- What one step of the array comes to: it cannot be made yet, it goes on, the instruction has ended with the results given,
slice by slice, or it stops with a fault, `full` saying that it ran to its end all the same (R239, R262). -/
inductive Step where
  | hold
  | more (s : State) (o : ArrOp)
  | finished (s : State) (o : ArrOp) (ts : List (Nat × Tgt))
  | bad (s : State) (o : ArrOp) (cause : Nat) (tval : Dword) (full : Bool) (ts : List (Nat × Tgt))
  deriving DecidableEq, Repr

/-- The instruction goes on at the next boundary, or has ended after `n` of them (R241). -/
def Step.next (s : State) (o : ArrOp) (n : Nat) : Step :=
  let o := { o with step := o.step + 1 }
  if n ≤ o.step then .finished s o [] else .more s o

/-- The place `n` bytes further on. -/
def Loc.plus (l : Loc) (n : Nat) : Loc :=
  match l with
  | .core m a => .core m (a + n)
  | .cluster m a => .cluster m (a + n)
  | .die m a => .die m (a + n)
  | .virt c d a => .virt c d (a + n)
  | .pod p k e a => .pod p k e (a + n)
  | .host a => .host (a + n)

/-- The aligned 16-byte pieces of a row handed to the store path (R237). -/
def rowPieces (first : Nat) (o : ArrOp) (loc : Loc) (bs : List Byte) (bar : Option BarKey) : List PendRow :=
  (List.range ((bs.length + 15) / 16)).map (fun i =>
    { id := first + i, row := first, len := bs.length, tag := o.tag, who := o.who, loc := loc.plus (16 * i),
      bytes := (bs.drop (16 * i)).take 16, bar := bar })

/-- A row is handed to the store path (R237). -/
def State.handRow (s : State) (core : Nat) (o : ArrOp) (loc : Loc) (bs : List Byte) (bar : Option BarKey) : State :=
  let rs := rowPieces s.nextId o loc bs bar
  { s.updCore core (fun c => { c with rows := c.rows ++ rs }) with nextId := s.nextId + rs.length }

/-- Where `a` of a resolved space lies (R164). -/
def arrLoc (core space a : Nat) : Loc := if space = 1 then .core core a else .cluster (core / 8) a

/-- The barrier of a `.bar` form (R235, R236). -/
def State.arrBar (s : State) (o : ArrOp) (f : XFmt) : Option BarKey :=
  if bitAt f.aux 3 then some (s.barKey o.who 1 f.b.toNat) else none

/-- One chunk of a multiply form (R230, R234). -/
def State.mulStep (s : State) (core : Nat) (o : ArrOp) (op : Nat) (f : XFmt) : Step :=
  let c := s.core core
  let t := f.zd.toNat
  let kk := 32 * (bitsAt f.imm10 0 4 + 1)
  let ty := f.ty.toNat
  let aty := if op = 0x2C2 then 0 else ty
  let i := o.step
  let fresh : Bool := i = 0 && !(bitAt f.aux 1)
  let wa := rowBytes aty 32
  let wb := rowBytes ty 32
  let pa := if bitsAt o.pitch 0 32 = 0 then rowBytes aty kk else bitsAt o.pitch 0 32
  let pb := if bitsAt o.pitch 32 32 = 0 then rowBytes ty kk else bitsAt o.pitch 32 32
  let slot := c.hslots.find f.h.toNat
  let usable : Bool := match slot with
    | none => false
    | some h => h.valid && h.format = ty && decide (kk ≤ h.kext)
  let rows := s.arrReads core 1 wa ((List.range 64).map (fun r => o.sa.toNat + r * pa + i * wa))
  let cols : Got (List (List Byte)) :=
    if bitAt f.aux 0 then s.arrReads core 1 wb ((List.range 64).map (fun r => o.sb.toNat + r * pb + i * wb))
    else match slot with
      | none => .ok []
      | some h => .ok ((List.range 64).map (fun j => (h.blocks.getD []).getD (j * (h.kext / 32) + i) []))
  if !(bitAt f.aux 0) && !usable then .bad s o 0x21 (BitVec.ofNat 64 f.h.toNat) false []
  else
    match rows, cols with
    | .hold, _ => .hold
    | _, .hold => .hold
    | .pois a, _ => .bad s o 0x23 a false []
    | _, .pois a => .bad s o 0x23 a false []
    | .ok rs, .ok cs =>
      match (if fresh then none else c.poisonedRow t (List.range 64)) with
      | some a => .bad s o 0x23 a false []
      | none =>
        let old := tileOf c.z t
        let z := fun (i j : Nat) => if fresh then (0 : Word) else old.get (tileKey t i j) 0
        let put := fun (g : List (List Nat)) (fl : Nat) =>
          Step.next (s.updCore core (fun c =>
            let c := c.setTile t (fun i j => BitVec.ofNat 32 ((g.getD i []).getD j 0))
            if fresh then c.cleanTile t else c)) { o with flags := o.flags ||| BitVec.ofNat 6 fl } (kk / 32)
        if aty = 0 then
          let a := rs.map (fun r => r.map (fun b => b.toInt))
          let b := if ty = 15 then cs.map tritsOf else cs.map (fun r => r.map (fun b => b.toInt))
          let fl := if ty = 15 ∧ cs.any (fun r => r.any (fun b => tritBad b.toNat)) then fFMT else 0
          put ((List.range 64).map (fun i => (List.range 64).map (fun j =>
            wrapW 32 ((z i j).toInt + (((a.getD i []).zip (b.getD j [])).map (fun p => p.1 * p.2)).sum)))) fl
        else
          let sc := fun (l : List Word) (r : Nat) =>
            if op = 0x2C1 then some (bitsAt (l.getD r 0) (8 * (f.bsel.toNat + i)) 8) else none
          let a := (List.range 64).map (fun r => scaledChunk ty (codesOf ty 32 (rs.getD r [])) (sc o.va r))
          let b := (List.range 64).map (fun r => scaledChunk ty (codesOf ty 32 (cs.getD r [])) (sc o.vb r))
          let av := a.map (fun x => x.1)
          let bv := b.map (fun x => x.1)
          let fl := (a ++ b).foldl (fun x p => x ||| p.2) 0
          let g := (List.range 64).map (fun i => (List.range 64).map (fun j =>
            accumulate (z i j).toNat (av.getD i []) (bv.getD j [])))
          put (g.map (fun r => r.map (fun p => p.1))) (g.foldl (fun x r => r.foldl (fun x p => x ||| p.2) x) fl)

/-- HLD (R232, R233): after a fault the slot is invalid. What is tested first is the poison of the header, then its fields and range, then
the poison of the payload, then its length (notes/assumptions 155: DESIGN CHOICE). -/
def State.hldStep (s : State) (core : Nat) (o : ArrOp) (f : XFmt) : Step :=
  let a := o.sa.toNat
  let n := f.h.toNat
  let s0 := s.updCore core (fun c => { c with hslots := c.hslots.drop n })
  let bad := Step.bad s0 o 0x22 o.sa false []
  if Config.scratchBytes < a + 16 then bad
  else match s.arrRead core 1 a 16 with
  | .hold => .hold
  | .pois g => .bad s0 o 0x23 g false []
  | .ok b =>
    match HSlot.ofHeader b with
    | none => bad
    | some (h, len) =>
      if Config.scratchBytes < a + 16 + len then bad
      else match s.arrRead core 1 (a + 16) len with
      | .hold => .hold
      | .pois g => .bad s0 o 0x23 g false []
      | .ok p =>
        let h := { h with payload := p }
        if h.blocks.isNone then bad
        else .finished (s.updCore core (fun c => { c with hslots := c.hslots.put n h })) o []

/-- ZLD (R235). -/
def State.zldStep (s : State) (core : Nat) (o : ArrOp) (f : XFmt) (space : Nat) : Step :=
  let a := o.sa.toNat
  let kind := bitsAt f.aux 0 2
  let p := if o.sb = 0 then 256 else o.sb.toNat
  if kind = 2 then
    match s.arrRead core space a 64 with
    | .hold => .hold
    | .pois g => .bad s o 0x23 g false []
    | .ok bs => .finished (s.updCore core (fun c => { c with k := (List.range 64).foldl (fun k e => k.put (64 * f.k.toNat + e) (bs.getD e 0)) c.k })) o []
  else
    match s.arrRead core space (if kind = 1 then a else a + o.step * p) 256 with
    | .hold => .hold
    | .pois g => .bad s o 0x23 g false []
    | .ok bs =>
      let ws := (List.range 64).map (fun j => BitVec.ofNat 32 (ofBytes ((bs.drop (4 * j)).take 4)))
      if kind = 1 then .finished s o ((List.range 64).map (fun l => (0, Tgt.a l f.ax.toNat (ws.getD l 0))))
      else Step.next (s.updCore core (fun c => c.setRow f.zd.toNat o.step ws)) o 64

/-- ZST (R235). -/
def State.zstStep (s : State) (core : Nat) (o : ArrOp) (f : XFmt) (space : Nat) : Step :=
  let c := s.core core
  let kind := bitsAt f.aux 0 2
  let p := if o.sb = 0 then 256 else o.sb.toNat
  let bar := s.arrBar o f
  if kind = 2 then
    .finished (s.handRow core o (arrLoc core space o.sa.toNat) ((List.range 64).map (fun e => c.kEntry f.k.toNat e)) bar) o []
  else if kind = 1 then
    .finished (s.handRow core o (arrLoc core space o.sa.toNat) ((o.va.map (fun w => bytesOf w.toNat 4)).flatten) bar) o []
  else
    let t := f.za.toNat
    match c.poisonedRow t [o.step] with
    | some a => .bad s o 0x23 a false []
    | none =>
      let bs := ((List.range 64).map (fun j => bytesOf (c.z.get (tileKey t o.step j) 0).toNat 4)).flatten
      Step.next (s.handRow core o (arrLoc core space (o.sa.toNat + o.step * p)) bs bar) o 64

/-- One element of an epilogue (R237): code and flags. -/
def epilogueElem (f : XFmt) (z : Word) (scale bias : Word) : Nat × Nat :=
  let ty := f.ty.toNat
  let int := bitAt f.imm10 2
  let rnd := bitsAt f.imm10 3 3
  let sat := bitAt f.aux 2
  let relu : Bool := bitsAt f.imm10 0 2 = 1
  if int && !(bitAt f.aux 0) && !(bitAt f.aux 1) && ty < 8 then
    let y : Int := if relu && decide (z.toInt < 0) then 0 else z.toInt
    if ty = 2 then (wrapW 32 y, 0) else intOut 0 sat y
  else
    let x := if int then convert 9 2 rnd false z.toNat else (z.toNat, 0)
    let m := if bitAt f.aux 1 then scale.toNat else 0x3F800000
    let c := if bitAt f.aux 0 then bias.toNat else 0x80000000
    let y := fFma 9 0 (decodeFp 9 x.1) (decodeFp 9 m) (decodeFp 9 c)
    let v := if relu && y.1.testBit 31 && !(decodeFp 9 y.1).isNaN then 0 else y.1
    let r := if ty = 9 then (v, 0) else convert ty 9 rnd sat v
    (r.1, x.2 ||| y.2 ||| r.2)

/-- One row of an epilogue (R237). -/
def State.zepiStep (s : State) (core : Nat) (o : ArrOp) (f : XFmt) (space : Nat) : Step :=
  let c := s.core core
  let t := f.za.toNat
  let ty := f.ty.toNat
  let rb := rowBytes ty 64
  let p := if o.sb = 0 then rb else o.sb.toNat
  match c.poisonedRow t [o.step] with
  | some a => .bad s o 0x23 a false []
  | none =>
    let out := (List.range 64).map (fun j =>
      epilogueElem f (c.z.get (tileKey t o.step j) 0) (o.vb.getD o.step 0) (o.va.getD j 0))
    let bs := bytesOf (packN (tyBits ty) (out.map (fun r => r.1))) rb
    Step.next (s.handRow core o (arrLoc core space (o.sa.toNat + o.step * p)) bs (s.arrBar o f))
      { o with flags := o.flags ||| BitVec.ofNat 6 (out.foldl (fun x r => x ||| r.2) 0) } 64

-- the issue of an array instruction

/-- The block of an issuer holds the array (R193). -/
def State.holdsArray (s : State) (w : Who) : Bool :=
  match s.blockOf w with
  | none => false
  | some (n, b) => ((s.block n b).map (fun k => k.array)).getD false

/-- Array instructions of an issuer that are outstanding (R225). -/
def State.arrOut (s : State) (w : Who) : Nat :=
  match w.core? with
  | none => 0
  | some n => ((s.core n).aq.filter (fun o => o.who = w)).length

/-- A register pair as 64 lanes, those outside the fragment zero (R24, R224). -/
def Cx.pair64 (c : Cx) (r : Nat) : List Word :=
  let at_ := fun (l : Nat) => if c.inside l then c.v2 r l else 0
  (List.range 32).map (fun l => (at_ l).setWidth 32) ++ (List.range 32).map (fun l => (at_ l).extractLsb' 32 32)

/-- An a register as 64 lanes. -/
def Cx.areg (c : Cx) (r : Nat) : List Word := (List.range 64).map (fun l => c.u.rdA r l)

/-- An a register of the stream, or a pair of a gang, as 64 lanes (R24). -/
def Cx.lanes64 (c : Cx) (a v : Nat) : List Word := if c.who.isGang then c.pair64 v else c.areg a

/-- The place of an issuer among those that issue in one cycle (R222): the stream, then gangs by number. -/
def arrRank (w : Who) : Nat :=
  match w with
  | .gang _ g => g + 1
  | _ => 0

/-- The queue with one more instruction, in the order of R222. -/
def enterQueue (o : ArrOp) : List ArrOp → List ArrOp
  | [] => [o]
  | p :: r => if p.cycle = o.cycle ∧ !p.started ∧ arrRank o.who < arrRank p.who then o :: p :: r else p :: enterQueue o r

/-- An instruction enters the array queue, outstanding for every slice of its fragment (R222, R224); a full queue stalls
it. -/
def Cx.enqueue (c : Cx) (i : Instr) (sa sb : Dword) (va vb : List Word) (s : State) : Res :=
  match c.who.core? with
  | none => .ok s
  | some n =>
    if 16 ≤ (s.core n).aq.length then .stall .queueFull s
    else
      let r := c.u.pushAsync .array c.fr.isDbg c.slices false (fun _ => [])
      let o : ArrOp :=
        { who := c.who, slices := if c.who.isGang then BitVec.ofNat 8 (maskOf c.slices) else 0, lmask := c.fr.lmask, dbg := c.fr.isDbg,
          pc := c.cur.at_, ins := i, tag := r.2, sa := sa, sb := sb, pitch := c.u.mpitch, va := va, vb := vb,
          started := false, ended := false, step := 0, maxIn := 0, swaps := 0, status := 0, scol := 0, tau := [], flags := 0,
          cycle := s.cycles }
      .ok ((s.updIssuer c.who (fun u => (u.pushAsync .array c.fr.isDbg c.slices false (fun _ => [])).1)).updCore n
        (fun k => { k with aq := enterQueue o k.aq }))

/-- One operand footprint: base, pitch as given, row bytes, rows, and the size of its space (R227, R235, R236). -/
structure Foot where
  base : Dword
  pitch : Dword
  rb : Nat
  rows : Nat
  size : Nat
  deriving DecidableEq, Repr

/-- The tests of R227 over the operands of an instruction: INFO and TVAL of the first that fails. -/
def footBad (fs : List Foot) : Option (Nat × Dword) :=
  match fs.find? (fun g => g.base.toNat % 16 ≠ 0) with
  | some g => some (1, g.base)
  | none =>
    match fs.find? (fun g => g.pitch ≠ 0 && (decide (2 ^ 32 ≤ g.pitch.toNat) || g.pitch.toNat % 16 ≠ 0 || decide (g.pitch.toNat < g.rb))) with
    | some g => some (2, g.pitch)
    | none =>
      (fs.find? (fun g => decide (g.size < g.base.toNat + (g.rows - 1) * (if g.pitch = 0 then g.rb else g.pitch.toNat) + g.rb))).map
        (fun g => (3, g.base))

/-- The issue of an array instruction (R193, R203, R222, R227): NOARRAY, the barrier, MARG, then the queue. -/
def Cx.arrIssue (c : Cx) (i : Instr) (bar : Option Nat) (fs : List Foot) (sa sb : Dword) (va vb : List Word) (s : State) : Res :=
  if !(s.holdsArray c.who) then .trap (c.fault 0x40 0 0) s
  else if (match bar with
      | none => false
      | some b => decide (s.barCount c.who ≤ b)) then .trap (c.fault 0x42 1 0) s
  else match footBad fs with
    | some (n, v) => .trap (c.fault 0x20 n v) s
    | none => c.enqueue i sa sb va vb s

/-- The footprints of a multiply form (R226, R227). PB is not tested where B comes from a weight slot (notes/assumptions 153: DEDUCED). -/
def Cx.mulFeet (c : Cx) (op : Nat) (f : XFmt) : List Foot :=
  let kk := 32 * (bitsAt f.imm10 0 4 + 1)
  let aty := if op = 0x2C2 then 0 else f.ty.toNat
  [{ base := c.sl f.sa, pitch := BitVec.ofNat 64 (bitsAt c.u.mpitch 0 32), rb := rowBytes aty kk, rows := 64,
     size := Config.scratchBytes }]
    ++ (if bitAt f.aux 0 then
      [{ base := c.sl f.sb, pitch := BitVec.ofNat 64 (bitsAt c.u.mpitch 32 32), rb := rowBytes f.ty.toNat kk, rows := 64,
         size := Config.scratchBytes }] else [])

/-- MMA (R229, R230). -/
def execMma (h : Hdr) (f : XFmt) (s : State) : Host.Outcome State Fault Refusal :=
  issue (.mma h f) h (fun c s => c.arrIssue (.mma h f) none (c.mulFeet 0x2C0 f) (c.sl f.sa) (c.sl f.sb) [] [] s) s

/-- MMAS (R22 to R24, R229, R230). -/
def execMmas (h : Hdr) (f : XFmt) (s : State) : Host.Outcome State Fault Refusal :=
  issue (.mmas h f) h (fun c s => c.arrIssue (.mmas h f) none (c.mulFeet 0x2C1 f) (c.sl f.sa) (c.sl f.sb)
    (c.lanes64 f.ax.toNat f.vx.toNat) (c.lanes64 f.ay.toNat f.vy.toNat) s) s

/-- MMAT (R229, R230). -/
def execMmat (h : Hdr) (f : XFmt) (s : State) : Host.Outcome State Fault Refusal :=
  issue (.mmat h f) h (fun c s => c.arrIssue (.mmat h f) none (c.mulFeet 0x2C2 f) (c.sl f.sa) (c.sl f.sb) [] [] s) s

/-- HLD (R232). -/
def execHld (h : Hdr) (f : XFmt) (s : State) : Host.Outcome State Fault Refusal :=
  issue (.hld h f) h (fun c s => c.arrIssue (.hld h f) none
    [{ base := c.sl f.sa, pitch := 0, rb := 0, rows := 1, size := 2 ^ 64 }] (c.sl f.sa) 0 [] [] s) s

/-- ZCLR (R235). -/
def execZclr (h : Hdr) (f : XFmt) (s : State) : Host.Outcome State Fault Refusal :=
  issue (.zclr h f) h (fun c s => c.arrIssue (.zclr h f) none [] 0 0 [] [] s) s

/-- The footprint of a move of a kind (R235). -/
def Cx.moveFoot (c : Cx) (f : XFmt) (lvl : BitVec 3) : Foot :=
  let kind := bitsAt f.aux 0 2
  { base := c.sl f.sa, pitch := if kind = 0 then c.sl f.sb else 0, rb := if kind = 2 then 64 else 256,
    rows := if kind = 0 then 64 else 1, size := spaceSize ((resolve c.u.level lvl.toNat).getD 0) }

/-- ZLD (R235). -/
def execZld (h : Hdr) (f : XFmt) (s : State) : Host.Outcome State Fault Refusal :=
  issue (.zld h f) h (fun c s => c.arrIssue (.zld h f) none [c.moveFoot f f.lfrom] (c.sl f.sa) (c.sl f.sb) [] [] s) s

/-- ZST (R235). -/
def execZst (h : Hdr) (f : XFmt) (s : State) : Host.Outcome State Fault Refusal :=
  issue (.zst h f) h (fun c s => c.arrIssue (.zst h f) (if bitAt f.aux 3 then some f.b.toNat else none)
    [c.moveFoot f f.lto] (c.sl f.sa) (c.sl f.sb) [] [] s) s

/-- ZLD.a (R235): the stream only. -/
def execZldA (h : Hdr) (f : XFmt) (s : State) : Host.Outcome State Fault Refusal :=
  issue (.zldA h f) h (fun c s => c.arrIssue (.zldA h f) none [c.moveFoot f f.lfrom] (c.sl f.sa) 0 [] [] s) s

/-- ZLD.k (R235). -/
def execZldK (h : Hdr) (f : XFmt) (s : State) : Host.Outcome State Fault Refusal :=
  issue (.zldK h f) h (fun c s => c.arrIssue (.zldK h f) none [c.moveFoot f f.lfrom] (c.sl f.sa) 0 [] [] s) s

/-- ZST.a (R235): the register is read at issue. -/
def execZstA (h : Hdr) (f : XFmt) (s : State) : Host.Outcome State Fault Refusal :=
  issue (.zstA h f) h (fun c s => c.arrIssue (.zstA h f) (if bitAt f.aux 3 then some f.b.toNat else none)
    [c.moveFoot f f.lto] (c.sl f.sa) 0 (c.areg f.ax.toNat) [] s) s

/-- ZST.k (R235). -/
def execZstK (h : Hdr) (f : XFmt) (s : State) : Host.Outcome State Fault Refusal :=
  issue (.zstK h f) h (fun c s => c.arrIssue (.zstK h f) (if bitAt f.aux 3 then some f.b.toNat else none)
    [c.moveFoot f f.lto] (c.sl f.sa) 0 [] [] s) s

/-- ZEPI (R236). -/
def execZepi (h : Hdr) (f : XFmt) (s : State) : Host.Outcome State Fault Refusal :=
  issue (.zepi h f) h (fun c s => c.arrIssue (.zepi h f) (if bitAt f.aux 3 then some f.b.toNat else none)
    [{ base := c.sl f.sa, pitch := c.sl f.sb, rb := rowBytes f.ty.toNat 64, rows := 64,
       size := spaceSize ((resolve c.u.level f.lto.toNat).getD 0) }] (c.sl f.sa) (c.sl f.sb)
    (if bitAt f.aux 0 then c.lanes64 f.ax.toNat f.vx.toNat else [])
    (if bitAt f.aux 1 then c.lanes64 f.ay.toNat f.vy.toNat else []) s) s

/-- MWAIT (R240): it takes its record when it issues and enters the queue as every instruction of its group does (R222), with the
slices that the record is for (R47). -/
def execMwait (h : Hdr) (f : XFmt) (s : State) : Host.Outcome State Fault Refusal :=
  issue (.mwait h f) h (fun c s =>
    if !(s.holdsArray c.who) then .trap (c.fault 0x40 0 0) s
    else
      let out := s.arrOut c.who
      if f.imm10.toNat < out then .stall .matrix s
      else
        let v : Dword := fieldAt 32 out ||| fieldAt 0 c.u.mwDone
        match c.enqueue (.mwait h f) v (c.passMask.setWidth 64) [] [] s with
        | .ok s => .ok (s.updIssuer c.who (fun u => { u with mwDone := 0 }))
        | r => r) s

end Sys2Proof.Machine
end

