-- ==== Sys2Proof/Machine/Csr.lean ====
section
/-! DEFINITION. The control registers an issuer reads and writes (R33, R96, R126, R129 to R132, R182, R206, R218, R244, R285,
R320, R359, R379, R413): CSRR, CSRW, and the two writes that act (R186, R285). -/
namespace Sys2Proof.Machine

/-- Causes of the control registers (R123). -/
def cPriv : Nat := 7
def cNum : Nat := 8
def cVal : Nat := 10

/-- BARCFGn and BARSTATn (R206). -/
def Barrier.cfg (b : Barrier) : Dword := fieldAt 32 b.target.toNat ||| fieldAt 0 b.expect.toNat
def Barrier.stat (b : Barrier) : Dword :=
  fieldAt 32 b.bytes.toNat ||| fieldAt 16 b.phase.toNat ||| fieldAt 15 (b2n b.err) ||| fieldAt 0 b.arrived.toNat

/-- Whether a gang is whole (R80). -/
def Issuer.whole (u : Issuer) : Bool :=
  u.haltedLanes.isEmpty && u.frags.any (fun p => p.1 < 8 && p.2.smask == 0xFF && p.2.lmask == 0xFFFFFFFF && p.2.st != FragSt.free)

/-- GSTAT (R96). -/
def Issuer.gstat (u : Issuer) (g : Nat) : Dword :=
  fieldAt 32 u.unfused.toNat ||| fieldAt 24 u.alloc ||| fieldAt 20 (u.frags.filter (fun p => p.2.st != FragSt.free)).length
    ||| fieldAt 16 (b2n u.whole) ||| fieldAt 6 u.blk ||| fieldAt 0 g

/-- LOGSTAT (R182). -/
def Issuer.logstat (u : Issuer) : Dword :=
  fieldAt 31 (b2n u.logFlt) ||| fieldAt 30 (b2n u.logDropped) ||| fieldAt 8 u.logFent ||| fieldAt 0 (Nat.min 16 u.log.length)

/-- QSTATn of a slice (R182). -/
def Issuer.qstat (u : Issuer) (q j : Nat) : Dword :=
  match u.ladles.find (8 * q + j) with
  | none => 0
  | some l =>
    let err := l.got.any (fun g => g.ahead = 0 && !g.bad.isEmpty)
    fieldAt 56 l.win ||| fieldAt 24 l.pos.toNat ||| fieldAt 8 l.ends.toNat ||| fieldAt 2 (b2n err) ||| fieldAt 1 (b2n l.exhausted) ||| 1

/-- BSTAT of block `b` of core `n` (R218). -/
def State.bstat (s : State) (n b : Nat) (k : Block) : Dword :=
  let gs := (s.core n).gangsOf b
  fieldAt 16 (maskOf (gs.map (fun p => p.1))) ||| fieldAt 15 (b2n k.array) ||| fieldAt 10 gs.length ||| fieldAt 5 k.bars ||| fieldAt 0 b

/-- MPROG (R244, R263): a ZST or ZEPI with every row accepted is shown no more (notes/assumptions 156: DEDUCED). -/
def Core.mprog (c : Core) : Dword :=
  match c.aq.find? (fun o => !o.ended) with
  | none => 0
  | some o =>
    if !o.started then 0
    else
      let op := match o.ins.form with
        | some (op, _, _) => op
        | none => 0
      let gid := match o.who with
        | .gang _ g => g % 32
        | .stream _ _ => 0
        | .clusterSeq _ => 0
        | .dieSeq _ => 0
        | .packageSeq => 0
      let detail := if op / 64 = 12 then 256 * o.status + o.scol % 256 else 0
      fieldAt 63 1 ||| fieldAt 48 op ||| fieldAt 47 (b2n (!o.who.isGang)) ||| fieldAt 42 gid
        ||| fieldAt 16 (o.step % 2 ^ 16) ||| fieldAt 0 detail

/-- HDESCn (R244). -/
def Core.hdesc (c : Core) (n : Nat) : Dword :=
  match c.hslots.find n with
  | none => 0
  | some h =>
    if !h.valid then 0
    else fieldAt 63 1 ||| fieldAt 48 h.mode ||| fieldAt 32 h.kext ||| fieldAt 16 h.format ||| fieldAt 0 h.payload.length

/-- PRSTAT (R320). -/
def Block.prstat (k : Block) : Dword := fieldAt 63 (b2n k.preq) ||| fieldAt 32 k.pkind ||| fieldAt 16 k.saves.toNat

/-- LEVEL (R131). -/
def State.levelReg (s : State) (u : Issuer) : Dword :=
  fieldAt 16 s.podroot.toNat ||| fieldAt 3 (b2n s.isRoot) ||| fieldAt 0 u.level

/-- Whether the context of an issuer carries DEBUG (R264, R285). -/
def State.debugOk (s : State) (u : Issuer) : Bool := (s.ctxOf u.ctx).debug

/-- A block of barrier registers: its kind of barrier, if the number lies in it and the issuer has it (R218, R359, R379,
R413), and whether the issuer may write it. -/
def barRegs (w : Who) (num : Nat) : Option (Nat × Bool) :=
  let k := num / 32
  match w with
  | .gang _ _ =>
    if k = 0x10 ∨ (num / 16 = 0x22) then none
    else if k = 0x12 then some (2, false) else if k = 0x13 then some (3, false) else if k = 0x14 then some (4, false) else none
  | .stream _ _ => if k = 0x12 then some (2, true) else if k = 0x13 then some (3, false) else if k = 0x14 then some (4, false) else none
  | .clusterSeq _ => if k = 0x12 then some (2, true) else if k = 0x13 then some (3, false) else if k = 0x14 then some (4, false) else none
  | .dieSeq _ => if k = 0x13 then some (3, true) else if k = 0x14 then some (4, false) else none
  | .packageSeq => if k = 0x14 then some (4, true) else none

/-- A control register as issuer `w` reads it in slice `j`: its value, or the cause of the fault (R129, R130). -/
def State.csrRead (s : State) (w : Who) (u : Issuer) (num j : Nat) : Nat ⊕ Dword :=
  let gang : Option Nat := match w with
    | .gang _ g => some g
    | .stream _ _ => none
    | .clusterSeq _ => none
    | .dieSeq _ => none
    | .packageSeq => none
  let blk : Option (Nat × Nat × Block) := match s.blockOf w with
    | none => none
    | some (n, b) => (s.block n b).map (fun k => (n, b, k))
  if num = 0x10 then .inr ((u.rdF j).setWidth 64)
  else if num = 0x12 then .inr (s.levelReg u)
  else if num = 0x20 then .inr u.tvec
  else if num = 0x21 then .inr u.tepc
  else if num = 0x22 then .inr u.tcause
  else if num = 0x23 then .inr u.tval
  else if num = 0x24 then .inr (u.tmask.setWidth 64)
  else if num = 0x25 then .inr (u.tscr0.get j 0)
  else if num = 0x26 then .inr (u.tscr1.get j 0)
  else match barRegs w num with
  | some (lvl, _) =>
    let b := s.bar (s.barKey w lvl (num % 16))
    .inr (if num / 16 % 2 = 0 then b.cfg else b.stat)
  | none =>
  match gang, (if num = 0x11 ∨ num / 256 = 1 then true else false) with
  | none, true => .inl cNum
  | some g, true =>
    if num = 0x11 then .inr (u.gstat g)
    else if num = 0x100 then .inr u.logstat
    else if num = 0x101 then .inr (u.lfpc.setWidth 64)
    else if num = 0x102 then .inr u.lflanes
    else if num = 0x103 then .inr 0
    else if 0x110 ≤ num ∧ num ≤ 0x117 then .inr (u.qstat (num - 0x110) j)
    else .inl cNum
  | _, false =>
  match blk with
  | none => .inl cNum
  | some (n, b, k) =>
    let c := s.core n
    let ctx := s.ctxOf u.ctx
    let p := c.probe
    let dbg := fun (v : Dword) => if s.debugOk u then (.inr v : Nat ⊕ Dword) else .inl cPriv
    if num = 0x30 then .inr (k.bprog.setWidth 64)
    else if num = 0x200 then .inr (s.bstat n b k)
    else if num = 0x201 then .inr (k.hdr.setWidth 64)
    else if num = 0x202 then .inr (ctx.shKey.setWidth 64)
    else if num = 0x203 then .inr (fieldAt 0 (s.outstanding w % 1024))
    else if 0x210 ≤ num ∧ num ≤ 0x21F then .inr (s.bar (.block n b (num - 0x210))).cfg
    else if 0x220 ≤ num ∧ num ≤ 0x22F then .inr (s.bar (.block n b (num - 0x220))).stat
    else if num = 0x300 then (if k.array then .inr c.mprog else .inl cPriv)
    else if num = 0x301 then .inr u.mpitch
    else if num = 0x302 then .inr (u.mfpc.setWidth 64)
    else if num = 0x303 then .inr (fieldAt 32 (s.arrOut w) ||| fieldAt 0 u.mdrop.toNat)
    else if 0x310 ≤ num ∧ num ≤ 0x31F then (if k.array then .inr (c.hdesc (num - 0x310)) else .inl cPriv)
    else if num / 16 = 0x40 then dbg ((Tab.sieve p.sieves (num % 16)).desc.setWidth 64)
    else if num / 16 = 0x41 then dbg ((Tab.sieve p.sieves (num % 16)).desc.extractLsb' 64 64)
    else if num / 16 = 0x42 then dbg (Tab.sieve p.sieves (num % 16)).opa
    else if num / 16 = 0x43 then dbg (Tab.sieve p.sieves (num % 16)).opb
    else if num / 16 = 0x44 then dbg (Tab.sieve p.sieves (num % 16)).cnt
    else if num = 0x450 then dbg p.svhit
    else if num = 0x451 then dbg p.svhpc
    else if num = 0x460 then .inr p.trctl
    else if num = 0x461 then .inr p.trbase
    else if num = 0x462 then .inr p.trptr
    else if num = 0x463 then .inr p.trrd
    else if num = 0x464 then .inr p.trlost
    else if num = 0x470 then dbg (fieldAt 0 (b2n p.hctl))
    else if 0x480 ≤ num ∧ num ≤ 0x4A0 then .inr (p.histe.get (num - 0x480) 0)
    else if 0x4B0 ≤ num ∧ num ≤ 0x4BA then .inr (p.histr.get (num - 0x4B0) 0)
    else if num = 0x500 then .inr ctx.prcfg
    else if num = 0x501 then .inr k.prstat
    else if num = 0x502 then .inr ctx.prgen
    else .inl cNum

/-- Every stall histogram register becomes zero (R285). -/
def Probe.clearHist (p : Probe) : Probe := { p with histe := [], histr := [] }

/-- DROP (R182, R186): it counts while a handler for a log fault runs. -/
def Issuer.logDrop (u : Issuer) : Issuer := if u.logFlt then { u with logDropped := true } else u

/-- A write to a barrier's configuration (R204, R206, R359): the INFO of BARARG, or the state. -/
def State.writeBarCfg (s : State) (k : BarKey) (v : Dword) : Nat ⊕ State :=
  let e := bitsAt v 0 5
  let ok := if k.marked then e ≤ 17 || e == 31 else e ≤ 30
  if !ok then .inl 2
  else
    let b := { s.bar k with target := v.extractLsb' 32 32, expect := v.setWidth 5 }
    .inr (({ s with bars := s.bars.put k b } : State).barTest k false)

/-- Bits `m` of a register taken from the value written (R129). -/
def rwBits (old v m : Dword) : Dword := (old &&& ~~~m) ||| (v &&& m)

/-- The write of a control register by `w` in slices `js`, `val` being the value of each and `v` that of the lowest (R129): the
state, or the cause and INFO of the fault. -/
def State.csrWrite (s : State) (w : Who) (u : Issuer) (num : Nat) (js : List Nat) (val : Nat → Dword) (v : Dword) :
    (Nat × Nat) ⊕ State :=
  let put := fun (f : Issuer → Issuer) => (.inr (s.updIssuer w f) : (Nat × Nat) ⊕ State)
  let num' : (Nat × Nat) ⊕ State := .inl (cNum, 0)
  if num = 0x10 then
    put (fun u => js.foldl (fun u j => { u with fstat := u.fstat.put j (u.rdF j &&& ~~~((val j).setWidth 6)) }) u)
  else if num = 0x20 then put (fun u => { u with tvec := v })
  else if num = 0x21 then put (fun u => { u with tepc := v })
  else if num = 0x22 then put (fun u => { u with tcause := rwBits u.tcause v 0x0000FFFF000007FF })
  else if num = 0x23 then put (fun u => { u with tval := v })
  else if num = 0x25 then put (fun u => js.foldl (fun u j => { u with tscr0 := u.tscr0.put j (val j) }) u)
  else if num = 0x26 then put (fun u => js.foldl (fun u j => { u with tscr1 := u.tscr1.put j (val j) }) u)
  else match barRegs w num with
  | some (lvl, wr) =>
    if !wr then .inl (cPriv, 0)
    else if num / 16 % 2 = 1 then num'
    else match s.writeBarCfg (s.barKey w lvl (num % 16)) v with
      | .inl i => .inl (0x42, i)
      | .inr s => .inr s
  | none =>
  match s.csrRead w u num 0 with
  | .inl c => .inl (c, 0)
  | .inr _ =>
    if num = 0x11 then put (fun u => { u with unfused := v.extractLsb' 32 16 })
    else if num = 0x103 then (if bitAt v 0 then put Issuer.logDrop else .inr s)
    else if num = 0x301 then put (fun u => { u with mpitch := v })
    else match s.blockOf w with
    | none => num'
    | some (n, b) =>
      let probe := fun (f : Probe → Probe) => (.inr (s.updProbe n f) : (Nat × Nat) ⊕ State)
      let trace := fun (f : Probe → Probe) => (.inr ((s.updProbe n f).lostRec n) : (Nat × Nat) ⊕ State)
      if num = 0x30 then .inr (s.writeProg w (v.setWidth 16))
      else if 0x210 ≤ num ∧ num ≤ 0x21F then
        (match s.writeBarCfg (.block n b (num - 0x210)) v with
          | .inl i => .inl (0x42, i)
          | .inr s => .inr s)
      else if num / 16 = 0x44 then
        probe (fun p => { p with sieves := p.sieves.put (num % 16) { Tab.sieve p.sieves (num % 16) with cnt := v } })
      else if num = 0x450 then
        probe (fun p => { p with svhit := (p.svhit &&& ~~~v &&& (1 <<< 63)) ||| (v &&& 0xF3FF) })
      else if num = 0x460 then
        (if bitsAt v 8 5 < 4 ∨ 24 < bitsAt v 8 5 then .inl (cVal, 0) else trace (fun p => { p with trctl := v &&& 0x1FFF }))
      else if num = 0x461 then
        (if bitsAt v 0 6 ≠ 0 then .inl (cVal, 0) else probe (fun p => { p with trbase := v &&& 0x01FFFFFFFFFFFFFF }))
      else if num = 0x463 then trace (fun p => { p with trrd := v })
      else if num = 0x464 then probe (fun p => { p with trlost := v })
      else if num = 0x470 then
        probe (fun p => if bitAt v 1 then { p.clearHist with hctl := bitAt v 0 } else { p with hctl := bitAt v 0 })
      else if num = 0x500 then .inr (s.updCtx u.ctx (fun c =>
        { c with prcfg := rwBits c.prcfg v 0xFFFFFFFFFFFF0000
                 prcfgWas := some (s.cycles, match c.prcfgWas with
                   | none => c.prcfg
                   | some w => if w.1 = s.cycles then w.2 else c.prcfg) }))
      else num'

/-- CSRR (R129). -/
def execCsrr (h : Hdr) (f : DFmt) (s : State) : Host.Outcome State Fault Refusal :=
  issue (.csrr h f) h (fun c s =>
    match s.csrRead c.who c.u f.csr.toNat c.low with
    | .inl k => .trap (c.fault k 0 0) s
    | .inr _ => .ok (c.putS f.sd (fun j => match s.csrRead c.who c.u f.csr.toNat j with
        | .inl _ => 0
        | .inr v => v) s)) s

/-- CSRW (R129). -/
def execCsrw (h : Hdr) (f : DFmt) (s : State) : Host.Outcome State Fault Refusal :=
  issue (.csrw h f) h (fun c s =>
    match s.csrWrite c.who c.u f.csr.toNat c.pass (fun j => c.s f.sa j) (c.sl f.sa) with
    | .inl (k, i) => .trap (c.fault k i 0) s
    | .inr s => .ok s) s

/-- HCTL_CLR (R285): the histograms of a core become zero. -/
def execHctlClr (core : Nat) (s : State) : Host.Outcome State Fault Refusal := .next (s.updProbe core Probe.clearHist)

/-- LOGCTL_DROP (R186): the lanes being reported to the handler of a gang will be abandoned. -/
def execLogctlDrop (core gid : Nat) (s : State) : Host.Outcome State Fault Refusal :=
  .next (s.updIssuer (.gang core gid) Issuer.logDrop)

end Sys2Proof.Machine
end

