-- ==== Sys2Proof/Machine/Factor.lean ====
section
/-! DEFINITION. Factorisations as instructions (R245 to R263), and the events of the array: one step of the instruction at
the head of the queue (R222, R241), and a row that has reached memory (R237). -/
namespace Sys2Proof.Machine

/-- The fields of a shape register (R246). -/
structure Shape where
  ncol : Nat
  nrow : Nat
  ninn : Nat
  row0 : Nat
  col0 : Nat
  arow : Nat
  acol : Nat
  deriving DecidableEq, Repr

/-- See `Shape`. -/
def Shape.of (x : Dword) : Shape :=
  { ncol := bitsAt x 0 7, nrow := bitsAt x 8 7, ninn := bitsAt x 16 7, row0 := bitsAt x 24 7, col0 := bitsAt x 32 7,
    arow := bitsAt x 40 7, acol := bitsAt x 48 7 }

/-- A region of a tile: first row and rows, first column and columns. -/
structure Region where
  row : Nat
  rows : Nat
  col : Nat
  cols : Nat
  deriving DecidableEq, Repr

/-- The regions of an instruction, the main region first (R253 to R261). -/
def Shape.regions (op : Nat) (p : Shape) : List Region :=
  let main : Region := ⟨p.row0, p.nrow, p.col0, p.ncol⟩
  if op = 0x303 then [main, ⟨p.arow, p.nrow, p.acol, p.nrow⟩]
  else if op = 0x304 then [main, ⟨p.arow, p.nrow, p.acol, p.ninn⟩]
  else if op = 0x306 then [main, ⟨p.row0, p.nrow, p.acol, p.ninn⟩, ⟨p.arow, p.ninn, p.col0, p.ncol⟩]
  else [main]

/-- Whether two regions share an element. -/
def Region.meets (a b : Region) : Bool :=
  decide (a.row < b.row + b.rows) && decide (b.row < a.row + a.rows)
    && decide (a.col < b.col + b.cols) && decide (b.col < a.col + a.cols)

/-- The working width (R245). -/
def workWidth (ty : Nat) : Nat := if ty = 8 then 32 else 64

/-- The INFO of FARG (R247), or none where the shape passes. -/
def shapeBad (op ty : Nat) (same : Bool) (x : Dword) : Option Nat :=
  let p := Shape.of x
  let w := workWidth ty
  let inn : Bool := op = 0x304 || op = 0x306
  let org : Bool := inn || op = 0x303
  let rsv := bitsAt x 55 9 + b2n (bitAt x 47) + b2n (bitAt x 39) + b2n (bitAt x 31) + b2n (bitAt x 23) + b2n (bitAt x 15)
    + b2n (bitAt x 7)
  let rs := p.regions op
  if rsv ≠ 0 ∨ p.ncol = 0 ∨ p.nrow = 0 ∨ (inn ∧ p.ninn = 0) ∨ (!inn ∧ p.ninn ≠ 0) ∨ (!org ∧ (p.arow ≠ 0 ∨ p.acol ≠ 0))
      ∨ rs.any (fun r => decide (w < r.row + r.rows) || decide (w < r.col + r.cols)) then some 1
  else if ((op = 0x300 ∨ op = 0x302) ∧ p.nrow < p.ncol) ∨ (op = 0x301 ∧ p.nrow ≠ p.ncol) ∨ (op = 0x304 ∧ p.nrow < p.ninn) then some 2
  else match rs with
    | [] => none
    | m :: r => if same && r.any (fun q => m.meets q) then some 3 else none

/-- The tiles under work and the flags raised so far. -/
structure Work where
  z : Tab Nat Word
  fl : Nat
  deriving DecidableEq, Repr

/-- Element (i, j) of a tile or, in FP64, of a tile pair (R245). -/
def Work.get (w : Work) (ty t i j : Nat) : Nat :=
  let lo := (w.z.get (tileKey t i j) 0).toNat
  if ty = 8 then lo + 2 ^ 32 * (w.z.get (tileKey (t + 1) i j) 0).toNat else lo

/-- The bits of element (i, j) replaced. -/
def Work.put (w : Work) (ty t i j x : Nat) : Work :=
  let z := w.z.put (tileKey t i j) (BitVec.ofNat 32 x)
  { w with z := if ty = 8 then z.put (tileKey (t + 1) i j) (BitVec.ofNat 32 (x / 2 ^ 32)) else z }

/-- The result of an operation stored, its flags joined. -/
def Work.set (w : Work) (ty t i j : Nat) (r : Nat × Nat) : Work := { w.put ty t i j r.1 with fl := w.fl ||| r.2 }

/-- Flags joined. -/
def Work.raise (w : Work) (fl : Nat) : Work := { w with fl := w.fl ||| fl }

/-- The operations of R252 on codes: one rounding, to nearest even. -/
def fmaC (ty a b c : Nat) : Nat × Nat := fFma ty 0 (decodeFp ty a) (decodeFp ty b) (decodeFp ty c)
def mulC (ty a b : Nat) : Nat × Nat := fMul ty 0 (decodeFp ty a) (decodeFp ty b)
def subC (ty a b : Nat) : Nat × Nat := fAdd ty 0 (decodeFp ty a) (decodeFp ty b).neg
def divC (ty a b : Nat) : Nat × Nat := fDiv ty 0 (decodeFp ty a) (decodeFp ty b)
def sqrtC (ty a : Nat) : Nat × Nat := fSqrt ty 0 (decodeFp ty a)

/-- A sign bit flipped (R252). -/
def negC (ty x : Nat) : Nat := x ^^^ 2 ^ (fpWidth ty - 1)

/-- A code without its sign bit; whether it is a NaN. -/
def magC (ty x : Nat) : Nat := x % 2 ^ (fpWidth ty - 1)
def nanC (ty x : Nat) : Bool := (decodeFp ty x).isNaN

/-- `larger` of R253. -/
def largerC (ty x y : Nat) : Bool :=
  if nanC ty x then !(nanC ty y) else !(nanC ty y) && decide (magC ty y < magC ty x)

/-- The greatest magnitude of some codes, a NaN if one of them is (R251). -/
def maxMag (ty : Nat) (xs : List Nat) : Nat :=
  xs.foldl (fun a x => if nanC ty a || nanC ty x then canonNaN ty else Nat.max a (magC ty x)) 0

/-- GROWTH (R251) from the two maxima: no flag. -/
def growthOf (ty maxIn maxOut : Nat) : Nat :=
  if nanC ty maxIn || nanC ty maxOut then canonNaN 9
  else if maxIn = 0 then (if maxOut = 0 then 0 else infCode 9 false)
  else (fDiv 9 2 (decodeFp ty maxOut) (decodeFp ty maxIn)).1

/-- Rows a..b-1. -/
def span (a b : Nat) : List Nat := (List.range (b - a)).map (fun i => a + i)

/-- Two rows of a tile change places in some columns, bits as they are (R253, R261). -/
def Work.swap (w : Work) (ty t a b : Nat) (cols : List Nat) : Work :=
  cols.foldl (fun w j =>
    let x := w.get ty t a j
    let y := w.get ty t b j
    (w.put ty t a j y).put ty t b j x) w

/-- What a step of group 12 leaves: tiles and flags, swaps, status and scol, k entries written, τ formed, and whether the
instruction ends here. -/
structure FactOut where
  w : Work
  swaps : Nat
  status : Nat
  scol : Nat
  kset : List (Nat × Nat)
  tau : List (Nat × Nat)
  stop : Bool
  deriving DecidableEq, Repr

/-- The first code of STATUS that is set stays (R250). -/
def FactOut.note (r : FactOut) (st s : Nat) : FactOut := if r.status = 0 then { r with status := st, scol := s } else r

/-- One column step of FACT.LU (R253). -/
def luStep (ty t : Nat) (p : Shape) (s : Nat) (r : FactOut) : FactOut :=
  let w := r.w
  let d := p.row0 + s
  let col := p.col0 + s
  let below := span (d + 1) (p.row0 + p.nrow)
  let q := below.foldl (fun q i => if largerC ty (w.get ty t i col) (w.get ty t q col) then i else q) d
  let r := { r with kset := [(d, q)] }
  let r := if q = d then r else { r with w := w.swap ty t q d (List.range (workWidth ty)), swaps := r.swaps + 1 }
  let piv := r.w.get ty t d col
  if magC ty piv = 0 then r.note 1 s
  else
    let w := below.foldl (fun w i => w.set ty t i col (divC ty (w.get ty t i col) piv)) r.w
    let w := below.foldl (fun w i => (span (col + 1) (p.col0 + p.ncol)).foldl (fun w j =>
      w.set ty t i j (fmaC ty (negC ty (w.get ty t i col)) (w.get ty t d j) (w.get ty t i j))) w) w
    { r with w := w }

/-- One column step of FACT.CH (R255). -/
def chStep (ty t : Nat) (p : Shape) (s : Nat) (r : FactOut) : FactOut :=
  let w := r.w
  let d := p.row0 + s
  let col := p.col0 + s
  let a := w.get ty t d col
  let below := span (d + 1) (p.row0 + p.ncol)
  if nanC ty a || magC ty a = 0 || a.testBit (fpWidth ty - 1) then { r.note 2 s with stop := true }
  else
    let l := sqrtC ty a
    let w := w.set ty t d col l
    let w := below.foldl (fun w i => w.set ty t i col (divC ty (w.get ty t i col) l.1)) w
    let w := below.foldl (fun w i => (span (col + 1) (p.col0 + (i - p.row0) + 1)).foldl (fun w j =>
      w.set ty t i j (fmaC ty (negC ty (w.get ty t i col)) (w.get ty t (p.row0 + (j - p.col0)) col) (w.get ty t i j))) w) w
    { r with w := w }

/-- `apply_reflector` of R256 with τ and the reflector's elements below its implied one. -/
def reflect (ty t tau d last jlo jhi : Nat) (v : Work → Nat → Nat) (w : Work) : Work :=
  let below := span (d + 1) (last + 1)
  (span jlo (jhi + 1)).foldl (fun w j =>
    let h := below.foldl (fun (h : Nat × Nat) i =>
      let x := fmaC ty (v w i) (w.get ty t i j) h.1
      (x.1, h.2 ||| x.2)) (w.get ty t d j, 0)
    let m := mulC ty tau h.1
    let w := (w.raise (h.2 ||| m.2)).set ty t d j (subC ty (w.get ty t d j) m.1)
    below.foldl (fun w i => w.set ty t i j (fmaC ty (negC ty m.1) (v w i) (w.get ty t i j))) w) w

/-- One column step of FACT.QR (R256); a norm that is NaN leaves the canonical one, whatever the sign of alpha (R16). -/
def qrStep (ty t : Nat) (p : Shape) (s : Nat) (r : FactOut) : FactOut :=
  let w := r.w
  let d := p.row0 + s
  let col := p.col0 + s
  let last := p.row0 + p.nrow - 1
  let below := span (d + 1) (last + 1)
  let alpha := w.get ty t d col
  let ss := below.foldl (fun (h : Nat × Nat) i =>
    let x := w.get ty t i col
    let y := fmaC ty x x h.1
    (y.1, h.2 ||| y.2)) (0, 0)
  let w := w.raise ss.2
  if magC ty ss.1 = 0 then { r with w := w, tau := r.tau ++ [(s, 0)] }
  else
    let n2 := fmaC ty alpha alpha ss.1
    let nrm := sqrtC ty n2.1
    let beta := if nanC ty nrm.1 then canonNaN ty else if alpha.testBit (fpWidth ty - 1) then nrm.1 else negC ty nrm.1
    let num := subC ty beta alpha
    let tau := divC ty num.1 beta
    let den := subC ty alpha beta
    let w := w.raise (n2.2 ||| nrm.2 ||| num.2 ||| tau.2 ||| den.2)
    let w := below.foldl (fun w i => w.set ty t i col (divC ty (w.get ty t i col) den.1)) w
    let w := reflect ty t tau.1 d last (col + 1) (p.col0 + p.ncol - 1) (fun w i => w.get ty t i col) w
    { r with w := w.put ty t d col beta, tau := r.tau ++ [(s, tau.1)] }

/-- One solution row of TRSM (R259). -/
def trsmStep (ty t ta : Nat) (up unit trans : Bool) (p : Shape) (s : Nat) (r : FactOut) : FactOut :=
  let lower := up == trans
  let i := if lower then s else p.nrow - 1 - s
  let tri := fun (w : Work) (a b : Nat) =>
    if trans then w.get ty ta (p.arow + b) (p.acol + a) else w.get ty ta (p.arow + a) (p.acol + b)
  let ls := if lower then span 0 i else span (i + 1) p.nrow
  let r := if !unit && magC ty (tri r.w i i) = 0 then r.note 3 s else r
  let w := (List.range p.ncol).foldl (fun w j =>
    let x := ls.foldl (fun (x : Nat × Nat) l =>
      let y := fmaC ty (negC ty (tri w i l)) (w.get ty t (p.row0 + l) (p.col0 + j)) x.1
      (y.1, x.2 ||| y.2)) (w.get ty t (p.row0 + i) (p.col0 + j), 0)
    let y := if unit then (x.1, 0) else divC ty x.1 (tri w i i)
    w.set ty t (p.row0 + i) (p.col0 + j) (y.1, x.2 ||| y.2)) r.w
  { r with w := w }

/-- One reflector of QAPPLY (R258), its τ read at issue. -/
def qapplyStep (ty t ta : Nat) (trans : Bool) (taus : Nat → Nat) (p : Shape) (s : Nat) (r : FactOut) : FactOut :=
  let k := if trans then s else p.ninn - 1 - s
  let w := reflect ty t (taus k) (p.row0 + k) (p.row0 + p.nrow - 1) p.col0 (p.col0 + p.ncol - 1)
    (fun w i => w.get ty ta (p.arow + (i - p.row0)) (p.acol + k)) r.w
  { r with w := w }

/-- One row of ZTR (R260). -/
def ztrStep (ty t ta : Nat) (add : Bool) (p : Shape) (s : Nat) (r : FactOut) : FactOut :=
  let w := (List.range p.ncol).foldl (fun w j =>
    let x := (List.range p.ninn).foldl (fun (x : Nat × Nat) l =>
      let a := w.get ty ta (p.row0 + s) (p.acol + l)
      let y := fmaC ty (if add then a else negC ty a) (w.get ty ta (p.arow + l) (p.col0 + j)) x.1
      (y.1, x.2 ||| y.2)) (w.get ty t (p.row0 + s) (p.col0 + j), 0)
    w.set ty t (p.row0 + s) (p.col0 + j) x) r.w
  { r with w := w }

/-- The interchanges of PERM (R261): a poisoned row, an entry of W or more, or none of either. -/
def permRows (c : Core) (ty t k : Nat) (p : Shape) : List Nat → FactOut → FactOut × Option Dword × Option Dword
  | [], r => (r, none, none)
  | i :: rest, r =>
    let a := p.row0 + i
    let q := (c.kEntry k a).toNat
    if workWidth ty ≤ q then (r, none, some (BitVec.ofNat 64 (0x100 * a + q)))
    else if q = a then permRows c ty t k p rest r
    else
      let ts := if ty = 8 then [t, t + 1] else [t]
      match ts.findSome? (fun u => c.poisonedRow u [a, q]) with
      | some v => (r, some v, none)
      | none =>
        permRows c ty t k p rest
          { r with w := r.w.swap ty t a q (span p.col0 (p.col0 + p.ncol)), swaps := r.swaps + 1 }

/-- The rows of zd and of za that a step reads (R262); the step with which a FACT ends reads the output triangle too (R251),
and one whose pivot stops it reads no other row below that pivot (R255). -/
def rowsRead (op : Nat) (unit trans lower ends npd : Bool) (p : Shape) (s : Nat) : List Nat × List Nat :=
  if op = 0x300 ∨ op = 0x301 ∨ op = 0x302 then
    (span (p.row0 + s) (p.row0 + (if npd && s != 0 then s + 1 else p.nrow))
      ++ (if ends then span p.row0 (p.row0 + p.ncol) else []), [])
  else if op = 0x303 then
    let i := if lower then s else p.nrow - 1 - s
    let ls := if lower then span 0 i else span (i + 1) p.nrow
    let own := if unit then [] else [p.arow + i]
    ((i :: ls).map (fun l => p.row0 + l),
      if trans then ls.map (fun l => p.arow + l) ++ own else if ls.isEmpty then own else [p.arow + i])
  else if op = 0x304 then
    let k := if trans then s else p.ninn - 1 - s
    (span (p.row0 + k) (p.row0 + p.nrow), span (p.arow + k + 1) (p.arow + p.nrow))
  else if op = 0x306 then ([p.row0 + s], (p.row0 + s) :: span p.arow (p.arow + p.ninn))
  else ([], [])

/-- The elements over which max_in and max_out are taken (R251). -/
def growthElems (op : Nat) (out : Bool) (p : Shape) : List (Nat × Nat) :=
  let all := ((List.range p.nrow).map (fun i => (List.range p.ncol).map (fun j => (i, j)))).flatten
  let ok := fun (q : Nat × Nat) =>
    if op = 0x301 then decide (q.2 ≤ q.1) else if out then decide (q.1 ≤ q.2) && decide (q.1 < p.ncol) else true
  (all.filter ok).map (fun q => (p.row0 + q.1, p.col0 + q.2))

/-- The status word (R250). -/
def factStatus (op ty t : Nat) (p : Shape) (o : ArrOp) (w : Work) : Dword :=
  let g := if op = 0x300 ∨ op = 0x301 ∨ op = 0x302 then
      growthOf ty o.maxIn (maxMag ty ((growthElems op true p).map (fun q => w.get ty t q.1 q.2))) else 0
  fieldAt 32 g ||| fieldAt 24 o.status ||| fieldAt 8 (o.scol % 256) ||| fieldAt 0 (o.swaps % 128)

/-- The results an instruction of group 12 delivers (R250, R257): its status word and, for FACT.QR, the τ formed, which a gang takes in the
lanes of its fragment alone: neither in other slices nor beside the debug fragment's lane (R85, R279), nor where a lane had halted (R270). -/
def factTgts (op : Nat) (f : XFmt) (o : ArrOp) (st : Dword) : List (Nat × Tgt) :=
  let stream : Bool := o.slices = 0
  let js := if stream then [0] else slicesOf o.slices
  let ty := f.ty.toNat
  let one := fun (p : Nat × Nat) =>
    if stream then
      if ty = 8 then [(0, Tgt.a p.1 f.ax.toNat (BitVec.ofNat 32 p.2)), (0, Tgt.a p.1 (f.ax.toNat + 1) (BitVec.ofNat 32 (p.2 / 2 ^ 32)))]
      else [(0, Tgt.a p.1 f.ax.toNat (BitVec.ofNat 32 p.2))]
    else
      let l := p.1 % 32
      if !(o.lmask.getLsbD l) then []
      else if ty = 8 then [(l / 4, laneTgt l f.vx.toNat p.2), (l / 4, laneTgt l (f.vx.toNat + 1) (p.2 / 2 ^ 32))]
      else [(l / 4, laneTgt l (f.vx.toNat + p.1 / 32) p.2)]
  js.map (fun j => (j, Tgt.s j f.sb.toNat st))
    ++ (if op = 0x302 then ((o.tau.map one).flatten).filter (fun q => js.contains q.1) else [])

/-- τ of reflector `k` as QAPPLY read it at issue (R257, R258). -/
def ArrOp.tauAt (o : ArrOp) (ty k : Nat) : Nat :=
  if ty = 8 then (o.va.getD k 0).toNat + 2 ^ 32 * (o.vb.getD k 0).toNat else (o.va.getD k 0).toNat

/-- One step of group 12 (R253 to R263). -/
def State.factStep (s : State) (core : Nat) (o : ArrOp) (op : Nat) (f : XFmt) : Step :=
  let c := s.core core
  let ty := f.ty.toNat
  let t := f.zd.toNat
  let ta := f.za.toNat
  let p := Shape.of o.sa
  let up := bitAt f.aux 1
  let unit := bitAt f.aux 2
  let trans := bitAt f.aux 3
  let n := if op = 0x303 ∨ op = 0x306 then p.nrow else if op = 0x304 then p.ninn else p.ncol
  let a := ({ z := c.z, fl := 0 } : Work).get ty t (p.row0 + o.step) (p.col0 + o.step)
  let npd := decide (op = 0x301) && (nanC ty a || decide (magC ty a = 0) || a.testBit (fpWidth ty - 1))
  let rd := rowsRead op unit trans (up == trans) (npd || decide (n ≤ o.step + 1)) npd p o.step
  let pair := fun (u : Nat) => if ty = 8 then [u, u + 1] else [u]
  let pois := match (pair t).findSome? (fun u => c.poisonedRow u rd.1) with
    | some v => some v
    | none => (pair ta).findSome? (fun u => c.poisonedRow u rd.2)
  let w0 : Work := { z := c.z, fl := 0 }
  let o := if o.step = 0 ∧ (op = 0x300 ∨ op = 0x301 ∨ op = 0x302) then
      { o with maxIn := maxMag ty ((growthElems op false p).map (fun q => w0.get ty t q.1 q.2)) } else o
  let fin := fun (o : ArrOp) (w : Work) => factTgts op f o (factStatus op ty t p o w)
  let stat := fun (o : ArrOp) (w : Work) => factStatus op ty t p o w
  match pois with
  | some v => .bad s o 0x23 v false (fin o w0)
  | none =>
    let r0 : FactOut := { w := w0, swaps := o.swaps, status := o.status, scol := o.scol, kset := [], tau := o.tau, stop := false }
    let keep := fun (r : FactOut) =>
      (s.updCore core (fun c => { c with z := r.w.z, k := r.kset.foldl (fun k e => k.put (64 * f.k.toNat + e.1) (BitVec.ofNat 8 e.2)) c.k }),
        { o with swaps := r.swaps, status := r.status, scol := r.scol, tau := r.tau, flags := o.flags ||| BitVec.ofNat 6 r.w.fl })
    if op = 0x305 then
      let order := if trans then (List.range p.nrow).reverse else List.range p.nrow
      match permRows c ty t f.k.toNat p order r0 with
      | (_, some v, _) => .bad s o 0x23 v false (fin o w0)
      | (r, none, some v) =>
        let k := keep r
        .bad k.1 k.2 0x28 v false (fin k.2 r.w)
      | (r, none, none) =>
        let k := keep r
        .finished k.1 k.2 (fin k.2 r.w)
    else
      let r :=
        if op = 0x300 then luStep ty t p o.step r0
        else if op = 0x301 then chStep ty t p o.step r0
        else if op = 0x302 then qrStep ty t p o.step r0
        else if op = 0x303 then trsmStep ty t ta up unit trans p o.step r0
        else if op = 0x304 then qapplyStep ty t ta trans (o.tauAt ty) p o.step r0
        else ztrStep ty t ta up p o.step r0
      let k := keep r
      if r.stop then
        if bitAt f.aux 0 then .bad k.1 k.2 0x26 (stat k.2 r.w) false (fin k.2 r.w) else .finished k.1 k.2 (fin k.2 r.w)
      else
        let o' := { k.2 with step := k.2.step + 1 }
        if o'.step < n then .more k.1 o'
        else if bitAt f.aux 0 && o'.status = 1 then .bad k.1 o' 0x25 (stat o' r.w) true (fin o' r.w)
        else if bitAt f.aux 0 && o'.status = 3 then .bad k.1 o' 0x27 (stat o' r.w) true (fin o' r.w)
        else .finished k.1 o' (fin o' r.w)

-- the issue of group 12

/-- The issue of an instruction of group 12 (R247, R248): NOARRAY, FARG, then the queue. -/
def Cx.factIssue (c : Cx) (i : Instr) (op : Nat) (f : XFmt) (va vb : List Word) (s : State) : Res :=
  let x := c.sl f.sa
  if !(s.holdsArray c.who) then .trap (c.fault 0x40 0 0) s
  else match shapeBad op f.ty.toNat (f.zd == f.za) x with
    | some n => .trap (c.fault 0x24 n x) s
    | none => c.enqueue i x 0 va vb s

def execFactLu (h : Hdr) (f : XFmt) (s : State) : Host.Outcome State Fault Refusal := issue (.factLu h f) h (fun c s => c.factIssue (.factLu h f) 0x300 f [] [] s) s
def execFactCh (h : Hdr) (f : XFmt) (s : State) : Host.Outcome State Fault Refusal := issue (.factCh h f) h (fun c s => c.factIssue (.factCh h f) 0x301 f [] [] s) s
def execFactQr (h : Hdr) (f : XFmt) (s : State) : Host.Outcome State Fault Refusal := issue (.factQr h f) h (fun c s => c.factIssue (.factQr h f) 0x302 f [] [] s) s
def execTrsm (h : Hdr) (f : XFmt) (s : State) : Host.Outcome State Fault Refusal := issue (.trsm h f) h (fun c s => c.factIssue (.trsm h f) 0x303 f [] [] s) s

/-- QAPPLY (R258): its τ operands are read at issue. -/
def execQapply (h : Hdr) (f : XFmt) (s : State) : Host.Outcome State Fault Refusal :=
  issue (.qapply h f) h (fun c s =>
    let va := c.lanes64 f.ax.toNat f.vx.toNat
    let vb := if c.who.isGang then va.drop 32 else c.areg (f.ax.toNat + 1)
    c.factIssue (.qapply h f) 0x304 f va vb s) s

def execPerm (h : Hdr) (f : XFmt) (s : State) : Host.Outcome State Fault Refusal := issue (.perm h f) h (fun c s => c.factIssue (.perm h f) 0x305 f [] [] s) s
def execZtr (h : Hdr) (f : XFmt) (s : State) : Host.Outcome State Fault Refusal := issue (.ztr h f) h (fun c s => c.factIssue (.ztr h f) 0x306 f [] [] s) s

-- the events of the array

/-- One boundary of an instruction. -/
def State.stepOp (s : State) (core : Nat) (o : ArrOp) : Step :=
  match o.ins.form with
  | some (op, _, .x f) =>
    let lvl := if o.who.isGang then 0 else 1
    let space := fun (c : BitVec 3) => (resolve lvl c.toNat).getD 1
    if op = 0x2C0 ∨ op = 0x2C1 ∨ op = 0x2C2 then s.mulStep core o op f
    else if op = 0x2C3 then s.hldStep core o f
    else if op = 0x2C4 then .finished (s.updCore core (fun c => (c.setTile f.zd.toNat (fun _ _ => 0)).cleanTile f.zd.toNat)) o []
    else if op = 0x2C5 then s.zldStep core o f (space f.lfrom)
    else if op = 0x2C6 then s.zstStep core o f (space f.lto)
    else if op = 0x2C7 then s.zepiStep core o f (space f.lto)
    else if op = 0x2C8 then .finished s o ((bitsSet o.sb.toNat 8).map (fun j => (j, Tgt.s j f.sa.toNat o.sa)))
    else s.factStep core o op f
  | _ => .finished s o []

/-- The flags of an instruction in the copies that R34 names. -/
def ArrOp.flagTgts (o : ArrOp) : List (Nat × Tgt) :=
  let js := if o.slices = 0 then [0] else slicesOf o.slices
  if o.flags = 0 then [] else js.map (fun j => (j, Tgt.fstat j o.flags))

/-- The asynchronous results of an array instruction return to its issuer (R223, R231). -/
def State.arrReturn (s : State) (o : ArrOp) (ts : List (Nat × Tgt)) : State :=
  s.updIssuer o.who (fun u => (if o.slices = 0 then [0] else slicesOf o.slices).foldl (fun u j =>
    u.complete o.tag j ((ts.filter (fun p => p.1 = j)).map (fun p => p.2)) true none) u)

/-- DONE counts one more (R240). -/
def State.arrCount (s : State) (w : Who) : State :=
  s.updIssuer w (fun u => { u with mwDone := satAt 16 (u.mwDone + 1) })

/-- An instruction leaves the queue. -/
def State.arrLeave (s : State) (core : Nat) (o : ArrOp) : State :=
  s.updCore core (fun c => { c with aq := c.aq.filter (fun p => !(p.who = o.who && p.tag = o.tag)) })

/-- Whether an instruction is one that DONE counts: MWAIT is not among those it waits for (R240). -/
def ArrOp.counts (o : ArrOp) : Bool :=
  match o.ins with
  | .mwait _ _ => false
  | _ => true

/-- An instruction leaves the queue complete (R225). -/
def State.arrComplete (s : State) (core : Nat) (o : ArrOp) (ts : List (Nat × Tgt)) : State :=
  let s := s.arrReturn o (ts ++ o.flagTgts)
  (if o.counts then s.arrCount o.who else s).arrLeave core o

/-- Whether a row, or a part of one, that an instruction has handed on has still to be performed (R225). -/
def State.rowsOf (s : State) (core : Nat) (o : ArrOp) : Bool :=
  (s.core core).rows.any (fun r => r.who = o.who && r.tag = o.tag)

/-- A deferred fault (R238, R239): the instruction stops, the later ones of its issuer go without effect, and the fault
waits for a marker with the flags of the completed steps. An instruction some of whose rows have still to be performed stays
outstanding until they are (R225). -/
def State.arrFault (s : State) (core : Nat) (o : ArrOp) (cause : Nat) (tval : Dword) (full : Bool) (ts : List (Nat × Tgt)) : State :=
  let op := match o.ins.form with
    | some (op, _, _) => op
    | none => 0
  let late := ((s.core core).aq.filter (fun p => p.who = o.who && !p.ended && p.tag ≠ o.tag))
  let stays := s.rowsOf core o
  let s := late.foldl (fun s p => s.arrReturn p []) (if stays then s else s.arrReturn o ts)
  let s := if full then s.arrCount o.who else s
  let s := s.updCore core (fun c => { c with aq := c.aq.filterMap (fun p =>
    if p.who = o.who && !p.ended then (if stays && decide (p.tag = o.tag) then some { o with ended := true } else none) else some p) })
  let a : ArrFault := { cause := cause, info := 256 * (o.step % 256) + op % 64, tval := tval, pc := o.pc, tag := o.tag, slices := o.slices,
                        flags := o.flagTgts.map (fun p => p.2) }
  s.updIssuer o.who (fun u =>
    { u with mdrop := BitVec.ofNat 16 (satAt 16 (u.mdrop.toNat + late.length)), arrFaults := u.arrFaults ++ [a] })

/-- Whether a pre-emption has stopped the array of a core (R242). -/
def Core.arrayStopped (c : Core) : Bool := c.blocks.any (fun p => p.2.array && (p.2.treat == Treat.save || p.2.treat == Treat.flush))

/-- ARRAY_STEP (R222, R230, R237, R241, R263): the array takes the oldest instruction of its queue that has not ended to its
next boundary. It starts one only after the cycle in which that was issued, when the order of that cycle's entries is settled. -/
def execArrayStep (core : Nat) (s : State) : Host.Outcome State Fault Refusal :=
  if (s.core core).arrayStopped then .next s
  else match (s.core core).aq.find? (fun o => !o.ended) with
  | none => .next s
  | some o =>
    if !o.started && decide (s.cycles ≤ o.cycle) then .next s
    else
    let put := fun (s : State) (o : ArrOp) => s.updCore core (fun c =>
      { c with aq := c.aq.map (fun p => if p.who = o.who && p.tag = o.tag then o else p) })
    match s.stepOp core { o with started := true } with
    | .hold => .next s
    | .more s o => .next (put s o)
    | .finished s o ts =>
      if s.rowsOf core o then .next (put s { o with ended := true })
      else .next (s.arrComplete core o ts)
    | .bad s o cause tval full ts => .next (s.arrFault core o cause tval full ts)

/-- A 16-byte piece of an accepted row is in memory (R237), no older one that it meets being still on its way. With the last piece of
the row its bytes are added to its barrier, and the last row of an instruction that has ended, or has stopped with a fault, completes
it (R225). The pieces clear no poison, though they cover a granule (notes/assumptions 154: DESIGN CHOICE). -/
def State.performRow (s : State) (core row : Nat) : State :=
  let older := (s.core core).rows.takeWhile (fun r => r.id ≠ row)
  match (s.core core).rows.find? (fun r => r.id = row) with
  | none => s
  | some r =>
    if older.any (fun q => q.loc.flat < r.loc.flat + r.bytes.length && r.loc.flat < q.loc.flat + q.bytes.length) then s
    else
      let s := (s.storeFlat r.loc.flat r.bytes).updCore core (fun c => { c with rows := c.rows.filter (fun q => q.id ≠ row) })
      let s := match r.bar with
        | none => s
        | some k => if (s.core core).rows.any (fun q => q.row = r.row) then s else s.addBytes k r.len
      match (s.core core).aq.find? (fun o => o.ended && o.who = r.who && o.tag = r.tag) with
      | none => s
      | some o =>
        if s.rowsOf core o then s
        else if ((s.issuer o.who).map (fun u => u.arrFaults.any (fun a => a.tag = o.tag))).getD false then
          (s.arrReturn o []).arrLeave core o
        else s.arrComplete core o []

end Sys2Proof.Machine
end

