-- ==== Sys2Proof/Machine/Debug.lean ====
section
/-! DEFINITION. Debugging and profiling (R264 to R285, R477): setting sieves, inspection and stepping of stopped gangs by
another gang or the host debug port, MARK and TRACE, samples, and what each core cycle does to ages and histograms. -/
namespace Sys2Proof.Machine

-- sieves and trace

/-- An instruction that only a debug-privileged gang has (R264): PRIV, or its body. -/
def Cx.priv (c : Cx) (s : State) (body : State → Res) : Res :=
  if s.debugOk c.u then body s else .trap (c.fault 7 0 0) s

/-- SVSET (R274): the sieve counts from zero, and is seen from the next cycle on. -/
def execSvset (h : Hdr) (f : DFmt) (s : State) : Host.Outcome State Fault Refusal :=
  issue (.svset h f) h (fun c s => c.priv s (fun s =>
    let r := fun (k : Nat) => c.sl (BitVec.ofNat 6 (f.sa.toNat + k))
    let d : BitVec 128 := r 1 ++ r 0
    let bad := sieveBad f.sv.toNat d
    if bad ≠ 0 then .trap (c.fault 0x31 bad 0) s
    else match c.who.core? with
      | none => .ok s
      | some n => .ok (s.updProbe n (fun p =>
        p.setSieves s.cycles (p.sieves.put f.sv.toNat { desc := d, opa := r 2, opb := r 3, cnt := 0 }))))) s

/-- SVCLR (R274): EN goes in each sieve of the mask. -/
def execSvclr (h : Hdr) (f : DFmt) (s : State) : Host.Outcome State Fault Refusal :=
  issue (.svclr h f) h (fun c s => c.priv s (fun s =>
    match c.who.core? with
    | none => .ok s
    | some n => .ok (s.updProbe n (fun p => p.setSieves s.cycles (p.sieves.map (fun v =>
        if bitAt f.imm v.1 then (v.1, { v.2 with desc := v.2.desc &&& ~~~(1#128 <<< 63) }) else v)))))) s

/-- A record of an instruction (R281, R282). -/
def Cx.record (c : Cx) (kind : Nat) (data : Dword) (s : State) : Res :=
  match c.who.core? with
  | none => .ok s
  | some n => .ok (s.traceRec n kind (whoByte c.u c.who) 0 0 (c.u.active c.fr) c.cur.at_ data)

/-- MARK (R282). -/
def execMark (h : Hdr) (f : DFmt) (s : State) : Host.Outcome State Fault Refusal := issue (.mark h f) h (fun c s => c.record 1 (f.imm.setWidth 64) s) s

/-- TRACE (R282). -/
def execTrace (h : Hdr) (f : DFmt) (s : State) : Host.Outcome State Fault Refusal :=
  issue (.trace h f) h (fun c s => c.record 2 (((c.sl f.sa).setWidth 48).setWidth 64 ||| fieldAt 48 (bitsAt f.imm 0 16)) s) s

-- pending results

/-- Whether a result lands in register `r` of class `k` (0 v, 1 s, 2 c, 3 m) in slice `j` (R275); flags for FSTAT are no
result of a register (notes/assumptions 167: DESIGN CHOICE). -/
def Tgt.hits (t : Tgt) (k r j : Nat) : Bool :=
  match t with
  | .v l q _ _ => k = 0 && q = r && l / 4 = j
  | .s i q _ => k = 1 && q = r && i = j
  | .c i q _ => k = 2 && q = r && i = j
  | .m i q _ _ => k = 3 && q = r && i = j
  | .a _ _ _ => false
  | .fstat _ _ => false
  | .bind _ _ _ _ _ _ => false

/-- The status results that issuer `w` awaits: slices and register (R64). -/
def State.statuses (s : State) (w : Who) : List (BitVec 8 × Nat) :=
  (s.inserts.map (fun p => match p.src with
    | .launch x m _ sd _ => if x = w then [(m, sd)] else []
    | .reduce x m _ sd => if x = w then [(m, sd), (m, sd + 1)] else []
    | .arm _ _ => []
    | .packet _ => []
    | .remote _ _ => [])).flatten
  ++ (s.pots.map (fun p => (p.2.recs.map (fun r => ((r.2.contribs.filter (fun k => k.who = w)).map
      (fun k => [(k.smask, k.sd), (k.smask, k.sd + 1)])).flatten)).flatten)).flatten
  ++ (s.pendArms.map (fun p => match p.who with
    | some (x, m, _) => if x = w then [(m, p.sd)] else []
    | none => [])).flatten
  ++ (s.copies.map (fun c => match c.ret with
    | some (m, _, sd) => if c.who = w then [(m, sd)] else []
    | none => [])).flatten
  ++ (s.cores.map (fun c => ((c.2.gangs.map (fun g => g.2.stepping) ++ c.2.blocks.map (fun b => b.2.stream.stepping)).map (fun l =>
      (l.filter (fun q => q.by_ = w && q.tag ≠ 0)).map (fun q => (q.smask, q.sd)))).flatten)).flatten

/-- Whether a result is pending for register `r` of class `k` in one of the slices `js` of gang `g` (R275). -/
def State.pending (s : State) (n g : Nat) (u : Issuer) (k r : Nat) (js : List Nat) : Bool :=
  let hit := fun (t : Tgt) => js.any (fun j => t.hits k r j)
  let fl := u.flights ++ (match u.saved with
    | none => []
    | some v => v.flights)
  fl.any (fun f => f.tgts.any hit)
    || u.log.any (fun e => e.2.accs.any (fun a => !a.st.isOver && (e.2.gives e.1 a 0 0).any (fun t => hit t.2)))
    || (s.core n).aq.any (fun o => o.who = .gang n g && (match o.ins.form with
      | some (op, _, .x f) =>
        (op = 0x2C8 && k = 1 && r ≠ 0 && f.sa.toNat = r && js.any (fun j => o.sb.getLsbD j))
          || op / 64 = 12 && (factTgts op f { o with tau := (List.range (Shape.of o.sa).ncol).map (fun i => (i, 0)) } 0).any (fun t => hit t.2)
      | _ => false))
    || (k = 1 && (s.statuses (.gang n g)).any (fun p => p.2 = r && r ≠ 0 && js.any (fun j => p.1.getLsbD j)))

-- inspection

/-- STATUS of R276. -/
def dsOk : Nat := 0
def dsBusy : Nat := 1
def dsNotStop : Nat := 2
def dsNoGang : Nat := 3
def dsBadReg : Nat := 4
def dsNoLane : Nat := 5
def dsNoDbg : Nat := 6
def dsBadOp : Nat := 7

/-- A debug operation as an instruction or the port's word names it (R277). -/
structure DbgOp where
  gid : Nat
  csr : Nat
  imm : BitVec 32
  deriving DecidableEq, Repr

def DbgOp.cls (d : DbgOp) : Nat := bitsAt d.imm 28 4
def DbgOp.num (d : DbgOp) : Nat := bitsAt d.imm 20 8
def DbgOp.slice (d : DbgOp) : Nat := bitsAt d.imm 16 3

/-- What an inspection answers: a status, a value, and for class 0 the lanes read. -/
structure DbgAns where
  st : Nat
  val : Dword
  lanes : List (Nat × Word)
  deriving DecidableEq, Repr

def DbgAns.of (st : Nat) : DbgAns := { st := st, val := 0, lanes := [] }

/-- The gang that an operation names (R276): NOGANG, or NOTSTOP where it is the issuing gang. -/
def State.dbgGang (s : State) (n : Nat) (me : Option Who) (gid : Nat) : Nat ⊕ Issuer :=
  match (s.core n).gangs.find gid with
  | none => .inl dsNoGang
  | some u => if me = some (.gang n gid) then .inl dsNotStop else .inr u

/-- Control registers held per slice (R33, R126, R182). -/
def perSlice (num : Nat) : Bool := num = 0x10 || num = 0x25 || num = 0x26 || (0x110 ≤ num && num ≤ 0x117)

/-- Control registers held per issuer (R96, R126, R131, R182, R218, R244); those of a block, a core or a context need nothing
stopped (R277). -/
def perIssuer (num : Nat) : Bool :=
  num = 0x11 || num = 0x12 || (0x20 ≤ num && num ≤ 0x24) || (0x100 ≤ num && num ≤ 0x103) || num = 0x203
    || (0x301 ≤ num && num ≤ 0x303)

/-- Why a class cannot be read or written (R276, R277): what is not stopped before what is no register. -/
def Issuer.dbgBlocked (u : Issuer) (d : DbgOp) (put : Bool) : Nat :=
  if d.cls = 0 then
    (if !((List.range 32).any (fun l => u.laneStopped l)) then dsNotStop else if 8 * u.alloc ≤ d.num then dsBadReg else dsOk)
  else if d.cls = 4 then
    (if perSlice d.csr then (if u.sliceStopped d.slice then dsOk else dsNotStop)
     else if !(perIssuer d.csr) || u.stopped then dsOk else dsNotStop)
  else if !(u.sliceStopped d.slice) then dsNotStop
  else if put && d.num = 0 && d.cls < 3 then dsBadReg
  else dsOk

/-- DGET (R277). A control register that CSRR would refuse is BADREG (notes/assumptions 173: DESIGN CHOICE). -/
def State.dget (s : State) (n : Nat) (me : Option Who) (d : DbgOp) : DbgAns :=
  match s.dbgGang n me d.gid with
  | .inl st => DbgAns.of st
  | .inr u =>
    let b := u.dbgBlocked d false
    if b ≠ dsOk then DbgAns.of b
    else if d.cls = 0 then
      { st := dsOk, val := 0, lanes := (List.range 32).map (fun l => (l, if u.laneStopped l then u.rdV d.num l else 0)) }
    else if d.cls = 1 then { st := dsOk, val := u.rdS d.num d.slice, lanes := [] }
    else if d.cls = 2 then { st := dsOk, val := fieldAt 0 (b2n (u.rdC d.num d.slice)), lanes := [] }
    else if d.cls = 3 then { st := dsOk, val := (u.rdM (List.range 8) none d.num).setWidth 64, lanes := [] }
    else match s.csrRead (.gang n d.gid) u d.csr d.slice with
      | .inl _ => DbgAns.of dsBadReg
      | .inr v => { st := dsOk, val := v, lanes := [] }

/-- DPUT (R276, R277) of a value, or of lanes for class 0. A control register that CSRW would refuse is BADREG (notes/assumptions
173: DESIGN CHOICE). -/
def State.dput (s : State) (n : Nat) (me : Option Who) (d : DbgOp) (v : Dword) (lanes : Nat → Word) : Nat × State :=
  match s.dbgGang n me d.gid with
  | .inl st => (st, s)
  | .inr u =>
    let w := Who.gang n d.gid
    let b := u.dbgBlocked d true
    let stopped := (List.range 32).filter (fun l => u.laneStopped l)
    if b ≠ dsOk then (b, s)
    else if d.cls = 0 then
      if s.pending n d.gid u 0 d.num ((stopped.map (fun l => l / 4)).eraseDups) then (dsBusy, s)
      else (dsOk, s.updIssuer w (fun u => u.landAll (stopped.map (fun l => Tgt.v l d.num 0xFFFFFFFF (lanes l)))))
    else if d.cls = 4 then
      match s.csrWrite w u d.csr [d.slice] (fun _ => v) v with
      | .inl _ => (dsBadReg, s)
      | .inr s => (dsOk, s)
    else if s.pending n d.gid u d.cls d.num (if d.cls = 3 then List.range 8 else [d.slice]) then (dsBusy, s)
    else
      let ts := if d.cls = 1 then [Tgt.s d.slice d.num v] else if d.cls = 2 then [Tgt.c d.slice d.num (bitAt v 0)]
        else (List.range 8).map (fun j => Tgt.m j d.num 0xF (v.extractLsb' (4 * j) 4))
      (dsOk, s.updIssuer w (fun u => u.landAll ts))

/-- An entry of the split table as DSTAT reads it (R88). -/
def Frag.item (f : Frag) : BitVec 128 :=
  let st := match f.st with
    | .free => 0
    | .eligible => 1
    | .parked => 2
    | .blocked => 3
    | .faultParked => 4
    | .halted => 5
  if f.st == FragSt.free then 0
  else (f.pc.setWidth 128 <<< 64) ||| (f.lmask.setWidth 128 <<< 32) ||| (f.smask.setWidth 128 <<< 24)
    ||| (BitVec.ofNat 128 st <<< 21) ||| (BitVec.ofNat 128 f.age <<< 10)

/-- GDBG (R280). -/
def Issuer.gdbg (u : Issuer) : Dword :=
  let d := u.dbgFrag
  fieldAt 32 (maskOf u.haltedLanes) ||| fieldAt 23 (b2n d.isSome) ||| fieldAt 18 ((d.map (fun f => laneOf f.2.lmask)).getD 0)
    ||| fieldAt 16 u.hscope ||| fieldAt 12 u.lastSv ||| fieldAt 8 (b2n u.byHost) ||| fieldAt 7 (b2n u.stopped)

/-- DSTAT (R277). -/
def State.dstat (s : State) (n : Nat) (me : Option Who) (d : DbgOp) : DbgAns :=
  match s.dbgGang n me d.gid with
  | .inl st => DbgAns.of st
  | .inr u =>
    let c := bitsAt d.imm 12 4
    let v : Dword :=
      if c = 0 then
        let x := (u.frag (bitsAt d.imm 0 4)).item
        if bitAt d.imm 4 then x.extractLsb' 64 64 else x.setWidth 64
      else if c = 1 then
        match u.haltPc.find (bitsAt d.imm 0 5) with
        | none => 0
        | some pc => fieldAt 63 1 ||| pc.setWidth 64
      else u.gdbg
    { st := dsOk, val := v, lanes := [] }

-- stepping

/-- The halted lanes that rejoin their fragments at a DRUN of the gang (R278). -/
def Issuer.rejoin (u : Issuer) : Issuer :=
  u.haltedLanes.foldl (fun u l =>
    match u.tables.find? (fun p => p.2.st != FragSt.free && !p.2.isDbg && p.2.smask.getLsbD (l / 4)) with
    | none => u
    | some p =>
      if u.haltPc.find l = some p.2.pc && !(u.dbgFrag.any (fun d => laneOf d.2.lmask = l)) then
        { u.updAt p.1 (fun f => { f with lmask := f.lmask ||| (1#32 <<< l) }) with haltPc := u.haltPc.drop l }
      else u) u

/-- The fragment in STATE 5 that `tables` names `e` becomes eligible, for `n` steps or without limit (R278). -/
def Issuer.release (u : Issuer) (e : Nat) (n : Option Nat) : Issuer :=
  u.updAt e (fun f => { f with st := .eligible, why := .none, stepsLeft := n })

/-- The target of a DSTEP or DRUN (R278): a refusal, or the issuer, the entries released and the issuer as it goes on. -/
def State.dbgTarget (s : State) (n : Nat) (me : Option Who) (d : DbgOp) (k : Option Nat) : Nat ⊕ (Who × Nat × Issuer) :=
  if bitAt d.imm 23 then
    match s.block n (d.gid % 4) with
    | none => .inl dsNoGang
    | some b =>
      if b.exited then .inl dsNoGang
      else if (b.stream.frag 0).st != FragSt.halted then .inl dsNotStop
      else .inr (.stream n (d.gid % 4), 0, b.stream.release 0 k)
  else match s.dbgGang n me d.gid with
  | .inl st => .inl st
  | .inr u =>
    let w := Who.gang n d.gid
    let t := bitsAt d.imm 16 5
    if bitAt d.imm 21 then
      match u.dbgFrag with
      | some (e, f) =>
        if laneOf f.lmask ≠ t then (if u.haltedLanes.contains t then .inl dsBusy else .inl dsNoLane)
        else if f.st != FragSt.halted then .inl dsNoLane
        else .inr (w, e, u.release e k)
      | none =>
        if !(u.haltedLanes.contains t) then .inl dsNoLane
        else
          let f := { Frag.fresh ((u.haltPc.find t).getD 0) (1#32 <<< t) 0 with entryCheck := false, stepsLeft := k }
          (match u.saved with
            | none => .inr (w, 8, { u with frags := u.frags.put 8 f })
            | some v => .inr (w, 24, { u with saved := some { v with frags := v.frags.put 8 f } }))
    else if bitAt d.imm 22 then
      let es := (u.tables.filter (fun p => p.2.st == FragSt.halted)).map (fun p => p.1)
      if es.isEmpty && u.haltedLanes.isEmpty then .inl dsNotStop
      else .inr (w, 0, (es.foldl (fun u e => u.release e k) u).rejoin)
    else if t < 8 ∧ (u.frag t).st == FragSt.halted then .inr (w, t, u.release t k)
    else .inl dsNotStop

/-- The stream of a block goes on alone (R278). -/
def State.streamGoes (s : State) (w : Who) : State :=
  match w with
  | .stream n b => s.updBlock n b (fun k => { k with halted := false })
  | .gang _ _ => s
  | .clusterSeq _ => s
  | .dieSeq _ => s
  | .packageSeq => s

/-- DRUN (R278): a status and the state. -/
def State.drun (s : State) (n : Nat) (me : Option Who) (d : DbgOp) : Nat × State :=
  match s.dbgTarget n me d none with
  | .inl st => (st, s)
  | .inr (w, _, u) => (dsOk, ((s.updIssuer w (fun _ => u)).regang w).streamGoes w)

/-- DSTEP (R278): a refusal, or the state with the stepping under way. -/
def State.dstep (s : State) (n : Nat) (me : Option Who) (d : DbgOp) (by_ : Who) (tag sd : Nat) (sm : BitVec 8) : Nat ⊕ State :=
  match s.dbgTarget n me d (some (bitsAt d.imm 0 16)) with
  | .inl st => .inl st
  | .inr (w, e, u) =>
    let q : Stepping := { by_ := by_, tag := tag, sd := sd, smask := sm, entry := e, ran := 0 }
    .inr ((s.updIssuer w (fun _ => { u with stepping := u.stepping ++ [q] })).streamGoes w)

-- the instructions

/-- See `DbgOp`. -/
def dbgOf (f : DFmt) : DbgOp := { gid := f.gid.toNat, csr := f.csr.toNat, imm := f.imm }

/-- A status word (R276). -/
def dbgWord (st : Nat) : Dword := fieldAt 56 st

/-- The status, and value, of an inspection as asynchronous results (R276, R277). -/
def Cx.answer (c : Cx) (f : DFmt) (a : DbgAns) (value : Bool) (s : State) : Res :=
  .ok (c.asyncNow (fun j =>
    [Tgt.s j f.sd.toNat (dbgWord a.st)]
      ++ (if value && a.lanes.isEmpty && a.st = dsOk then [Tgt.s j (f.sd.toNat + 1) a.val] else [])
      ++ ((a.lanes.filter (fun l => l.1 / 4 = j && c.act.contains l.1)).map (fun l => Tgt.v l.1 f.vt.toNat 0xFFFFFFFF l.2))) s)

/-- DGET (R276, R277). -/
def execDget (h : Hdr) (f : DFmt) (s : State) : Host.Outcome State Fault Refusal :=
  issue (.dget h f) h (fun c s => c.priv s (fun s =>
    c.answer f (s.dget (c.who.core?.getD 0) (some c.who) (dbgOf f)) (bitsAt f.imm 28 4 ≠ 0) s)) s

/-- DPUT (R276, R277). -/
def execDput (h : Hdr) (f : DFmt) (s : State) : Host.Outcome State Fault Refusal :=
  issue (.dput h f) h (fun c s => c.priv s (fun s =>
    let r := s.dput (c.who.core?.getD 0) (some c.who) (dbgOf f) (c.sl f.sa) (fun l => if c.inside l then c.v1 f.vt.toNat l else 0)
    c.answer f (DbgAns.of r.1) false r.2)) s

/-- DSTEP (R276, R278): its status comes when stepping ends. -/
def execDstep (h : Hdr) (f : DFmt) (s : State) : Host.Outcome State Fault Refusal :=
  issue (.dstep h f) h (fun c s => c.priv s (fun s =>
    let r := c.async .status s
    match r.1.dstep (c.who.core?.getD 0) (some c.who) (dbgOf f) c.who r.2 f.sd.toNat c.passMask with
    | .inl st => c.answer f (DbgAns.of st) false s
    | .inr s => .ok s)) s

/-- DRUN (R276, R278). -/
def execDrun (h : Hdr) (f : DFmt) (s : State) : Host.Outcome State Fault Refusal :=
  issue (.drun h f) h (fun c s => c.priv s (fun s =>
    let r := s.drun (c.who.core?.getD 0) (some c.who) (dbgOf f)
    c.answer f (DbgAns.of r.1) false r.2)) s

/-- DSTAT (R276, R277, R280). -/
def execDstat (h : Hdr) (f : DFmt) (s : State) : Host.Outcome State Fault Refusal :=
  issue (.dstat h f) h (fun c s => c.priv s (fun s =>
    c.answer f (s.dstat (c.who.core?.getD 0) (some c.who) (dbgOf f)) true s)) s

-- the host debug port

/-- The word in DOPLO and DOPHI (R477). -/
def DebugPort.word (p : DebugPort) : IWord := (p.dophi.setWidth 32 ++ p.doplo : BitVec 96)

/-- Opcode of the port's word, and whether its guard and Y are zero. -/
def DebugPort.op (p : DebugPort) : Nat := bitsAt p.word 86 10
def DebugPort.plain (p : DebugPort) : Bool := bitsAt p.word 80 6 = 0

/-- The operation of the port's word: its fields gid, csr and imm32 (R54, R477). -/
def DebugPort.dbg (p : DebugPort) : DbgOp :=
  match decodeRaw p.word 0 with
  | .dget _ f => (dbgOf f)
  | .dput _ f => (dbgOf f)
  | .dstep _ f => (dbgOf f)
  | .drun _ f => (dbgOf f)
  | .dstat _ f => (dbgOf f)
  | _ => { gid := 0, csr := 0, imm := 0 }

/-- Whether the fields of a debug word are legal ones (R277), the register fields being ignored (R477). -/
def DebugPort.legal (p : DebugPort) : Bool :=
  let clear := fun (f : DFmt) => { f with sd := 0, sa := 0, vt := 0 }
  (match decodeRaw p.word 0 with
    | .dget h f => (Instr.dget h (clear f)).legal none none
    | .dput h f => (Instr.dput h (clear f)).legal none none
    | .dstep h f => (Instr.dstep h (clear f)).legal none none
    | .drun h f => (Instr.drun h (clear f)).legal none none
    | .dstat h f => (Instr.dstat h (clear f)).legal none none
    | _ => some .badField).isNone

/-- The debug port of core `n` changed by `f`. -/
def State.updPort (s : State) (n : Nat) (f : DebugPort → DebugPort) : State := s.updCore n (fun c => { c with port := f c.port })

/-- The port's operation is over (R477); `v` is the value of an inspection that has one and has succeeded, for DRES1. -/
def State.portDone (s : State) (n st : Nat) (v : Option Dword) (lanes : List (Nat × Word)) : State :=
  s.updPort n (fun p => { p with busy := false
                                 dres := (match v with
                                   | none => p.dres.put 0 (dbgWord st)
                                   | some v => (p.dres.put 0 (dbgWord st)).put 1 v)
                                 dvec := lanes.foldl (fun t l => t.put l.1 l.2) p.dvec })

/-- Whether a DSTEP of the port of core `n` is under way, on whatever core its gang now stands, or saved (R319). -/
def State.portSteps (s : State) (n : Nat) : Bool :=
  let mine := fun (u : Issuer) => u.stepping.any (fun q => q.tag = 0 && q.by_ = .stream n 0)
  s.cores.any (fun c => c.2.gangs.any (fun g => mine g.2) || c.2.blocks.any (fun b => mine b.2.stream))

/-- The port of core `n` performs operation `op` (R264, R477): NODBG where the core has no context or one without DEBUG; with
fields that no instruction may have it writes nothing and answers a free value. -/
def State.portOp (s : State) (n op : Nat) (body : State → State) : State :=
  let p := (s.core n).port
  if !p.busy || s.portSteps n || p.op ≠ op || !p.plain then s
  else match (s.core n).ctx with
  | none => s.portDone n dsNoDbg none []
  | some x =>
    if !(s.ctxOf x).debug then s.portDone n dsNoDbg none []
    else if !p.legal then
      { s.updPort n (fun p => { p with busy := false, dres := p.dres.put 0 (Config.freeDword s.draws) }) with draws := s.draws + 1 }
    else body s

/-- PORT_DGET (R477). -/
def execPortDget (core : Nat) (s : State) : Host.Outcome State Fault Refusal :=
  .next (s.portOp core 0x342 (fun s =>
    let a := s.dget core none (s.core core).port.dbg
    s.portDone core a.st (if a.st = dsOk ∧ a.lanes.isEmpty then some a.val else none) a.lanes))

/-- PORT_DPUT (R477). -/
def execPortDput (core : Nat) (s : State) : Host.Outcome State Fault Refusal :=
  .next (s.portOp core 0x343 (fun s =>
    let p := (s.core core).port
    let r := s.dput core none p.dbg (p.darg.get 0 0) (fun l => p.dvec.get l 0)
    r.2.portDone core r.1 none []))

/-- PORT_DSTEP (R477): BUSY until stepping ends. -/
def execPortDstep (core : Nat) (s : State) : Host.Outcome State Fault Refusal :=
  .next (s.portOp core 0x344 (fun s =>
    match s.dstep core none (s.core core).port.dbg (.stream core 0) 0 0 0 with
    | .inl st => s.portDone core st none []
    | .inr s => s))

/-- PORT_DRUN (R477). -/
def execPortDrun (core : Nat) (s : State) : Host.Outcome State Fault Refusal :=
  .next (s.portOp core 0x345 (fun s =>
    let r := s.drun core none (s.core core).port.dbg
    r.2.portDone core r.1 none []))

/-- PORT_DSTAT (R477). -/
def execPortDstat (core : Nat) (s : State) : Host.Outcome State Fault Refusal :=
  .next (s.portOp core 0x346 (fun s =>
    let a := s.dstat core none (s.core core).port.dbg
    s.portDone core a.st (if a.st = dsOk then some a.val else none) []))

/-- PORT_BADOP (R276, R477): STATUS 7. -/
def execPortBadop (core : Nat) (s : State) : Host.Outcome State Fault Refusal :=
  let p := (s.core core).port
  if p.busy && !(s.portSteps core) && (p.op < 0x342 || 0x346 < p.op || !p.plain) then .next (s.portDone core dsBadOp none [])
  else .next s

-- samples and cycles

/-- The stall reason of a fragment (R284), 0 where it is eligible; that of a gang without an entry in use, which halted lanes keep
resident (R99), is theirs. -/
def Frag.reason (f : Frag) : Nat :=
  match f.st with
  | .free => 8
  | .eligible => if f.lmask = 0 then 8 else 0
  | .parked => 3
  | .faultParked => 7
  | .halted => 8
  | .blocked =>
    match f.why with
    | .none => 0
    | .memory => 1
    | .matrix => 2
    | .barrier => 3
    | .grow => 4
    | .queueFull => 5
    | .fetch => 6
    | .faultParked => 7
    | .halted => 8
    | .stockpot => 9

/-- The lowest entry in use (R283, R284). -/
def Issuer.lowFrag (u : Issuer) : Frag :=
  match (List.range 9).find? (fun e => (u.frag e).st != FragSt.free) with
  | none => Frag.none
  | some e => u.frag e

/-- SAMPLE (R283): the next gang above that of the sample before. -/
def execSample (core : Nat) (s : State) : Host.Outcome State Fault Refusal :=
  let c := s.core core
  let gs := (List.range 32).filter (fun g => (c.gangs.find g).isSome)
  if 256 ≤ core || bitsAt c.probe.trctl 3 5 = 0 then .next s
  else
    let from_ := match c.probe.lastSample with
      | none => 0
      | some g => g + 1
    match (match gs.find? (fun g => from_ ≤ g) with
      | some g => some g
      | none => gs.head?) with
    | none => .next s
    | some g =>
      match c.gangs.find g with
      | none => .next s
      | some u =>
        let f := u.lowFrag
        .next ((s.updProbe core (fun p => { p with lastSample := some g })).traceRec core 4 (whoByte u (.gang core g)) 0 0
          (u.active f) f.pc (BitVec.ofNat 64 f.reason))

/-- The gangs of a core: resident ones only. -/
def Core.resident (c : Core) : List (Nat × Issuer) := c.gangs.filter (fun p => p.1 < 32)

/-- One more in an entry of a histogram. -/
def bump (t : Tab Nat Dword) (n : Nat) : Tab Nat Dword := t.put n (t.get n 0 + 1)

/-- One core cycle in the histograms (R284). -/
def Core.charge (c : Core) : Core :=
  if !c.probe.hctl then c
  else
    let gs := c.resident
    let n := (gs.filter (fun p => p.2.frags.any (fun f => f.2.st == FragSt.eligible && f.2.lmask ≠ 0))).length
    let oldest := gs.foldl (fun (m : Option Issuer) p => match m with
      | none => some p.2
      | some u => if p.2.born < u.born then some p.2 else some u) none
    let r := match oldest with
      | none => 10
      | some u => u.lowFrag.reason
    { c with probe := { c.probe with histe := bump c.probe.histe n, histr := if n = 0 then bump c.probe.histr r else c.probe.histr } }

/-- A core cycle for one fragment (R105, R121). -/
def Frag.cycle (f : Frag) (issued : Bool) : Frag :=
  { f with age := if f.st == FragSt.eligible && !issued then Nat.min 2047 (f.age + 1) else f.age, yieldLeft := f.yieldLeft - 1 }

/-- A cycle of a core: ages, YIELD windows and histograms; `issued` are the fragments that issued in it. -/
def State.coreCycle (s : State) (core : Nat) (issued : List (Who × Nat)) : State :=
  let tab := fun (w : Who) (u : Issuer) =>
    { u with frags := u.frags.map (fun p => (p.1, p.2.cycle (issued.contains (w, p.1)))) }
  s.updCore core (fun c =>
    ({ c with
        gangs := c.gangs.map (fun p => (p.1, if p.1 < 32 then tab (.gang core p.1) p.2 else p.2))
        blocks := c.blocks.map (fun p => (p.1, { p.2 with stream := tab (.stream core p.1) p.2.stream })) } : Core).charge)

/-- CORE_CYCLE (R105, R121, R284). -/
def execCoreCycle (core : Nat) (issued : List (Who × Nat)) (s : State) : Host.Outcome State Fault Refusal :=
  if 256 ≤ core then .next s else .next (s.coreCycle core issued)

end Sys2Proof.Machine
end

