-- ==== Sys2Proof/Machine/Keccak.lean ====
section
/-! DEFINITION. Keccak-f[1600], SHA3-512 (FIPS 202) for the digests of links (R432), and KMAC256 (NIST SP 800-185) for the tags of saved
images (R324). -/
namespace Sys2Proof

/-- Lane `x + 5·y` of the state. -/
def keccakLane (a : List (BitVec 64)) (x y : Nat) : BitVec 64 := a.getD (x % 5 + 5 * (y % 5)) 0

/-- Step t of FIPS 202 algorithm 2 for t from 24 on down to 0 left: at lane (x, y) the rotation is the triangular number
(t+1)(t+2)/2, and the walk goes on at (y, 2x + 3y). -/
def rhoWalk : Nat → Nat → Nat → Nat → List (Nat × Nat)
  | 0, _, _, _ => []
  | n + 1, t, x, y => (x + 5 * y, (t + 1) * (t + 2) / 2 % 64) :: rhoWalk n (t + 1) y ((2 * x + 3 * y) % 5)

/-- The rotation of the lane numbered `i`; lane (0, 0) is not on the walk and does not turn. -/
def rhoOffset (i : Nat) : Nat := (((rhoWalk 24 0 1 0).find? (fun p => p.1 = i)).map (fun p => p.2)).getD 0

/-- The register of FIPS 202 algorithm 5, shifted `t` times from 1: feedback by x^8 + x^6 + x^5 + x^4 + 1. -/
def lfsr : Nat → Nat
  | 0 => 1
  | t + 1 =>
    let r := 2 * lfsr t
    if 256 ≤ r then r ^^^ 0x171 else r

/-- The constant of round `ir`: bit 2^j - 1 is the low bit of the register after j + 7·ir shifts. -/
def iotaConst (ir : Nat) : BitVec 64 :=
  (List.range 7).foldl (fun a j => if (lfsr (j + 7 * ir)).testBit 0 then a ||| (1#64 <<< (2 ^ j - 1)) else a) 0

/-- Both, for every lane and every round. -/
def rhoOffsets : List Nat := (List.range 25).map rhoOffset
def iotaConsts : List (BitVec 64) := (List.range 24).map iotaConst

/-- One round: θ, ρ and π, χ, ι. -/
def keccakRound (a : List (BitVec 64)) (rc : BitVec 64) : List (BitVec 64) :=
  let c := (List.range 5).map (fun x =>
    keccakLane a x 0 ^^^ keccakLane a x 1 ^^^ keccakLane a x 2 ^^^ keccakLane a x 3 ^^^ keccakLane a x 4)
  let d := (List.range 5).map (fun x => c.getD ((x + 4) % 5) 0 ^^^ (c.getD ((x + 1) % 5) 0).rotateLeft 1)
  let t := (List.range 25).map (fun i => a.getD i 0 ^^^ d.getD (i % 5) 0)
  let b := (List.range 25).map (fun i =>
    -- the lane that π brings to (x, y) comes from (x + 3·y, x)
    let x := i % 5
    let j := (x + 3 * (i / 5)) % 5 + 5 * x
    (t.getD j 0).rotateLeft (rhoOffsets.getD j 0))
  let e := (List.range 25).map (fun i =>
    let x := i % 5
    let y := i / 5
    keccakLane b x y ^^^ (~~~(keccakLane b (x + 1) y) &&& keccakLane b (x + 2) y))
  match e with
  | [] => []
  | l :: r => (l ^^^ rc) :: r

def keccakF (a : List (BitVec 64)) : List (BitVec 64) := iotaConsts.foldl keccakRound a

/-- A block of a message, exclusive-ored into the state. -/
def keccakAbsorb (a : List (BitVec 64)) (block : List Byte) : List (BitVec 64) :=
  keccakF ((List.range 25).map (fun i => a.getD i 0 ^^^ BitVec.ofNat 64 (ofBytes ((block.drop (8 * i)).take 8))))

/-- The padding of a message of `n` bytes to whole blocks of `rate` bytes, with its domain bits. -/
def keccakPad (rate dom n : Nat) : List Byte :=
  let k := rate - n % rate
  (List.range k).map (fun i =>
    BitVec.ofNat 8 ((if i = 0 then dom else 0) + (if i + 1 = k then 0x80 else 0)))

/-- The whole message is absorbed, `fuel` blocks of it. -/
def keccakBlocks (rate : Nat) : Nat → List (BitVec 64) → List Byte → List (BitVec 64)
  | 0, a, _ => a
  | f + 1, a, m => keccakBlocks rate f (keccakAbsorb a (m.take rate)) (m.drop rate)

/-- The first `out` bytes, of at most one block, that the sponge gives for a message. -/
def keccakSponge (rate dom : Nat) (m : List Byte) (out : Nat) : List Byte :=
  let p := m ++ keccakPad rate dom m.length
  let a := keccakBlocks rate (p.length / rate) (List.replicate 25 0) p
  ((a.map (fun l => bytesOf l.toNat 8)).flatten).take out

/-- SHA3-512. -/
def sha3x512 (m : List Byte) : List Byte := keccakSponge 72 0x06 m 64

/-- Bytes that hold a number. -/
def byteCount (x : Nat) : Nat → Nat
  | 0 => 1
  | f + 1 => if x < 256 then 1 else 1 + byteCount (x / 256) f

/-- left_encode, right_encode, encode_string and bytepad of SP 800-185. -/
def leftEncode (x : Nat) : List Byte := BitVec.ofNat 8 (byteCount x 8) :: (bytesOf x (byteCount x 8)).reverse
def rightEncode (x : Nat) : List Byte := (bytesOf x (byteCount x 8)).reverse ++ [BitVec.ofNat 8 (byteCount x 8)]
def encodeString (s : List Byte) : List Byte := leftEncode (8 * s.length) ++ s
def bytePad (x : List Byte) (w : Nat) : List Byte :=
  let y := leftEncode w ++ x
  y ++ List.replicate ((w - y.length % w) % w) 0

/-- KMAC256 with an output of `out` bytes. -/
def kmac256 (key data : List Byte) (out : Nat) (custom : List Byte) : List Byte :=
  let name : List Byte := [0x4B, 0x4D, 0x41, 0x43]
  keccakSponge 136 0x04
    (bytePad (encodeString name ++ encodeString custom) 136 ++ bytePad (encodeString key) 136 ++ data ++ rightEncode (8 * out)) out

end Sys2Proof
end

