-- ==== Sys2Proof/Machine/Records.lean ====
section
/-! DEFINITION. The life of a record (R341): where it may be placed (R191, R330, R355, R374), dispatch (R342 to R347), descent
and transfer (R348), its start on its runner (R192, R343) and its retirement (R202, R349). -/
namespace Sys2Proof.Machine

/-- The first member of a list with the least value of a measure. -/
def leastBy {α : Type} (f : α → Nat) : List α → Option α
  | [] => none
  | a :: r =>
    match leastBy f r with
    | none => some a
    | some b => if f b < f a then some b else some a

-- who may use an instance

/-- Whether a saved image of a context for an instance has still to be restored (R357). -/
def State.savedFor (s : State) (ctx : Nat) (p : Saved → Bool) : Bool := s.images.any (fun i => i.ctx = ctx && p i.what)

/-- Whether a context may use a cluster (R355, R357): it owns it, or nobody does and no image of its own waits for it. -/
def State.mayCluster (s : State) (ctx c : Nat) : Bool :=
  match s.clusterOwner c with
  | some o => o = ctx
  | none => !(s.savedFor ctx (fun w => match w with
    | .cluster n _ => n = c
    | _ => false))

/-- Whether a record may be dispatched once it can be placed (R344, R370). -/
def State.eligibleRec (s : State) (r : Rec) : Bool :=
  r.st == RecSt.waiting && !r.gateErr && !r.isRed && s.gatesOpen r && (s.ctxOf r.ctx).st == CtxSt.live

/-- Whether a context waits for the whole of a die (R357, R375): a record of TLEVEL 3, or a saved image of the die. -/
def State.wantsDie (s : State) (ctx d : Nat) : Bool :=
  (s.pot 36).recs.any (fun r => r.2.ctx = ctx && s.eligibleRec r.2 && r.2.img.tlevel = 3)
    || s.savedFor ctx (fun w => match w with
      | .die n _ => n = d
      | _ => false)

/-- Whether a context may use a die for a record of TLEVEL 3 (R374, R357), in its turn (R375). -/
def State.mayDie (s : State) (ctx d : Nat) : Bool :=
  match (s.die d).owner with
  | some o => o = ctx
  | none => !(s.savedFor ctx (fun w => match w with
      | .die n _ => n = d
      | _ => false))
    && (match (s.die d).forCtx with
      | none => true
      | some x => x = ctx || !(s.wantsDie x d))

/-- A context takes a cluster or a die that nobody owns: its barriers are at their reset values (R355, R359, R374, R379). -/
def State.takeCluster (s : State) (ctx c : Nat) : State :=
  match s.clusterOwner c with
  | some _ => s
  | none => { s with clusters := s.clusters.put c ⟨some ctx⟩, bars := s.bars.filter (fun p => match p.1 with
      | .cluster n _ => n != c
      | _ => true) }
def State.takeDie (s : State) (ctx d : Nat) : State := s.claimDie d ctx

-- placement (R330)

/-- Cores of a cluster, of a die; blocks resident on some cores. -/
def coresOf (c : Nat) : List Nat := (List.range 8).map (fun k => 8 * c + k)
def State.blocksOn (s : State) (cs : List Nat) : Nat := (cs.map (fun n => (s.core n).blocks.length)).sum

/-- The address of the kernel header that an image names (R331). -/
def State.headerAddr (s : State) (ctx : Nat) (i : Image) : Dword :=
  BitVec.ofNat 64 ((s.ctxOf ctx).codebase + 32 * i.entry)

/-- Whether the header of a block record sets ARRAY, as its dispatcher reads it (R191, R193). -/
def State.wantsArray (s : State) (ctx : Nat) (i : Image) : Bool :=
  let a := s.headerAddr ctx i
  match s.pageWalk ctx a.toNat with
  | .none _ _ _ => false
  | .page t => match Header.ofBytes (s.pkgRead (s.keyOf ctx) (t.pa + (a.toNat - t.va)) 32) [1, 6] with
    | none => false
    | some h => h.array

/-- Whether a context has a block record waiting in a stockpot. -/
def State.hasWaiting (s : State) (ctx p : Nat) : Bool :=
  (s.pot p).recs.any (fun r =>
    r.2.ctx = ctx && r.2.st == RecSt.waiting && !r.2.gateErr && !r.2.isRed && r.2.img.tlevel = 1 && s.gatesOpen r.2)

/-- A record that a context has waiting for the cores of a die: a block record in a stockpot through which it reaches them, or
a saved image (R311, R357). -/
def State.waitsFor (s : State) (ctx d : Nat) : Bool :=
  ((List.range 8).map (fun k => 8 * d + k)).any (s.hasWaiting ctx) || s.hasWaiting ctx (32 + d) || s.hasWaiting ctx 36
    || s.savedFor ctx (fun w => match w with
      | .core n _ => n / 64 = d
      | .cluster n _ => n / 8 = d
      | .die n _ => n = d)

/-- Whether what a context has waiting may come to core `n`: a block record, or also a saved image (R311, R325, R357). -/
def State.comes (s : State) (ctx n : Nat) : Bool :=
  s.hasWaiting ctx (n / 8) || s.hasWaiting ctx (32 + n / 64) || s.hasWaiting ctx 36

/-- Whether what a context has waiting, a saved image among it, could begin on core `n` or on an owner of it (R311, R325). -/
def State.brings (s : State) (ctx n : Nat) : Bool :=
  s.comes ctx n || s.savedFor ctx (fun w => match w with
      | .core m _ => m / 8 = n / 8
      | .cluster m _ => m = n / 8
      | .die m _ => m = n / 64)

/-- The cores of a die, and whether a core is free (R310). -/
def dieCores (d : Nat) : List Nat := (List.range 64).map (fun k => 64 * d + k)
def State.coreFree (s : State) (n : Nat) : Bool := (s.core n).blocks.isEmpty && (s.core n).preempt.isNone

/-- Whether a context has a record of TLEVEL 2 waiting at a die all of whose clusters are others', or one of TLEVEL 3 that no die takes
where the die is another's (R355, R374, R377): only the pre-emption of the owner's cores frees a place for it (R310, R311;
notes/assumptions 129). -/
def State.needsCluster (s : State) (ctx d : Nat) : Bool :=
  (s.pot (32 + d)).recs.any (fun r => r.2.ctx = ctx && s.eligibleRec r.2 && r.2.img.tlevel = 2)
    && (List.range 8).all (fun k => (s.clusterOwner (8 * d + k)).any (fun o => o != ctx))
def State.needsDie (s : State) (ctx d : Nat) : Bool :=
  (s.pot 36).recs.any (fun r => r.2.ctx = ctx && s.eligibleRec r.2 && r.2.img.tlevel = 3)
    && (s.die d).owner.any (fun o => o != ctx)
    && !((List.range 4).any (fun e => s.mayDie ctx e && (s.seqs.find (.dieSeq e)).isNone))

/-- Whether what a context needs is freed by the pre-emption of core `n`: for a die, of its owner's cores, or of any where none is free. -/
def State.needs (s : State) (ctx n : Nat) : Bool :=
  s.needsCluster ctx (n / 64) || (s.needsDie ctx (n / 64)
    && ((s.core n).ctx = (s.die (n / 64)).owner || !((dieCores (n / 64)).any s.coreFree)))

/-- Whether what a context has waiting for the die of core `n` is served by that core (R311). -/
def State.reaches (s : State) (ctx n : Nat) : Bool := s.brings ctx n || s.needs ctx n

/-- Whether a core freed for a context stays free for it (R311): what has it waiting can come about, since no sequencer of another context
that holds the cluster, or the die, still runs a record whose blocks want the core (R355, R375). -/
def State.keeps (s : State) (ctx n : Nat) : Bool :=
  let runs := fun (w : Who) => (s.seqs.find w).any (fun q => q.iss.ctx != ctx)
  let d := n / 64
  ((s.brings ctx n || s.needsCluster ctx d) && !(runs (.clusterSeq (n / 8))))
    || (s.needsDie ctx d && !(runs (.dieSeq d) || (List.range 8).any (fun k => runs (.clusterSeq (8 * d + k)))))

/-- Whether a core is reserved for a collective of another context (R417). -/
def State.reserved (s : State) (ctx n : Nat) : Bool :=
  s.packets.any (fun p => p.ctx ≠ ctx && p.status.isNone && p.part.contains n)

/-- Whether a core accepts a block (R191, R314): a free slot, no other context, the array free if it is wanted. -/
def State.coreTakes (s : State) (ctx n : Nat) (array : Bool) : Bool :=
  let c := s.core n
  c.blocks.length < Config.blockSlots && (c.blocks.isEmpty || c.ctx = some ctx) && c.preempt.isNone
    && !(array && c.blocks.any (fun b => b.2.array)) && !(s.reserved ctx n)

/-- What could begin on core `n` now (R311, R357): the contexts of the records that its cluster's stockpot could dispatch and of the
core images that could be restored, each with whether a record lies in the urgent band (R346). -/
def State.rivals (s : State) (n : Nat) : List (Nat × Bool) :=
  ((s.pot (n / 8)).recs.filter (fun r => s.eligibleRec r.2 && r.2.img.tlevel = 1 && s.mayCluster r.2.ctx (n / 8)
      && !(s.reserved r.2.ctx n) && (r.2.partition.isEmpty || r.2.partition.contains n))).map (fun r =>
      (r.2.ctx, decide (120 ≤ r.2.img.prio)))
    ++ (s.images.filter (fun i => match i.what with
      | .core m _ => !i.suspended && m / 8 = n / 8 && s.mayCluster i.ctx (n / 8) && !(s.savedFor i.ctx (fun w => match w with
          | .die d _ => d = n / 64
          | _ => false))
      | .cluster _ _ => false
      | .die _ _ => false)).map (fun i => (i.ctx, false))

/-- Whether a free core serves a context now (R311): the one it has been freed for, or else the next after the one last served, urgent
work before all. -/
def State.serves (s : State) (ctx n : Nat) (urgent : Bool) : Bool :=
  let last := (s.die (n / 64)).lastServed
  let far := fun (x : Nat) => (x + 2047 - last) % 2048
  if !(s.core n).blocks.isEmpty || urgent then true
  else
    let rs := s.rivals n
    let kept := match (s.core n).forCtx with
      | none => none
      | some x => if s.keeps x n then some x else none
    !(rs.any (fun x => x.2 && x.1 != ctx)) && (match kept with
      | some x => x = ctx
      | none => rs.all (fun x => far ctx ≤ far x.1))

/-- Where a dispatched record goes. -/
inductive Target where
  | block (core slot : Nat)
  | seq (w : Who)
  | pot (p : Nat)
  deriving DecidableEq, Repr

/-- The least-used stockpot among some, if the record can enter it (R330, R348). -/
def State.descent (s : State) (r : Rec) (ps : List Nat) : Option Target :=
  match leastBy (fun p => (s.pot p).recs.length) ps with
  | none => none
  | some p =>
    let fits := (s.freeSlot p).isSome || (r.sealed != some .flush && (s.pot p).recs.any (fun q =>
      q.2.same r.ctx r.img && q.2.sealed.isNone && (q.2.img.limit = 0 || q.2.count + r.count ≤ q.2.img.limit)))
    if fits then some (.pot p) else none

/-- Where a record of a stockpot can be placed now (R191, R330, R377). -/
def State.placement (s : State) (p : Nat) (r : Rec) : Option Target :=
  let t := r.img.tlevel
  let idle := fun (w : Who) => (s.seqs.find w).isNone
  if p < 32 then
    if !(s.mayCluster r.ctx p) then none
    else
      let array := s.wantsArray r.ctx r.img
      let cores := (coresOf p).filter (fun n => s.coreTakes r.ctx n array && s.serves r.ctx n (decide (120 ≤ r.img.prio)) && (r.partition.isEmpty || r.partition.contains n))
      (leastBy (fun n => (s.core n).blocks.length) cores).bind (fun n =>
        ((List.range 4).find? (fun b => ((s.core n).blocks.find b).isNone)).map (fun b => .block n b))
  else if p < 36 then
    let cl := ((List.range 8).map (fun k => 8 * (p - 32) + k)).filter (fun c => s.mayCluster r.ctx c)
    if t = 1 then
      s.descent r (cl.filter (fun c => r.partition.isEmpty || r.partition.any (fun n => n / 8 = c)))
    else (leastBy (fun c => s.blocksOn (coresOf c)) (cl.filter (fun c => idle (.clusterSeq c)))).map (fun c => .seq (.clusterSeq c))
  else if t ≤ 2 then
    s.descent r (((List.range 4).filter (fun d => r.partition.isEmpty || r.partition.any (fun n => n / 64 = d))).map (fun d => 32 + d))
  else if t = 3 then
    (leastBy (fun d => s.blocksOn ((List.range 64).map (fun k => 64 * d + k)))
      ((List.range 4).filter (fun d => s.mayDie r.ctx d && idle (.dieSeq d)))).map (fun d => .seq (.dieSeq d))
  else if idle .packageSeq then some (.seq .packageSeq) else none

/-- The effective priority of a record (R346). -/
def State.effPrio (s : State) (p : Nat) (r : Rec) : Nat :=
  let q := s.pot p
  if 120 ≤ r.img.prio || !q.ageen then r.img.prio
  else Nat.min 119 (r.img.prio + (s.tb - r.created) / 1000 / 2 ^ q.a)

/-- Whether record `a` stands before `b` in the order of dispatch (R345, R348). -/
def State.before (s : State) (p : Nat) (a b : Rec) : Bool :=
  let x := s.effPrio p a
  let y := s.effPrio p b
  y < x || (x = y && (a.created < b.created || (a.created = b.created && a.order < b.order)))

/-- Whether the cores that the collectives of a root record reserve are to be had on every die (R417; notes/assumptions 121). -/
def State.canReserve (s : State) (r : Rec) : Bool :=
  let used := (s.packets.filter (fun x => x.status.isNone)).flatMap (fun x => x.part)
  let want := if r.partition.isEmpty then (r.packets.map (fun q => match s.packet q with
      | none => 0
      | some p => if p.word 4 = 0 || !p.part.isEmpty then 0 else bitsAt (p.word 5) 0 8)).sum else 0
  (List.range 4).all (fun d => want ≤ 64 - (used.filter (fun n => n / 64 = d)).length)

/-- The record that a stockpot dispatches next, and where to (R345). -/
def State.choose (s : State) (p : Nat) : Option (Nat × Rec × Target) :=
  (s.pot p).recs.foldl (fun best x =>
    if !(s.eligibleRec x.2) || !(s.canReserve x.2) then best
    else match s.placement p x.2 with
      | none => best
      | some t => match best with
        | none => some (x.1, x.2, t)
        | some b => if s.before p x.2 b.2.1 then some (x.1, x.2, t) else best) none

-- transfer (R348)

/-- A record leaves its stockpot. -/
def State.dropRec (s : State) (p n : Nat) : State := s.updPot p (fun q => { q with recs := q.recs.drop n })

/-- A record moves from one stockpot to another (R348): it combines with its match, or enters as one of its own, as one that a flush
has sealed always does (R313). Nothing where the destination is full. -/
def State.transfer (s : State) (p n q : Nat) : State :=
  match (s.pot p).recs.find n with
  | none => s
  | some r =>
    let enter := fun (r : Rec) => match s.freeSlot q with
      | none => s
      | some k => ((s.dropRec p n).updPot q (fun e =>
          { e with recs := e.recs.put k { r with order := e.nextOrder }, nextOrder := e.nextOrder + 1 })).wakeSeq (potSeq q)
    if r.sealed = some .flush then enter r
    else match (s.pot q).recs.find? (fun x => x.2.same r.ctx r.img && x.2.sealed.isNone) with
    | some (k, m) =>
      if m.img.limit = 0 || m.count + r.count ≤ m.img.limit then
        ((s.dropRec p n).updRec q k (fun m =>
          { m with img := m.img.combine r.img, count := m.count + r.count,
                   sealed := if sealsAt m.img.limit (m.count + r.count) then some .limit else none,
                   groups := m.groups ++ r.groups, packets := m.packets ++ r.packets })).wakeSeq (potSeq q)
      else enter { r with sealed := some .limit }
    | none => enter r

-- dispatch (R342)

/-- s1 to s7 of a record's runner (R194, R343). -/
def startRegs (r : Rec) : Tab Nat Dword :=
  let w := fun (i : Nat) => r.img.words.getD i 0
  ((List.range 5).map (fun t => (8 * (t + 1), (w (2 * t + 1)) ++ (w (2 * t))))) ++ [(48, r.img.key), (56, BitVec.ofNat 64 r.count)]

/-- A block takes a slot of a core (R191): the core is its context's, whose quantum starts with it (R311). -/
def State.placeBlock (s : State) (p n : Nat) (r : Rec) (core slot : Nat) : State :=
  let b : Block :=
    { stream := { Issuer.fresh r.ctx 1 with s := startRegs r, born := s.cycles }, pot := p, slot := n,
      hdr := pcOf (s.headerAddr r.ctx r.img), array := s.wantsArray r.ctx r.img, bars := 0, bprog := 0, bprogBy := none, firstDouble := none,
      failed := [], exited := false, halted := false, idem := r.img.idem, preq := false, pkind := 0, saves := 0,
      treat := .none, deadline := none, born := s.tb }
  let s := s.takeCluster r.ctx (core / 8)
  let s := if (s.core core).blocks.isEmpty then s.updDie (core / 64) (fun x => { x with lastServed := r.ctx }) else s
  s.updCore core (fun c =>
    let c := if c.ctx = some r.ctx then c else { c with probe := Probe.reset }
    { c with ctx := some r.ctx, forCtx := none, since := if c.blocks.isEmpty then s.tb else c.since, blocks := c.blocks.put slot b })

/-- A sequencer takes a record (R358, R377, R413). -/
def State.placeSeq (s : State) (p n : Nat) (r : Rec) (w : Who) : State :=
  let q : Seq := { iss := { Issuer.fresh r.ctx r.img.tlevel with s := startRegs r, born := s.cycles }, pot := p, slot := n,
                   hdr := pcOf (s.headerAddr r.ctx r.img), done := none }
  let s := match w with
    | .clusterSeq c => s.takeCluster r.ctx c
    | .dieSeq d => s.takeDie r.ctx d
    | _ => s
  { s with seqs := s.seqs.put w q }

/-- A store to a STOP word is performed, behind the earlier ones to that word; it waits for its translation as a SIGNAL does, and one
that is denied or refused is not made (R380, R387, R417; notes/assumptions 171: DEDUCED). -/
def State.performStop (s : State) (id : Nat) : State :=
  match s.stops.find? (fun x => x.id = id) with
  | none => s
  | some x =>
    let dropped : State := { s with stops := s.stops.filter (fun y => y.id ≠ id) }
    if (s.stops.takeWhile (fun y => y.id ≠ id)).any (fun y => y.ctx = x.ctx && y.va = x.va) then s
    else if 2 ^ 57 ≤ x.va then dropped
    else match s.translate 0 x.ctx x.va kWrite with
      | .wait => s
      | .bad _ => dropped
      | .ok pa => dropped.pkgStore (s.keyOf x.ctx) pa (bytesOf x.value 8)

/-- The stores to STOP words that may be performed now, the oldest first. -/
def State.performStops (s : State) : State := s.stops.foldl (fun s x => s.performStop x.id) s

/-- The STOP word of a packet with a collective is stored (R417). -/
def State.storeStop (s : State) (seq v : Nat) : State :=
  match s.packet seq with
  | none => s
  | some p =>
    if p.word 4 = 0 then s
    else
      let x : StopStore := { id := s.nextId, ctx := p.ctx, va := (p.word 6).toNat, value := v }
      ({ s with nextId := s.nextId + 1, stops := s.stops ++ [x] } : State).performStop x.id

/-- The first dispatch of a root record that carries collectives (R417): for each, PART cores of each die are reserved, the STOP
word is cleared, and the collective's image is inserted. -/
def State.startCollectives (s : State) (r : Rec) : State :=
  if !r.partition.isEmpty then s
  else r.packets.foldl (fun s q =>
    match s.packet q with
    | none => s
    | some p =>
      if p.word 4 = 0 || !p.part.isEmpty then s
      else
        let used := (s.packets.filter (fun x => x.status.isNone)).flatMap (fun x => x.part)
        let part := (List.range 4).flatMap (fun d => ((dieCores d).filter (fun n => !(used.contains n))).take (bitsAt (p.word 5) 0 8))
        let i : PendIns :=
          { id := s.nextId, pot := 36, ctx := p.ctx, die := 0, src := .packet q, space := 4, addr := p.word 4, bad := false
            img := none, key := none, words01 := none, nb := false, ns := false, level := 4, timeout := none, podN := none
            seq := 0, frag := 0, dbg := false, old := false, spfull := false, stalled := false, again := false, sent := none, ghost := none }
        let s : State :=
          { s with nextId := s.nextId + 1, inserts := s.inserts ++ [i]
                   packets := s.packets.map (fun (x : Packet) => if x.seq = q then { x with part := part } else x) }
        s.storeStop q 0) s

/-- Work begins: the package leaves S2 for P0, or for P1 where its clock is reduced (R424). -/
def State.leaveIdle (s : State) : State :=
  { s with power := if s.power = 2 then (if s.clockStep = 0 then 0 else 1) else s.power }

/-- DISPATCH (R330, R342, R345): the first record in the order of dispatch that can be placed. -/
def execDispatch (p : Nat) (s : State) : Host.Outcome State Fault Refusal :=
  match (if s.suspst = 0 then s.choose p else none) with
  | none => .next s
  | some (n, r, t) =>
    let taken := fun (s : State) (w : Who) => s.updRec p n (fun r =>
      { r with st := .taken, sealed := some (r.sealed.getD .dispatch), runner := some w })
    let s := s.startCollectives r
    let s := match t with
      | .block core slot => (taken s (.stream core slot)).placeBlock p n r core slot
      | .seq w => (taken s w).placeSeq p n r w
      | .pot q => s.transfer p n q
    .next s.leaveIdle

-- retirement

/-- A retirement status (R202): the stream, or the gang, of the first DOUBLE, its original cause, and the cause 0x09 (R127). -/
def retireStatus (double : Option (Bool × Nat × Nat)) : BitVec 32 :=
  match double with
  | none => 0
  | some (stream, g, orig) =>
    BitVec.ofNat 32 (b2n stream * 2 ^ 21 + (if stream then 0 else g % 32) * 2 ^ 16 + orig % 256 * 2 ^ 8 + 9)

/-- A record retires with its status (R202, R341, R349, R417), in error where that carries a cause or `bad` holds: its slot is free,
its stockpot's sequencer, its groups and packets learn of it. -/
def State.retireRec (s : State) (p n : Nat) (st : BitVec 32) (bad : Bool) : State :=
  let err := bad || st.toNat % 256 ≠ 0
  match (s.pot p).recs.find n with
  | none => s
  | some r =>
    let s := (s.dropRec p n).updPot p (fun q => { q with retired := st })
    let s := r.groups.foldl (fun s g =>
      let s := s.updPot g.1 (fun q => q.leave r.ctx g.2 err)
      if g.1 = 36 then s.answerJoiners r.ctx g.2 else s) s
    let s := r.packets.foldl (fun s q => s.packetRetire q (err && r.partition.isEmpty)) s
    let s := if r.partition.isEmpty then r.packets.foldl (fun s q => s.storeStop q 1) s else s
    s.wakeSeq (potSeq r.home)

/-- The run of a block is over: its slot, barriers and array are free (R202, R193). -/
def State.freeBlock (s : State) (core slot : Nat) : State :=
  let s := s.goneMembers core slot
  let keep := fun (k : BarKey) => match k with
    | .block c b _ => !(c = core && b = slot)
    | _ => true
  let s : State := { s with bars := s.bars.filter (fun p => keep p.1) }
  s.updCore core (fun c => { c with blocks := c.blocks.drop slot })

/-- A TAKEN record that cannot start retires in error (R341, R361). -/
def State.failStart (s : State) (p n : Nat) : State :=
  match (s.pot p).recs.find n with
  | none => s
  | some r =>
    let s := match r.runner with
      | some (.stream core slot) => s.freeBlock core slot
      | some w => { s.errorAll (seqBars w) with seqs := s.seqs.drop w }
      | none => s
    s.retireRec p n 0 true

/-- RECORD_START (R341, R343): the header is read; the block's stream or the sequencer begins at its ENTRY. -/
def execRecordStart (p n : Nat) (s : State) : Host.Outcome State Fault Refusal :=
  match (s.pot p).recs.find n with
  | none => .next s
  | some r =>
    match r.st, r.runner with
    | .taken, some w =>
      if s.suspst ≠ 0 || w.isSaved || (match w with
        | .stream core slot => s.stoppedAt core slot
        | _ => false) then .next s
      else (match s.readHeader w.die r.ctx (s.headerAddr r.ctx r.img) with
      | .wait => .next s
      | .bad _ => .next (s.failStart p n)
      | .ok bs =>
        match w with
        | .stream core slot =>
          (match Header.ofBytes bs [1, 6] with
          | none => .next (s.failStart p n)
          | some h =>
            if h.array && (s.core core).blocks.any (fun b => b.1 ≠ slot && b.2.array && (b.2.exited || !b.2.stream.frags.isEmpty)) then .next s
            else
              let s := s.updBlock core slot (fun b =>
                { b with array := h.array, bars := h.bars, stream := { b.stream with frags := [(0, Frag.fresh h.entry 0 1)] } })
              let s := if h.array then s.updCore core (fun c => { c with hslots := [], k := [], z := [], zpoison := [], aq := [] }) else s
              .next (s.updRec p n (fun r => { r with st := .running })))
        | _ =>
          (match Header.ofBytes bs [r.img.tlevel, 6] with
          | none => .next (s.failStart p n)
          | some h =>
            let s := s.updIssuer w (fun u => { u with frags := [(0, Frag.fresh h.entry 0 1)] })
            .next (s.updRec p n (fun r => { r with st := .running }))))
    | _, _ => .next s

/-- RECORD_RETIRE (R341, R344, R371): a record whose gate opened in error; one whose sequencer has ended; a reduction that
every contributor has collected. -/
def execRecordRetire (p n : Nat) (s : State) : Host.Outcome State Fault Refusal :=
  match (if s.stopped then none else (s.pot p).recs.find n) with
  | none => .next s
  | some r =>
    if r.gateErr then .next (s.retireRec p n 0 true)
    else if r.result.isSome then (if r.contribs.any (fun k => s.collecting k) then .next s else .next (s.retireRec p n 0 false))
    else match r.st, r.runner with
      | .running, some w =>
        (match s.seqs.find w with
        | some q =>
          (match q.done with
          | some (cause, orig) =>
            .next (({ s.unname w with seqs := s.seqs.drop w } : State).retireRec p n
              (if cause = 9 then retireStatus (some (false, 0, orig)) else 0) false)
          | none => .next s)
        | none => .next s)
      | _, _ => .next s

/-- BLOCK_RETIRE (R202): the stream has exited, no gang is live or has a store to be performed (R303), no copy of the block is
outstanding. -/
def execBlockRetire (core slot : Nat) (s : State) : Host.Outcome State Fault Refusal :=
  match s.block core slot with
  | none => .next s
  | some b =>
    if !b.exited || !((s.core core).gangsOf slot).isEmpty || (s.core core).leaving slot (fun _ => true) || s.copies.any (fun c => c.home = some (core, slot))
        || (b.array && (!(s.core core).aq.isEmpty || !(s.core core).rows.isEmpty))
        || b.treat == Treat.save || b.treat == Treat.flush then .next s
    else .next (((s.unname (.stream core slot)).freeBlock core slot).retireRec b.pot b.slot (retireStatus b.firstDouble) false)

-- the attempts of inserts

/-- INSERT (R335, R336). Waiting arms arrive by the same event. -/
def execInsert (id : Nat) (s : State) : Host.Outcome State Fault Refusal :=
  match s.inserts.find? (fun p => p.id = id) with
  | some p => .next (if p.stalled || s.stopped then s else s.attemptInsert p)
  | none => .next (if s.stopped then s else s.attemptArm id)

/-- STOCKPOT_RETRY (R338, R397): a stalled insert, firing, packet or arm is attempted afresh. -/
def execStockpotRetry (id : Nat) (s : State) : Host.Outcome State Fault Refusal :=
  match s.inserts.find? (fun p => p.id = id) with
  | some p => .next (if s.stopped then s else s.attemptInsert p)
  | none => .next (if s.stopped then s else s.attemptArm id)

end Sys2Proof.Machine
end

