-- ==== Sys2Proof/Machine/Fabric.lean ====
section
/-! DEFINITION. The pod fabric (R430 to R459): ports and routing entries, requests of peers at their
target, and responses, retries and timeouts at the requester. -/
namespace Sys2Proof.Machine

-- ports and routes (R431, R434)

/-- Port `n`; changed by `f`. -/
def State.link (s : State) (n : Nat) : Port := s.ports.get n Port.reset
def State.updLink (s : State) (n : Nat) (f : Port → Port) : State := { s with ports := s.ports.put n (f (s.link n)) }

/-- The ports that satisfy a condition, as a mask. -/
def State.portMask (s : State) (f : Port → Bool) : Nat := maskOf ((List.range 36).filter (fun n => f (s.link n)))

/-- The routing entry of ID `d` as the firmware writes it (R434): a first hop to `d` or to the package between. -/
def State.routeTo (s : State) (d : Nat) : Dword :=
  let me := s.fabid.toNat
  if 1056 < me ∨ d = me then rtentReset
  else
    let direct := neighbours me d
    let hop := if direct then d else between me d
    let active := s.portMask (fun p => p.st = 4 && p.peer = hop)
    let known := s.portMask (fun p => p.peer = hop) ≠ 0
    fieldAt 63 (b2n (active ≠ 0)) ||| fieldAt 62 (b2n direct) ||| fieldAt 51 (if direct || !known then 0x7FF else hop)
      ||| fieldAt 0 active

/-- The flushed records of reductions note since when their root has no path, and a partial that the root has not acknowledged is to be
sent again (R456). -/
def State.noteCuts (s : State) : State :=
  let s : State := { s with reqs := s.reqs.map (fun r => match r.owner with
    | .partial_ _ => { r with retry := r.retry || !(s.hasPath r.msg.dest) }
    | _ => r) }
  if (s.pot 36).recs.any (fun r => r.2.flushed.isSome) then
    s.updPot 36 (fun q => { q with recs := q.recs.map (fun r => (r.1,
      if r.2.flushed.isNone then r.2
      else { r.2 with cutAt := if s.hasPath (bitsAt r.2.img.key 0 11) then none else some (r.2.cutAt.getD s.tb) })) })
  else s

/-- Every routing entry is written anew at a port event (R434, R435). -/
def State.reroute (s : State) : State :=
  State.noteCuts { s with rtent := ((List.range 1057).map (fun d => (d, s.routeTo d))).filter (fun p => p.2 != rtentReset) }

/-- A port goes DOWN with a reason, and the event is logged (R431, R432). -/
def State.portDown (s : State) (n reason : Nat) : State :=
  ((s.updLink n (fun p => { p with st := 6, reason := reason })).logPkg n 0 14 11 reason).reroute

/-- An attempt of training failed (R431): another at x1, or DOWN after the third. -/
def State.trainFailed (s : State) (n : Nat) : State :=
  let s := s.updLink n (fun p => { p with fails := p.fails + 1 })
  if 3 ≤ (s.link n).fails then s.portDown n 1
  else s.updLink n (fun p => { p with st := 5, since := s.tb, fell := true })

/-- PORT_ENABLE (R431). -/
def execPortEnable (n : Nat) (s : State) : Host.Outcome State Fault Refusal :=
  if 36 ≤ n || (s.link n).en then .next s
  else .next (s.updLink n (fun p =>
    { p with en := true, fails := 0, reason := 0, st := if s.fabid = 0x7FF then 0 else 1, since := s.tb, fell := false }))

/-- PORT_DISABLE (R431). -/
def execPortDisable (n : Nat) (s : State) : Host.Outcome State Fault Refusal :=
  if 36 ≤ n then .next s
  else .next (s.updLink n (fun p => { p with en := false, st := 0, reason := 4 })).reroute

/-- DETECT (R431). -/
def execDetect (n : Nat) (found : Bool) (s : State) : Host.Outcome State Fault Refusal :=
  let p := s.link n
  if 36 ≤ n || p.st ≠ 1 || s.tb < p.since + 10000000 then .next s
  else .next (s.updLink n (fun p => { p with st := if found then 2 else 1, since := s.tb }))

/-- The digest of one end's view of a link (R432). -/
def linkDigest (me : Nat) (v : LinkView) : BitVec 32 :=
  let lo := if me < v.peer then me else v.peer
  let hi := if me < v.peer then v.peer else me
  BitVec.ofNat 32 (ofBytes ((sha3x512 (bytesOf lo 2 ++ bytesOf hi 2 ++ [BitVec.ofNat 8 v.width, if v.fast then 1 else 0]
    ++ takePad v.laneMap 4 0 ++ List.replicate 6 0)).take 4))

/-- LINK_UP (R431 to R433): PARAM, and what it leads to. A link that comes up in FALLBACK has one lane at 100 Gb/s. -/
def execLinkUp (n : Nat) (v : LinkView) (s : State) : Host.Outcome State Fault Refusal :=
  let p := s.link n
  let v := if p.st = 5 then { v with width := 0, fast := false } else v
  let me := s.fabid.toNat
  if 36 ≤ n || !(p.st = 2 || p.st = 5) || p.since + 100000000 ≤ s.tb then .next s
  else
    let s := s.updLink n (fun p => { p with st := 3, peer := v.peer, width := v.width, speed := v.fast })
    if v.peer = me then .next (s.portDown n 3)
    else if !(neighbours me v.peer) || 1056 < v.peer then .next (s.portDown n 2)
    else if linkDigest me v = v.peerDigest then
      .next (s.updLink n (fun p => { p with st := 4, fails := 0 })).reroute
    else .next ((s.logPkg n 0 14 11 p.reason).trainFailed n)

/-- TRAINING_TIMEOUT (R431). -/
def execTrainingTimeout (n : Nat) (s : State) : Host.Outcome State Fault Refusal :=
  let p := s.link n
  if 36 ≤ n || !(p.st = 2 || p.st = 5) || s.tb < p.since + 100000000 then .next s else .next (s.trainFailed n)

/-- RETRAIN (R431): it starts again at x4. -/
def execRetrain (n : Nat) (s : State) : Host.Outcome State Fault Refusal :=
  if 36 ≤ n || (s.link n).st ≠ 4 then .next s
  else .next (s.updLink n (fun p =>
    { p with st := 2, retrains := BitVec.ofNat 32 (satAt 32 (p.retrains.toNat + 1)), since := s.tb, fell := false })).reroute

/-- FABID_WRITE (R427, R431): enabled ports leave DISABLED once the ID is set, and return to it where it is not. -/
def execFabidWrite (v : BitVec 64) (s : State) : Host.Outcome State Fault Refusal :=
  let id : BitVec 11 := v.setWidth 11
  let s : State := { s with fabid := id }
  .next ((List.range 36).foldl (fun s n =>
    let p := s.link n
    if id = 0x7FF then s.updLink n (fun p => { p with st := 0 })
    else if p.en && p.st = 0 then s.updLink n (fun p => { p with st := 1, since := s.tb })
    else s) s).reroute

/-- MESSAGE_RELAY (R436, R459): the message goes on by one hop; one for a package in S3 is answered RETRY by the last package
on its route. A message with no way on is lost. -/
def execMessageRelay (m : Msg) (s : State) : Host.Outcome State Fault Refusal :=
  if m.dest = s.fabid.toNat || s.stopped then .next s
  else
    let half2 := m.half2 || (m.nonMin && m.via = s.fabid.toNat)
    let to_ := if m.nonMin && !half2 then m.via else m.dest
    if Config.peerAsleep s.draws m.dest && neighbours s.fabid.toNat m.dest && m.op ≤ 9 then
      .next (({ s with draws := s.draws + 1 } : State).respond m 6 [])
    else if s.minOk to_ then
      .next { s with draws := s.draws + 1, outbox := s.outbox ++ [{ m with hops := m.hops + 1, half2 := half2 }] }
    else .next { s with draws := s.draws + 1 }

-- requests at their target (R438 to R442)

/-- A message that the package sends to itself leaves the messages sent when it arrives. -/
def State.takeSent (s : State) (m : Msg) : State := { s with outbox := s.outbox.erase m }

/-- An arriving message that goes no further (R438, R459): addressed to another package, with a reserved bit set, or a
request to a package that suspends. -/
def State.screen (s : State) (m : Msg) : Option State :=
  if m.dest ≠ s.fabid.toNat || s.stopped then some s
  else if m.rsv then some ((s.logPkg 0 0 14 11 0).respond m 8 [])
  else if m.op ≤ 9 && s.suspst = 1 then
    some ({ s with retried := BitVec.ofNat 32 (satAt 32 (s.retried.toNat + 1)) }.respond m 6 [])
  else none

/-- A request is refused (R448): counted, and logged at the target with the cause that it raises (R390). -/
def State.refuseReq (s : State) (m : Msg) (ctx st : Nat) : State :=
  ({ s with refused := BitVec.ofNat 32 (satAt 32 (s.refused.toNat + 1)) }.logPkg m.offset.toNat ctx 14 1 (statusCause st)).respond m st []

/-- An entry of the export table (R439). -/
structure Export where
  key : BitVec 32
  ctx : Nat
  flags : Nat
  base : Nat
  len : Nat
  deriving DecidableEq, Repr

/-- Export entry `e`, as the table holds it (R439). -/
def State.exportOf (s : State) (e : Nat) : Export :=
  let a := 4096 * bitsAt s.expbase 12 40 + 32 * e
  let lo := BitVec.ofNat 64 (s.sysWord a)
  { key := lo.setWidth 32, ctx := bitsAt lo 32 16, flags := bitsAt lo 48 8, base := s.sysWord (a + 8), len := s.sysWord (a + 16) }

/-- The FLAGS bit that an operation needs (R439, R444). -/
def opFlag (op : Nat) : Nat := if op = 1 then 1 else if op = 2 ∨ op = 3 then 2 else if op = 6 then 4 else 3

/-- The checks at the target, in their order (R442): the STATUS of a refusal, or the entry. A request whose elements are not
aligned, or larger than 16 bytes, is none that R438 describes. -/
def State.checkReq (s : State) (m : Msg) : Nat ⊕ Export :=
  let x := s.exportOf m.eidx
  let size := 2 ^ m.size
  let n := if m.op = 6 then 0 else m.count * size
  if !(bitAt s.expbase 63) || m.key ≠ x.key || m.key = 0 || x.flags % 2 = 0 || (s.ctxOf x.ctx).st != CtxSt.live
      || (s.ctxOf x.ctx).revoked then .inl 1
  else if !(x.flags.testBit (opFlag m.op)) then .inl 3
  else if m.offset.toInt < 0 ∨ x.len < m.offset.toNat + n ∨ 2 ^ 57 < x.base + m.offset.toNat + n then .inl 2
  else if m.op ≠ 6 ∧ (4 < m.size ∨ m.offset.toNat % size ≠ 0) then .inl 8
  else .inr x

/-- The access kind of an operation (R384, R387): a reduce-store is an update. -/
def opKind (op : Nat) : Nat := if op = 1 then kRead else if op = 2 then kWrite else kAtomic

/-- The STATUS of an access that fails at the target (R442, R448). -/
def causeStatus (c : Nat) : Nat := if c = 0x12 then 3 else if c = 0x13 then 4 else if c = 0x14 then 1 else 5

/-- Item `k` of `n` bytes of a message's data. -/
def msgItem (m : Msg) (k n : Nat) : Nat := ofBytes ((m.data.drop (k * n)).take n)

/-- One element of a request is performed (R442, R445): the new state and the bytes it returns. -/
def State.serveOne (s : State) (m : Msg) (key pa k : Nat) : State × List Byte :=
  let n := 2 ^ m.size
  let bs := s.pkgRead key pa n
  if m.op = 1 then (s, bs)
  else if m.op = 2 then (s.pkgStore key pa (bytesOf (msgItem m k n) n), [])
  else
    let old := ofBytes bs
    let new := if m.op = 5 then (if old = msgItem m (2 * k) n then msgItem m (2 * k + 1) n else old)
      else (atomOp m.aop ((m.data.getD (m.count * n) 0).toNat % 16) old (msgItem m k n) 0).1
    (s.pkgStore key pa (bytesOf new n), if m.op = 3 then [] else bs)

/-- The elements of a request are translated by die 0 and performed in lane order (R380, R442, R445), or wait, or fail
with a STATUS. -/
def State.serve (s : State) (m : Msg) (ctx base : Nat) : Attempt (State × List Byte) :=
  let n := 2 ^ m.size
  let at_ := (List.range m.count).map (fun k => s.translate 0 ctx (base + m.offset.toNat + k * n) (opKind m.op))
  if at_.any (fun a => match a with
    | .bad _ => true
    | _ => false) then
    .bad ((at_.filterMap (fun a => match a with
      | .bad c => some (causeStatus c)
      | _ => none)).headD 5)
  else if at_.any (fun a => a == Attempt.wait) then .wait
  else
    let pas := at_.filterMap (fun a => match a with
      | .ok p => some p
      | _ => none)
    if m.op ≠ 2 && pas.any (fun p => s.poisoned p n) then .bad 4
    else
      let r := ((List.range m.count).zip pas).foldl (fun (x : State × List Byte) p =>
        let y := x.1.serveOne m (s.keyOf ctx) p.2 p.1
        (y.1, x.2 ++ y.2)) (s, [])
      -- a store of whole granules clears their poison (R188)
      let covered := fun (p : Nat) => (List.range (64 / n)).all (fun i => pas.contains (p / 64 * 64 + i * n))
      .ok (if m.op = 2 then pas.foldl (fun (s : State) p => if covered p then s.clearPoison (p / 64 * 64) 64 else s) r.1 else r.1, r.2)

/-- A request past its checks is answered, or held until its translation is there (R442). -/
def State.serveReq (s : State) (m : Msg) (x : Export) : State :=
  if m.op = 6 then
    let r := s.tagMessage x.ctx (BitVec.ofNat 32 (ofBytes ((m.data.drop 8).take 4))) (BitVec.ofNat 64 (ofBytes (m.data.take 8)))
    r.1.respond m 0 [if r.2 then 0 else 1]
  else
    match s.serve m x.ctx x.base with
    | .wait => { s with nextId := s.nextId + 1, held := s.held ++ [{ id := s.nextId, msg := m, ctx := x.ctx, base := x.base }] }
    | .bad st => s.refuseReq m x.ctx st
    | .ok r => r.1.respond m 0 r.2

/-- REMOTE_REQUEST (R442): operations 1 to 6; a message with an unknown OP is dropped (R438). -/
def execRemoteRequest (m : Msg) (s : State) : Host.Outcome State Fault Refusal :=
  let s := s.takeSent m
  if m.op = 0 ∨ 6 < m.op then .next s
  else match s.screen m with
    | some s => .next s
    | none => match s.checkReq m with
      | .inl st => .next (if st = 8 then (s.logPkg 0 0 14 11 0).respond m 8 [] else s.refuseReq m (s.exportOf m.eidx).ctx st)
      | .inr x => .next (s.serveReq m x)

/-- A held request is tried again, past its key check (R441, R442). -/
def State.serveHeld (s : State) (id : Nat) : State :=
  match s.held.find? (fun h => h.id = id) with
  | none => s
  | some h =>
    let t : State := { s with held := s.held.filter (fun h => h.id ≠ id) }
    match s.serve h.msg h.ctx h.base with
    | .wait => s
    | .bad st => t.refuseReq h.msg h.ctx st
    | .ok r => { r.1 with held := r.1.held.filter (fun h => h.id ≠ id) }.respond h.msg 0 r.2

/-- A held request whose translation is denied is answered as UNMAPPED (R389, R442). -/
def State.denyHeld (s : State) (id : Nat) : State :=
  match s.held.find? (fun h => h.id = id) with
  | none => s
  | some h => ({ s with held := s.held.filter (fun h => h.id ≠ id) } : State).refuseReq h.msg h.ctx 5

/-- FXREVOKE (R441): the revocation of entry `e` completes once every request past its key check has been performed. -/
def execFxrevoke (e : Nat) (s : State) : Host.Outcome State Fault Refusal :=
  if s.fxBusy ≠ some e || s.held.any (fun h => h.msg.eidx = e) then .next s else .next { s with fxBusy := none }

-- inserts and joins of peers (R450, R451)

/-- The inserts of peers that wait for a slot (R450). -/
def State.remoteWaiting (s : State) : Nat :=
  (s.inserts.filter (fun p => p.stalled && (match p.src with
    | .remote _ _ => true
    | _ => false))).length

/-- REMOTE_INSERT (R450): the insert arrives at the package stockpot; where it would wait as one more than 256, it is sent back. -/
def execRemoteInsert (m : Msg) (s : State) : Host.Outcome State Fault Refusal :=
  let s := s.takeSent m
  if m.op ≠ 7 then .next s
  else match s.screen m with
    | some s => .next s
    | none =>
      let i := Image.ofBytes (takePad m.data 64 0)
      if (s.ctxOf m.eidx).st != CtxSt.live then .next (s.answerRemote m.src m.tid (insStatus 5 false 0))
      else if s.imageBad 36 [4] i (countOf m.data) then
        .next ((s.logImage 36 0 m.eidx).answerRemote m.src m.tid (insStatus 3 false 0))
      else
        let p : PendIns :=
          { id := s.nextId, pot := 36, ctx := m.eidx, die := 0, src := .remote m.src m.tid, space := 0, addr := 0, bad := false,
            img := some i, key := none, words01 := none, nb := m.aop ≠ 0, ns := false, level := 4, timeout := none,
            podN := none, seq := 0, frag := 0, dbg := false, old := false, spfull := false, stalled := false, again := false, ghost := none,
            sent := none }
        let t := ({ s with nextId := s.nextId + 1, inserts := s.inserts ++ [p] } : State).attemptInsert p
        if 256 < t.remoteWaiting then
          .next ({ s with retried := BitVec.ofNat 32 (satAt 32 (s.retried.toNat + 1)) }.respond m 6 [])
        else .next t

/-- REMOTE_JOIN (R451): answered at once where the group's count is zero, else when it becomes so. -/
def execRemoteJoin (m : Msg) (s : State) : Host.Outcome State Fault Refusal :=
  let s := s.takeSent m
  if m.op ≠ 8 then .next s
  else match s.screen m with
    | some s => .next s
    | none =>
      let g := bitsAt m.offset 0 12
      match s.groupOver 36 m.eidx g with
      | some errs => .next (s.respond m 0 (bytesOf (joinStatus (if errs = 0 then 0 else 9) errs).toNat 8))
      | none => .next (s.addJoiner 36 m.eidx g (.remote m.src m.tid))

-- pod reductions (R455, R456)

/-- Request `tid` is answered: it waits no longer. -/
def State.dropReq (s : State) (tid : Nat) : State := { s with reqs := s.reqs.filter (fun r => r.tid ≠ tid) }

/-- The result of a root record goes to every record that has forwarded into it (R455, R456). -/
def State.sendResults (s : State) (r : Rec) : State :=
  r.from_.foldl (fun s f => s.sendMsg
    { Msg.to f.1 2 10 with
      tid := f.2, eidx := r.ctx, offset := r.img.key, aop := r.img.op, count := r.count, size := 2
      data := ((r.img.words.take 2).map (fun w => bytesOf w.toNat 4)).flatten }) s

/-- A partial folds into the root record, which it creates where there is none (R455). -/
def foldPartial (r : Rec) (m : Msg) (i : Image) : Rec :=
  { r with img := r.img.combine i, count := r.count + m.count, from_ := r.from_ ++ [(m.src, m.tid)] }

/-- A root record that has reached its count completes: its result leaves (R455). -/
def State.testRoot (s : State) (n want : Nat) : State :=
  match (s.pot 36).recs.find n with
  | none => s
  | some r =>
    if r.count < want then s
    else (s.updRec 36 n (fun r =>
      { r with sealed := some .limit, result := some (r.img.words, if r.count = want then 0 else 6, r.count) })).sendResults r

/-- REDUCTION_PARTIAL (R455): the partial is acknowledged and folded once (R456; notes/assumptions 172: DEDUCED), the first into a
record as R336 creates it; with no slot for a new root record it is to be sent again. -/
def execReductionPartial (m : Msg) (s : State) : Host.Outcome State Fault Refusal :=
  let s := s.takeSent m
  if m.op ≠ 9 then .next s
  else match s.screen m with
    | some s => .next s
    | none =>
      let want := ofBytes ((m.data.drop 8).take 4)
      let i := redImage m.offset (BitVec.ofNat 64 (ofBytes (m.data.take 8))) m.aop (want % 4096) 4 rootMark
      if (s.pot 36).recs.any (fun r => r.2.from_.contains (m.src, m.tid)) then .next (s.respond m 0 []) else
      match (s.pot 36).recs.find? (fun r => r.2.same m.eidx i && r.2.sealed.isNone) with
      | some (n, _) => .next (((s.updRec 36 n (fun r => foldPartial r m i)).respond m 0 []).testRoot n want)
      | none =>
        match s.freeSlot 36 with
        | none => .next ({ s with retried := BitVec.ofNat 32 (satAt 32 (s.retried.toNat + 1)) }.respond m 6 [])
        | some n =>
          let r := { s.newRec 36 m.eidx i none none with
            sealed := none, count := m.count, from_ := [(m.src, m.tid)] }
          let t := s.updPot 36 (fun e => { e with recs := e.recs.put n r, nextOrder := e.nextOrder + 1 })
          .next ((t.respond m 0 []).testRoot n want)

/-- REDUCTION_RESULT (R456): the record that forwarded the partial completes with the root's words. -/
def execReductionResult (m : Msg) (s : State) : Host.Outcome State Fault Refusal :=
  let s := s.takeSent m
  if m.op ≠ 10 then .next s
  else match s.screen m with
    | some s => .next s
    | none =>
      match (s.pot 36).recs.find? (fun r => r.2.flushed = some m.tid && r.2.result.isNone) with
      | none => .next s
      | some (n, r) =>
        let words := [BitVec.ofNat 32 (msgItem m 0 4), BitVec.ofNat 32 (msgItem m 1 4)]
        .next ((s.dropReq m.tid).completeRed 36 n (if r.podN = some m.count then 0 else 6) words m.count)

-- responses at the requester (R448, R449, R459)

/-- The answer to an insert at pod level (R337, R338, R450). -/
def State.answerInsert (s : State) (id : Nat) (resp : Msg) : State :=
  match s.inserts.find? (fun p => p.id = id) with
  | none => s
  | some p =>
    let v := BitVec.ofNat 64 (ofBytes (resp.data.take 8))
    if resp.status ≠ 0 then s.insRefuse p 5 0
    else if bitsAt v 56 8 = 0x43 then s.updInsert id (fun p => { p with spfull := true, stalled := false, sent := none })
    else
      match p.src with
      | .launch w m tag sd c =>
        let s := s.dropInsert id
        if sd = 0 then s else s.deliver w tag sd (slicesOf m) (if c then v else v &&& ~~~(0xFFFFFFFF : Dword))
      | _ => s.dropInsert id

/-- A response, or what stands for one, reaches what waits for it (R448): a RETRY leaves it pending. -/
def State.answerReq (s : State) (r : Req) (resp : Msg) : State :=
  if resp.status = 6 then { s with reqs := s.reqs.map (fun x => if x.tid = r.tid then { x with retry := true } else x) }
  else
    let s := s.dropReq r.tid
    match r.owner with
    | .log core g n => s.answerLog core g n r.msg resp
    | .copy id piece => s.answerCopy id piece resp
    | .insert id => s.answerInsert id resp
    | .join w _ =>
      s.answerJoin w r.tid (if resp.status = 0 then BitVec.ofNat 64 (ofBytes (resp.data.take 8)) else joinStatus 7 0)
    | .partial_ n =>
      if resp.status = 0 then s
      else match (s.pot 36).recs.find n with
        | none => s
        | some k => if k.flushed = some r.tid && k.result.isNone then s.completeRed 36 n 7 k.img.words k.count else s

/-- REMOTE_RESPONSE (R448). -/
def execRemoteResponse (m : Msg) (s : State) : Host.Outcome State Fault Refusal :=
  let s := s.takeSent m
  if m.op ≠ 11 then .next s
  else match s.screen m with
    | some s => .next s
    | none => match s.reqs.find? (fun r => r.tid = m.tid) with
      | none => .next s
      | some r => .next (s.answerReq r m)

/-- A reduction whose partial is `tid` ends in NOPEER (R456): its root had no path for all of the last RTIME. -/
def State.endCut (s : State) (tid : Nat) : State :=
  match (s.pot 36).recs.find? (fun r => r.2.flushed = some tid && r.2.result.isNone
    && r.2.cutAt.any (fun t => t + 1000000 * s.rtime.toNat ≤ s.tb)) with
  | none => s
  | some (n, r) => (s.dropReq tid).completeRed 36 n 7 r.img.words r.count

/-- RESPONSE_TIMEOUT (R448, R456): no response within RTIME. An insert and a JOIN, which wait at their target (R450, R451), fail
only where no path remains; a partial, acknowledged or not, once its root has been out of reach for RTIME. -/
def execResponseTimeout (tid : Nat) (s : State) : Host.Outcome State Fault Refusal :=
  match s.reqs.find? (fun r => r.tid = tid) with
  | none => .next (s.endCut tid)
  | some r =>
    let due := r.sentAt + 1000000 * s.rtime.toNat ≤ s.tb
    let lost := !(s.hasPath r.msg.dest)
    let fails := due && (match r.owner with
      | .partial_ _ => false
      | .insert _ => lost && !r.retry
      | .join _ _ => lost && !r.retry
      | .log _ _ _ => !r.retry
      | .copy _ _ => !r.retry)
    .next (if fails then s.answerReq r { r.msg with op := 11, status := 7 } else
      match r.owner with
      | .partial_ _ => s.endCut tid
      | _ => s)

/-- A request is sent again (R450, R459); one with no path left is answered as NOPEER by its sender (R435), but for a partial,
which waits for a path (R456). -/
def State.resend (s : State) (r : Req) : State :=
  if s.hasPath r.msg.dest then
    ({ s with reqs := s.reqs.map (fun x => if x.tid = r.tid then { x with retry := s.asleep r.msg.dest, sentAt := s.tb } else x) } : State).putOut
      r.msg
  else
    match r.owner with
    | .partial_ _ => s
    | _ => s.answerReq r { r.msg with op := 11, status := 7 }

/-- RETRY_RESEND (R453, R459): every 1 ms. -/
def execRetryResend (tid : Nat) (s : State) : Host.Outcome State Fault Refusal :=
  match s.reqs.find? (fun r => r.tid = tid) with
  | none => .next s
  | some r =>
    if !r.retry || s.stopped || s.tb < r.sentAt + 1000000 then .next s
    else .next (s.resend r)

/-- REMOTE_INSERT_RESEND (R450): every 1 µs. -/
def execRemoteInsertResend (tid : Nat) (s : State) : Host.Outcome State Fault Refusal :=
  match s.reqs.find? (fun r => r.tid = tid) with
  | none => .next s
  | some r =>
    match r.owner with
    | .insert _ => if !r.retry || s.stopped || s.tb < r.sentAt + 1000 then .next s else .next (s.resend r)
    | _ => .next s

end Sys2Proof.Machine
end

