-- ==== Sys2Proof/Machine/Fetch.lean ====
section
/-! DEFINITION. From a fragment to the instructions of its next step (R41 to R45, R53, R104, R105): what it fetches, which
of two paired instructions is run first in the model, and whose turn it is. -/
namespace Sys2Proof.Machine

/-- The issue port of an opcode (R45): U, V, M, X. -/
def portOf (op : Nat) : Nat :=
  let g := op / 64
  if g ≤ 3 ∨ g = 14 then 0 else if g ≤ 7 then 1 else if g ≤ 9 then 2 else if g ≤ 13 then 3 else 4

/-- Word `i` of a line; slot 5 has none (R41). -/
def lineWord (data : BitVec 512) (i : Nat) : IWord := if i < 5 then data.extractLsb' (96 * i) 96 else 0

/-- Whether an instruction may stand first in a pair (R45). -/
def mayBeFirst (op : Nat) : Bool :=
  !((0x0C1 ≤ op && op ≤ 0x0CD) || op = 0x384 || op = 0x387)

/-- What the slot `i` of a line holds for a step (R45, R53): one instruction with the slots it takes, a pair, or an illegal
pair. -/
inductive Slots where
  | one (a : Instr) (slots : Nat)
  | two (a b : Instr)
  | illegal
  deriving DecidableEq, Repr

/-- The step at slot `i` (R45, R53). -/
def slotsAt (data : BitVec 512) (i : Nat) : Slots :=
  let w := lineWord data i
  let x := lineWord data (i + 1)
  let op := bitsAt w 86 10
  let ox := bitsAt x 86 10
  let pair := fun (k : Nat) => k < 4 && bitAt data (485 + k)
  if pair i then
    if pair (i + 1) || (0 < i && pair (i - 1)) || op = 0x010 || ox = 0x010 || op = 0x3FF || ox = 0x3FF
        || portOf op = portOf ox || !(mayBeFirst op) then .illegal
    else .two (decodeRaw w 0) (decodeRaw x 0)
  else .one (decodeRaw w x) (if op = 0x010 then 2 else 1)

/-- What the attempt to issue a fragment starts with. -/
inductive Plan where
  /-- the fragment cannot issue: nothing happens -/
  | idle
  | stall (w : Why)
  | trap (t : TrapReq) (s : State)
  | one (a : Instr) (cur : Cur)
  | two (a b : Instr) (cur : Cur)
  deriving DecidableEq, Repr

/-- Whether a fragment may be tried: it is eligible, or waits for something else than a halt or its gang's REGANG (R88,
R104). -/
def Frag.tryable (f : Frag) : Bool :=
  f.st == FragSt.eligible || f.st == FragSt.blocked || f.st == FragSt.faultParked

/-- Whether a fragment waits for a stockpot slot or an arm entry (R338, R397). -/
def State.insertHolds (s : State) (w : Who) (f : Frag) : Bool :=
  let mine := fun (frag : BitVec 8) (dbg : Bool) => dbg == f.isDbg && f.slices.any (fun j => frag.getLsbD j)
  s.inserts.any (fun p => p.stalled && p.isOf w && mine p.frag p.dbg)
    || s.pendArms.any (fun p => p.stalled && p.isOf w && mine p.frag p.dbg)

/-- Whether anything of an issuer may issue: it has not ended, its block is not stopped, nor the package. -/
def State.mayRun (s : State) (w : Who) (u : Issuer) : Bool :=
  !(u.ended || s.stopped || s.suspst ≠ 0 || w.isSaved || (match w with
    | .gang n g => 32 ≤ g || s.stoppedAt n u.blk
    | .stream n b => s.stoppedAt n b
    | .clusterSeq _ => false
    | .dieSeq _ => false
    | .packageSeq => false))

/-- The issuers of a core that may run. -/
def State.runners (s : State) (n : Nat) : List (Who × Issuer) :=
  ((s.core n).gangs.map (fun p => (Who.gang n p.1, p.2)) ++ (s.core n).blocks.map (fun p => (Who.stream n p.1, p.2.stream))).filter
    (fun p => s.mayRun p.1 p.2)

/-- Whether the scheduler of its core passes a fragment over: an eligible one of an AGE of 1,024 or more is older (R105), or it has
yielded and another is eligible (R121). -/
def State.outranked (s : State) (w : Who) (e : Nat) (f : Frag) : Bool :=
  match w.core? with
  | none => false
  | some n => (s.runners n).any (fun p => p.2.frags.any (fun q =>
      q.2.st == FragSt.eligible && !(p.1 == w && q.1 == e)
        && (f.yieldLeft != 0 || (w.isGang && p.1.isGang && 1024 ≤ q.2.age && f.age < q.2.age))))

/-- Whether an instruction asks its core's pool for registers (R101, R198). -/
def asksPool : Instr → Bool
  | .grow _ _ => true
  | .launchCore _ _ => true
  | _ => false
def Plan.asksPool : Plan → Bool
  | .one a _ => Sys2Proof.Machine.asksPool a
  | .two a b _ => Sys2Proof.Machine.asksPool a || Sys2Proof.Machine.asksPool b
  | _ => false

/-- Whether a request of `w` would be older than one that this cycle has granted at once (R200): it is not issued in this cycle. -/
def State.tooLate (s : State) (w : Who) (p : Plan) : Bool :=
  (match w.core? with
    | none => false
    | some n => s.rankNow w < (s.core n).poolTaken) && p.asksPool

/-- What an attempt to issue fragment `e` of issuer `w` may come to, were the scheduler to choose it (R43 to R45, R57). TVAL of the
ILLEGAL of an illegal pair or of reserved bits of the line word is zero, as of any other (notes/assumptions 122: DESIGN CHOICE). -/
def State.prospect (s : State) (w : Who) (e : Nat) : Plan :=
  match s.issuer w with
  | none => .idle
  | some u =>
    let f := u.frag e
    let t := fun (cause : Nat) => TrapReq.plain cause 0 (f.pc.setWidth 64) (slotOf f.pc)
    let ill := fun (pc : Pc) => TrapReq.plain 3 0 0 (slotOf pc)
    if !f.tryable || !(s.mayRun w u) then .idle
    else if s.insertHolds w f then .stall .stockpot
    else
      let chk := if f.entryCheck then s.checkTarget w u.ctx (f.pc.setWidth 64)
        else if bitsAt f.pc 3 3 ≠ 0 ∨ 4 < slotOf f.pc then .bad 2
        else match s.lineAt w.place u.ctx (lineOf f.pc) with
          | none => .wait .fetch
          | some l => match l.bad with
            | some c => .bad c
            | none => .ok
      match chk with
      | .wait x => .stall x
      | .bad c => .trap (t c) (s.dropLine w.place u.ctx (lineOf f.pc))
      | .ok =>
        match s.lineAt w.place u.ctx (lineOf f.pc) with
        | none => .stall .fetch
        | some l =>
          if bitsAt l.data 489 7 ≠ 0 then .trap (ill f.pc) s
          else
            let cur := fun (n : Nat) => ({ who := w, entry := e, pc := f.pc, at_ := f.pc, next := Pc.advance f.pc n,
                                           role := .single, lads := none } : Cur)
            match slotsAt l.data (slotOf f.pc) with
            | .illegal => .trap (ill f.pc) s
            | .one a n => .one a (cur n)
            | .two a b => .two a b (cur 2)

/-- The plan for fragment `e` of issuer `w`: none where the scheduler passes it over (R105, R121). -/
def State.plan (s : State) (w : Who) (e : Nat) : Plan :=
  match s.issuer w with
  | none => .idle
  | some u => if s.outranked w e (u.frag e) || s.tooLate w (s.prospect w e) then .idle else s.prospect w e

/-- Whether the model runs the second slot's instruction of a pair first, so that it reads what the first slot's changes at
once (R63): CSRW, GROW, SHRINK, PROG; CSRR where it stands second; and FENCE, BAR or BARA beside a memory instruction, whose accesses are
not issued before it (R292, R296; notes/assumptions 143). -/
def runsSecondFirst (a b : Instr) : Bool :=
  let x := (Instr.opY a).1
  let y := (Instr.opY b).1
  x = 0x381 || x = 0x382 || x = 0x383 || x = 0x385 || y = 0x380 || (portOf x = 2 && (y = 0x282 || y = 0x283 || y = 0x289))

/-- The trap of a step that could not begin (R57). -/
def State.trapAt (s : State) (w : Who) (e : Nat) (t : TrapReq) : State :=
  match s.issuer w with
  | none => s
  | some u => s.markTrapped w e (u.frag e).pc t

/-- A pair whose step has begun and of which neither instruction has taken effect: what its marker has committed, and what has landed
before its step, stands (R59, R67, R68). -/
def State.pairBegun (s : State) (cur : Cur) (a b : Instr) : State :=
  match s.issuer cur.who with
  | none => s
  | some u =>
    match s.prologue cur.who u cur [(a, cur.pc), (b, Pc.advance cur.pc 1)] with
    | .ok s' => s'
    | _ => s

/-- Cycles of the arithmetic clock and nanoseconds of the time base pass (R133, R393). -/
def State.passTime (s : State) (cycles ns : Nat) : State := { s with cycles := s.cycles + cycles, tb := s.tb + ns }

/-- A block as `placeWord` needs one: it holds the array, names sixteen barriers and has nothing but its stream. -/
def Block.forWord (u : Issuer) : Block :=
  { stream := u, pot := 36, slot := 0, hdr := 0, array := true, bars := 16, bprog := 0, bprogBy := none, firstDouble := none, failed := [],
    exited := false, halted := false, idem := false, preq := false, pkind := 0, saves := 0, treat := .none, deadline := none,
    born := 0 }

/-- The state in which the next step runs the instruction whose words are `w` and `x` on core 0, in context 0 with the DEBUG
attribute: by the uniform stream of block 0 where only a stream has it (the forms of LAUNCH and JOIN at core level, the array
lane registers), else by gang 0. -/
def State.placeWord (s : State) (w x : IWord) : State :=
  let i := decodeRaw w x
  let stream := (i.legal (some .gang) (some 0)).isSome || (match i with
    | .launchCore _ _ => true
    | .joinCore _ _ => true
    | _ => false)
  let data : BitVec 512 := w.setWidth 512 ||| (x.setWidth 512 <<< 96) ||| (1 <<< 480)
  let g := { Issuer.fresh 0 0 with alloc := 32, frags := [(0, Frag.fresh 0 0xFFFFFFFF 0xFF)],
                                   m := (List.range 8).map (fun j => (j, 15)) }
  let t := { Issuer.fresh 0 1 with frags := [(0, Frag.fresh 0 0 1)] }
  { s with
    ctxs := s.ctxs.put 0 { Ctx.reset with st := .live, debug := true }
    cores := s.cores.put 0 { Core.reset with ctx := some 0, gangs := [(0, g)], blocks := [(0, Block.forWord t)] }
    lines := [{ place := .core 0, ctx := 0, line := 0, data := data, bad := none }]
    agenda := [.issue (if stream then .stream 0 0 else .gang 0 0) 0] }

end Sys2Proof.Machine
end

