-- ==== Sys2Proof/Machine/Die.lean ====
section
/-! DEFINITION. The die's services (R43, R374 to R403): line fetches, walks and the fault buffer with the host's resolutions, the
invalidation of translations, the error log, the scales and migration; and the SIGNAL packets that wait for a walk (R417). -/
namespace Sys2Proof.Machine

/-- The die of a place (R380). -/
def dieOf : Place → Nat
  | .core n => n / 64
  | .cluster n => n / 8
  | .die d => d
  | .package => 0

/-- The issuers at a place. -/
def State.issuersAt (s : State) : Place → List (Who × Issuer)
  | .core n =>
    (((s.core n).gangs.filter (fun g => g.1 < 32)).map (fun g => (Who.gang n g.1, g.2)))
      ++ (s.core n).blocks.map (fun b => (Who.stream n b.1, b.2.stream))
  | .cluster n => ((s.seqs.find (.clusterSeq n)).map (fun q => (Who.clusterSeq n, q.iss))).toList
  | .die n => ((s.seqs.find (.dieSeq n)).map (fun q => (Who.dieSeq n, q.iss))).toList
  | .package => ((s.seqs.find .packageSeq).map (fun q => (Who.packageSeq, q.iss))).toList

-- line fetches (R43)

/-- Whether the check bits of a line agree with its slots (R43). -/
def lineChecks (data : BitVec 512) : Bool :=
  ((List.range 30).foldl (fun (x : BitVec 16) i => x ^^^ data.extractLsb' (16 * i) 16) 0) == data.extractLsb' 496 16

/-- LINE_FETCH (R43, R44, R384): a line, whether fetched for the first time or anew, comes with the fault that its use raises: PERM or
KEYREV of its translation, which the error log keeps (R187, R390), FETCH where both copies fail their check or cannot be read. -/
def execLineFetch (pl : Place) (ctx line : Nat) (s : State) : Host.Outcome State Fault Refusal :=
  if !((s.issuersAt pl).any (fun u => u.2.ctx = ctx)) || 2 ^ 51 ≤ line || s.stopped then .next s
  else
    let put := fun (data : BitVec 512) (bad : Option Nat) =>
      let t := s.dropLine pl ctx line
      Host.Outcome.next { t with lines := { place := pl, ctx := ctx, line := line, data := data, bad := bad } :: t.lines }
    match s.translate (dieOf pl) ctx (64 * line) kFetch with
    | .wait => .next s
    | .bad c =>
      let t := (s.logDie (dieOf pl) (64 * line) ctx 2 1 c).dropLine pl ctx line
      .next { t with lines := { place := pl, ctx := ctx, line := line, data := 0, bad := some c } :: t.lines }
    | .ok pa =>
      let data : BitVec 512 := BitVec.ofNat 512 (ofBytes (s.pkgRead (s.keyOf ctx) pa 64))
      put data (if s.poisoned pa 64 || !(lineChecks data) then some 1 else none)

/-- Whether a place waits for a line (R43, R44): to issue from it, or for the target of a transfer. -/
def State.wantsLine (s : State) (pl : Place) (ctx line : Nat) : Bool :=
  (s.lineAt pl ctx line).isNone
    && (s.issuersAt pl).any (fun u => u.2.ctx = ctx && u.2.frags.any (fun f =>
      lineOf f.2.pc = line || ((f.2.st == FragSt.blocked || f.2.st == FragSt.faultParked)
        && (f.2.why == Why.fetch || f.2.why == Why.faultParked))))

-- SIGNAL packets (R417)

/-- A SIGNAL packet is performed, waits for its translation, or ends in a refusal (R417, R418), of which no error log keeps an address
(R419). -/
def State.performSignal (s : State) (seq : Nat) : State :=
  match s.packet seq with
  | none => s
  | some p =>
    if p.kind ≠ 4 || p.status.isSome then s
    else
      let va := (p.word 1).toNat
      let add := bitAt (p.word 0) 24
      if 2 ^ 57 ≤ va then s.packetDone seq 3 0x11 0
      else match s.translate 0 p.ctx va (if add then kAtomic else kWrite) with
        | .wait => s
        | .bad c => s.packetDone seq 3 c 0
        | .ok pa =>
          if add && s.poisoned pa 8 then s.packetDone seq 5 0x13 0
          else
            let key := s.keyOf p.ctx
            let old := if add then ofBytes (s.pkgRead key pa 8) else 0
            (s.pkgStore key pa (bytesOf ((old + (p.word 2).toNat) % 2 ^ 64) 8)).packetDone seq 0 0 0

-- who waits for a translation (R387)

/-- The address of a copy's first piece left on a page, on the side that an access kind names. -/
def Copy.missAt (c : Copy) (page kind : Nat) : Option Nat :=
  let todo := fun (m p : Nat) => !(c.done.contains (m, p)) && !(c.failed.any (fun x => x.1 = m))
  let ms := List.range c.dsts.length
  if kind = kRead then
    match c.src with
    | .virt _ _ a => (List.range c.pieces).findSome? (fun p =>
        if ms.any (fun m => todo m p) then ((c.runs p).find? (fun r => (a + r.1) / 4096 = page)).map (fun r => a + r.1) else none)
    | _ => none
  else
    match c.dsts with
    | .virt _ _ a :: _ => ((List.range c.pieces).find? (fun p => (a + c.dstOff p) / 4096 = page && todo 0 p)).map
        (fun p => a + c.dstOff p)
    | _ => none

/-- A fragment that waits, with its header still to be read: a launch that waits for the pool has read its own (R198, R200). -/
def Frag.readsHeader (f : Frag) : Bool :=
  let pool := fun (x : Wait) => match x with
    | .pool _ => true
    | .poolDone _ _ => true
    | _ => false
  (f.st == FragSt.blocked || f.st == FragSt.faultParked) && !pool f.wait && !pool f.wait2

/-- The host has denied the read of the header (R389); of a pair, the other instruction takes no notice. -/
def Frag.denyHeader (f : Frag) : Frag :=
  let deny := fun (x : Wait) => if x.isIdle then x else Wait.denied
  if f.readsHeader then { f with wait := deny f.wait, wait2 := deny f.wait2, st := .eligible } else f

/-- The header addresses of the core-level LAUNCH that a stream waits at (R192, R197). -/
def State.headersAt (s : State) (w : Who) : List Dword :=
  match s.issuer w with
  | none => []
  | some u => ((u.frags.filter (fun f => f.2.readsHeader)).map (fun f =>
      match s.lineAt w.place u.ctx (lineOf f.2.pc) with
      | none => []
      | some l =>
        let of := fun (i : Instr) => match i with
          | .launchCore _ f => [u.rdS f.se.toNat 0]
          | _ => []
        match slotsAt l.data (slotOf f.2.pc) with
        | .one a _ => of a
        | .two a b => of a ++ of b
        | .illegal => [])).flatten

/-- The lanes of a slice whose element, the current one or the next (R177), lies on a page and has not been fetched (R179). -/
def Ladle.waiting (l : Ladle) (slice n page : Nat) : List Nat :=
  match l.ahead n with
  | none => []
  | some k => (l.open_ slice n).filter (fun x => (k.addr x).toNat / 4096 = page)

/-- Whether a requester waits for the translation of a page of a context for an access kind by die `d` (R387). -/
def State.waitsOn (s : State) (d ctx page kind : Nat) (r : Requester) : Bool :=
  (s.tlbOf d ctx (4096 * page)).isNone && !(s.ctxOf ctx).revoked && (match r with
  | .lane core g n lane => core / 64 = d && (match s.issuer (.gang core g) with
    | none => false
    | some u => u.ctx = ctx && (match u.log.find n with
      | none => false
      | some e => e.space = 4 && e.kind.code = kind
          && e.accs.any (fun a => a.lane = lane && a.waits && a.ea.toNat / 4096 = page)))
  | .ladle core g slice q => core / 64 = d && kind = kRead && (match s.issuer (.gang core g) with
    | none => false
    | some u => u.ctx = ctx && (match u.ladles.find (8 * q + slice) with
      | none => false
      | some l => l.space = 4 && (List.range 2).any (fun n => (l.waiting slice n page).length ≠ 0)))
  | .line pl line => dieOf pl = d && kind = kFetch && line / 64 = page && s.wantsLine pl ctx line
  | .header w => w.die = d && kind = kRead && (s.issuer w).any (fun u => u.ctx = ctx)
      && (s.headersAt w).any (fun a => a.toNat / 4096 = page)
  | .insert id => kind = kRead && ((s.inserts.any (fun p => p.id = id && p.ctx = ctx && p.die = d && p.img.isNone && !p.bad
        && p.space = 4 && p.addr.toNat / 4096 = page))
      || s.pendArms.any (fun p => p.id = id && p.ctx = ctx && p.die = d && !p.stalled && !p.bad && p.space = 4
        && p.addr.toNat / 4096 = page))
  | .start p n => kind = kRead && (match (s.pot p).recs.find n with
    | none => false
    | some r => r.ctx = ctx && r.st == RecSt.taken && r.runner.any (fun w => w.die = d)
        && (s.headerAddr ctx r.img).toNat / 4096 = page)
  | .copy id => (match s.copyOf id with
    | none => false
    | some c => c.ctx = ctx && c.die = d && c.flying && (kind = kRead || kind = kWrite) && (c.missAt page kind).isSome)
  | .remote id => d = 0 && s.held.any (fun h => h.id = id && h.ctx = ctx && opKind h.msg.op = kind
      && (List.range h.msg.count).any (fun k => (h.base + h.msg.offset.toNat + k * 2 ^ h.msg.size) / 4096 = page))
  | .packet seq => d = 0 && (match s.packet seq with
    | none => false
    | some p => p.ctx = ctx && p.kind = 4 && p.status.isNone && (p.word 1).toNat / 4096 = page
        && kind = (if bitAt (p.word 0) 24 then kAtomic else kWrite))
  | .stop id => d = 0 && kind = kWrite && s.stops.any (fun x => x.id = id && x.ctx = ctx && x.va / 4096 = page)
  | .hint => false)

-- the fault buffer (R387, R388, R412)

/-- SRC of a fault record (R388). -/
def requesterSrc : Requester → Nat
  | .lane _ _ _ _ => 0
  | .ladle _ _ _ _ => 1
  | .line _ _ => 2
  | .header _ => 3
  | .insert _ => 3
  | .start _ _ => 3
  | .packet _ => 3
  | .stop _ => 3
  | .copy _ => 4
  | .remote _ => 5
  | .hint => 0

/-- The 32 bytes of a fault record (R388). -/
def FaultEnt.bytes (f : FaultEnt) (entry : Nat) : List Byte :=
  bytesOf (4096 * f.page) 8 ++ bytesOf f.ctx 2 ++ bytesOf (f.kind + 4 * f.flags) 1 ++ bytesOf f.src 1
    ++ bytesOf (65536 * f.gen + entry) 4 ++ bytesOf f.time.toNat 8 ++ bytesOf 0 8

/-- Entry `e` of die `d` is written to its context's fault ring, if the ring has room (R412). -/
def State.reportFault (s : State) (d e : Nat) : State :=
  match (s.die d).faults.find e with
  | none => s
  | some f =>
    let c := s.ctxOf f.ctx
    if f.reported || 2 ^ c.frsize ≤ (c.frwi - c.frrd).toNat then s
    else
      let s := s.sysStore (c.frbase + 32 * (c.frwi.toNat % 2 ^ c.frsize)) (f.bytes e)
      let s := s.updCtx f.ctx (fun c => { c with frwi := c.frwi + 1 })
      let s := s.updDie d (fun x => { x with faults := x.faults.put e { f with reported := true } })
      { s with msi := s.msi ++ [c.msiv] }

/-- Whether a fault of a page and an access kind is on record already, in an entry or with a walker that waits for one (R387). -/
def State.faulted (s : State) (d ctx page kind : Nat) : Bool :=
  (s.die d).faults.any (fun e => e.2.ctx = ctx && e.2.page = page && e.2.kind = kind)
    || (s.die d).held.any (fun h => h.1 = ctx && h.2.1 = page && h.2.2.1 % 4 = kind)

/-- A walk has ended in a fault for a requester (R387): it shares an entry, takes one, or keeps its walker. `kb` is the KIND byte. -/
def State.newFault (s : State) (d ctx page kb : Nat) (r : Requester) : State :=
  let x := s.die d
  match x.faults.find? (fun e => e.2.ctx = ctx && e.2.page = page && e.2.kind = kb % 4) with
  | some (e, f) =>
    if f.reqs.contains r then s
    else s.updDie d (fun x => { x with faults := x.faults.put e { f with reqs := f.reqs ++ [r] } })
  | none =>
    if 2048 ≤ x.faults.length then
      (if x.held.contains (ctx, page, kb, r) then s else s.updDie d (fun x => { x with held := x.held ++ [(ctx, page, kb, r)] }))
    else
      let e := ((List.range 2048).find? (fun n => (x.faults.find n).isNone)).getD 0
      let gen := (x.gens.get e 0 + 1) % 2 ^ 16
      let f : FaultEnt :=
        { ctx := ctx, page := page, kind := kb % 4, flags := kb / 4, src := requesterSrc r, gen := gen, time := BitVec.ofNat 64 s.tb,
          reqs := [r], reported := false, order := s.nextId }
      (({ s with nextId := s.nextId + 1 } : State).updDie d (fun x =>
        { x with faults := x.faults.put e f, gens := x.gens.put e gen })).reportFault d e

/-- An entry is freed: a walker that waits for one records its fault, with the requests that share it (R385, R387). -/
def State.freeFault (s : State) (d e : Nat) : State :=
  let s := s.updDie d (fun x => { x with faults := x.faults.drop e })
  match (s.die d).held with
  | [] => s
  | (ctx, page, kb, r) :: l =>
    let same := fun (h : Nat × Nat × Nat × Requester) => h.1 = ctx && h.2.1 = page && h.2.2.1 % 4 = kb % 4
    let s := (s.updDie d (fun x => { x with held := l.filter (fun h => !(same h)) })).newFault d ctx page kb r
    (l.filter same).foldl (fun s h => s.newFault d ctx page h.2.2.1 h.2.2.2) s

/-- The walkers of a die that are occupied: by a fault that waits for an entry, once for each page (R385, R387). -/
def Die.walkers (x : Die) : List (Nat × Nat) := (x.held.map (fun h => (h.1, h.2.1))).eraseDups

/-- A request of a peer, a packet or a STOP word goes on where its translation is there (R417, R442). -/
def State.goOn (s : State) (r : Requester) : State := match r with
  | .remote id => s.serveHeld id
  | .packet q => s.performSignal q
  | .stop _ => s.performStops
  | _ => s

/-- A walk for a requester (R385): the die caches the translation, which a request of a peer or a packet uses at once, or a
fault is recorded for what waits; a copy goes on under its firmware (R378, R453). -/
def State.walkFor (s : State) (d ctx page kind : Nat) (r : Requester) : State :=
  match s.pageWalk ctx (4096 * page) with
  | .page t =>
    (s.updDie d (fun x => { x with tlb := t :: x.tlb.filter (fun y => y != t) })).goOn r
  | .none level pois bad =>
    if !(s.waitsOn d ctx page kind r) then s
    else
      let s := if (pois || bad) && !(s.faulted d ctx page kind) then s.logDie d (4096 * page) ctx 9 6 0 else s
      let s := match r with
        | .copy id => (match s.copyOf id with
          | none => s
          | some c => s.toFirmware c ((c.missAt page kind).getD (4096 * page)))
        | _ => s
      s.newFault d ctx page (kind + 4 * b2n pois + 8 * b2n bad + 16 * level) r

/-- Whether a requester waits for the resolution of the fault that its walk has ended in (R387). -/
def State.awaits (s : State) (d ctx page kind : Nat) (r : Requester) : Bool :=
  (s.die d).faults.any (fun e => e.2.ctx = ctx && e.2.page = page && e.2.kind = kind && e.2.reqs.contains r)
    || (s.die d).held.any (fun h => h.1 = ctx && h.2.1 = page && h.2.2.1 % 4 = kind && h.2.2.2 = r)

/-- A request for a walk (R385): it is made where one of the 192 walkers is free, or walks the page already, and no other waits before
it; else it waits in arrival order. -/
def State.askWalk (s : State) (d ctx page kind : Nat) (r : Requester) : State :=
  let x := s.die d
  let me := (ctx, page, kind, r)
  let free := x.walkers.contains (ctx, page) || x.walkers.length < 192
  if free && (x.walkq.isEmpty || x.walkq.head? = some me || x.walkers.contains (ctx, page)) then
    (s.updDie d (fun x => { x with walkq := x.walkq.erase me })).walkFor d ctx page kind r
  else if x.walkq.contains me then s
  else s.updDie d (fun x => { x with walkq := x.walkq ++ [me] })

/-- WALK (R385): a request of a requester that does not wait for a resolution already; one whose translation is cached meanwhile goes on
with it; while the package is suspended nothing walks (R425). -/
def execWalk (d ctx page kind : Nat) (r : Requester) (s : State) : Host.Outcome State Fault Refusal :=
  if 4 ≤ d || s.stopped then .next s
  else
    let left := s.updDie d (fun x => { x with walkq := x.walkq.erase (ctx, page, kind, r) })
    if 3 < kind || 2 ^ 45 ≤ page || (s.ctxOf ctx).st != CtxSt.live || s.awaits d ctx page kind r then .next left
    else if (s.tlbOf d ctx (4096 * page)).isSome then .next (left.goOn r)
  else .next (s.askWalk d ctx page kind r)

/-- The live entry that a FID names (R388, R389): one whose record the host has been given (R412). -/
def State.faultOf (s : State) (d : Nat) (fid : BitVec 32) : Option (Nat × FaultEnt) :=
  match (s.die d).faults.find (bitsAt fid 0 11) with
  | none => none
  | some f => if f.gen = bitsAt fid 16 16 ∧ bitsAt fid 11 5 = 0 ∧ f.reported then some (bitsAt fid 0 11, f) else none

/-- A resolution that names no live entry is ignored and counted (R389). -/
def State.staleFid (s : State) (d : Nat) : State :=
  s.updDie d (fun x => { x with stale := BitVec.ofNat 16 (satAt 16 (x.stale.toNat + 1)) })

/-- FILL (R389): every requester of the entry walks again. -/
def State.fillFault (s : State) (d : Nat) (fid : BitVec 32) : State :=
  match s.faultOf d fid with
  | none => s.staleFid d
  | some (e, f) => f.reqs.foldl (fun s r => s.askWalk d f.ctx f.page f.kind r) (s.freeFault d e)

/-- Whether a gang's ladles have been stopped with its block: what they read is dropped, and read again after the restore (R181). -/
def State.ladleGone (s : State) (core g : Nat) : Bool :=
  256 ≤ core || (match s.issuer (.gang core g) with
    | none => true
    | some u => s.stoppedAt core u.blk)

/-- What a denial does to a requester (R178, R184, R333, R378, R389, R442); the UNMAPPED of a lane, a ladle element and a line is
logged (R187, R390). -/
def State.denyOne (s : State) (ctx page kind : Nat) : Requester → State
  | .lane core g n lane =>
    let hit := (((s.issuer (.gang core g)).bind (fun u => u.log.find n)).map (fun e => e.accs.filter (fun a => a.lane = lane && a.waits))).getD []
    (hit.foldl (fun s a => s.logDie (core / 64) a.ea.toNat ctx 0 1 0x15) s).updIssuer (.gang core g) (fun u =>
      (u.updLog n (fun e => { e with accs := e.accs.map (fun a =>
        if a.lane = lane && a.waits then { a with st := .failed 0x15 } else a) })).settle n)
  | .ladle core g slice q =>
    if s.ladleGone core g then s else
    let hit := (((s.issuer (.gang core g)).bind (fun u => u.ladles.find (8 * q + slice))).map (fun l =>
      (List.range 2).flatMap (fun n => (l.waiting slice n page).map (fun x =>
        ((l.ahead n).map (fun k => (k.addr x).toNat)).getD 0)))).getD []
    (hit.foldl (fun s a => s.logDie (core / 64) a ctx 1 1 0x15) s).updIssuer (.gang core g) (fun u => match u.ladles.find (8 * q + slice) with
      | none => u
      | some l =>
        let deny := fun (l : Ladle) (n : Nat) =>
          let bad := (l.waiting slice n page).map (fun x => (x, 0x15))
          if bad.isEmpty then l else l.gain n [] bad
        { u with ladles := u.ladles.put (8 * q + slice) ((List.range 2).foldl deny l) })
  | .line pl line =>
    let t := (s.logDie (dieOf pl) (64 * line) ctx 2 1 0x15).dropLine pl ctx line
    { t with lines := { place := pl, ctx := ctx, line := line, data := 0, bad := some 0x15 } :: t.lines }
  | .header w =>
    s.updIssuer w (fun u => { u with frags := u.frags.map (fun p =>
      (p.1, p.2.denyHeader)) })
  | .insert id =>
    { s with
      inserts := s.inserts.map (fun p => if p.id = id then { p with bad := true } else p)
      pendArms := s.pendArms.map (fun p => if p.id = id then { p with bad := true } else p) }
  | .start p n => s.failStart p n
  | .copy id => (match s.copyOf id with
    | none => s
    | some c => s.denyCopy c ((c.missAt page kind).getD (4096 * page)) 0x15)
  | .remote id => s.denyHeld id
  | .packet q => s.packetDone q 3 0x15 0
  | .stop id => ({ s with stops := s.stops.filter (fun x => x.id ≠ id) } : State).performStops
  | .hint => s

/-- DENY (R389): every requester of the entry that still waits fails. -/
def State.denyFault (s : State) (d : Nat) (fid : BitVec 32) : State :=
  match s.faultOf d fid with
  | none => s.staleFid d
  | some (e, f) =>
    f.reqs.foldl (fun s r => if s.waitsOn d f.ctx f.page f.kind r then s.denyOne f.ctx f.page f.kind r else s) (s.freeFault d e)

def execFill (d : Nat) (fid : BitVec 32) (s : State) : Host.Outcome State Fault Refusal :=
  if 4 ≤ d || s.stopped then .next s else .next (s.fillFault d fid)
def execDeny (d : Nat) (fid : BitVec 32) (s : State) : Host.Outcome State Fault Refusal :=
  if 4 ≤ d || s.stopped then .next s else .next (s.denyFault d fid)

/-- The resolution in the 16 bytes of FRES (R389, R411). -/
def State.resolve (s : State) (d : Nat) (lo : Dword) : State :=
  if s.stopped then s
  else if bitsAt lo 32 8 = 1 then s.fillFault d (lo.setWidth 32) else s.denyFault d (lo.setWidth 32)

-- invalidation (R386)

/-- The dies drop the cached translations that a command names; the command completes. -/
def State.invalidate (s : State) (p : Tlb → Bool) : State :=
  let s := (List.range 4).foldl (fun s d => s.updDie d (fun x => { x with tlb := x.tlb.filter (fun t => !(p t)) })) s
  { s with tinvDone := s.tinvDone + 1 }

def execTinvRange (ctx : Nat) (va : BitVec 64) (len : Nat) (s : State) : Host.Outcome State Fault Refusal :=
  .next (s.invalidate (fun t => t.ctx = ctx && t.va < va.toNat / 2 ^ len * 2 ^ len + 2 ^ len
    && va.toNat / 2 ^ len * 2 ^ len < t.va + 2 ^ t.size))
def execTinvContext (ctx : Nat) (s : State) : Host.Outcome State Fault Refusal := .next (s.invalidate (fun t => t.ctx = ctx))
def execTinvAll (s : State) : Host.Outcome State Fault Refusal := .next (s.invalidate (fun _ => true))

/-- A write of TINV1 (R386): the command in TINV0 and TINV1, which completes before another could find BUSY set. -/
def State.tinv (s : State) (lo hi : Dword) : State :=
  let ctx := bitsAt hi 0 11
  let mode := bitsAt hi 11 2
  if !(bitAt hi 63) || mode = 3 then s
  else if mode = 2 then s.invalidate (fun _ => true)
  else if mode = 1 then s.invalidate (fun t => t.ctx = ctx)
  else
    let len := bitsAt lo 0 6
    let va := 4096 * bitsAt lo 12 45 / 2 ^ len * 2 ^ len
    s.invalidate (fun t => t.ctx = ctx && t.va < va + 2 ^ len && va < t.va + 2 ^ t.size)

-- the error log (R390)

/-- ELPOP (R390, R402). -/
def execElpop (d : Nat) (s : State) : Host.Outcome State Fault Refusal :=
  if 4 ≤ d || (s.die d).elog.isEmpty then .next s
  else .next (s.updDie d (fun x => { x with elog := x.elog.drop 1, elHead := (x.elHead + 1) % 64 }))

-- the scales (R391, R392)

/-- The stockpot that number `n` names to the scales of a die. -/
def scPot (d : Nat) (dies : Bool) (n : Nat) : Nat := if dies then 32 + n else 8 * d + n

/-- Whether a record may be moved (R344, R391): waiting, eligible, not pinned, no reduction. -/
def State.movable (s : State) (p : Nat) (r : Rec) : Bool :=
  let own := fun (g : Nat) => 128 ≤ g && g / 16 % 8 = potLevel p
  s.eligibleRec r && !(own r.img.gate0) && !(own r.img.gate1)

/-- M(c) − F(c) (R391). -/
def State.surplus (s : State) (d : Nat) (dies : Bool) (n : Nat) : Int :=
  let p := scPot d dies n
  let m := ((s.pot p).recs.filter (fun r => s.movable p r.2)).length
  let f := if dies then ((List.range 8).filter (fun c => (s.seqs.find (.clusterSeq (8 * n + c))).isNone)).length
    else 32 - s.blocksOn (coresOf p)
  (m : Int) - f

/-- The records of a stockpot in the order of dispatch (R345). -/
def State.inOrder (s : State) (p : Nat) (rs : List (Nat × Rec)) : List (Nat × Rec) :=
  rs.foldl (fun l x => (l.takeWhile (fun y => s.before p y.2 x.2)) ++ x :: l.dropWhile (fun y => s.before p y.2 x.2)) []

/-- Whether a context may be placed at a stockpot's level (R355, R392): on its cluster, on some cluster of its die. -/
def State.placeable (s : State) (ctx p : Nat) : Bool :=
  if p < 32 then s.mayCluster ctx p else (List.range 8).any (fun c => s.mayCluster ctx (8 * (p - 32) + c))

/-- A command of `k` records is run (R392): it takes the movable ones that stand last. -/
def State.scCommand (s : State) (d : Nat) (dies : Bool) (src dst k : Nat) : State :=
  let p := scPot d dies src
  let rs := (s.pot p).recs.filter (fun r => s.movable p r.2 && s.placeable r.2.ctx (scPot d dies dst))
  let take := ((s.inOrder p rs).reverse.take k).map (fun r => r.2.order)
  s.updDie d (fun x => { x with migr := x.migr ++ [{ dies := dies, src := src, dst := dst, slots := take, waits := false }],
                                cmds := BitVec.ofNat 32 (satAt 32 (x.cmds.toNat + 1)) })

/-- A field of SCCFG, 0 acting as 1 (R392). -/
def scField (x : Dword) (lo n : Nat) : Nat := if bitsAt x lo n = 0 then 1 else bitsAt x lo n

/-- SCALES_PERIOD (R391, R392): a new period cancels the transfers that wait, and may issue a command. -/
def execScalesPeriod (d : Nat) (dies : Bool) (s : State) : Host.Outcome State Fault Refusal :=
  let x := s.die d
  let last := if dies then x.scPkgAt else x.scAt
  if 4 ≤ d || (dies && d ≠ 0) || s.stopped || s.tb < last + 1000 * scField x.sccfg 32 16 then .next s
  else
    let s := s.updDie d (fun x =>
      let x := { x with migr := x.migr.map (fun (m : Migr) =>
        if m.dies = dies && m.waits then { m with slots := m.slots.drop 1, waits := false } else m) }
      if dies then { x with scPkgAt := s.tb } else { x with scAt := s.tb })
    if !(bitAt x.sccfg 0) || (dies && !(bitAt x.sccfg 1)) then .next s
    else
      let ns := List.range (if dies then 4 else 8)
      let f := s.surplus d dies
      let src := ns.foldl (fun a n => if f a < f n then n else a) 0
      let dst := ns.foldl (fun a n => if f n < f a then n else a) 0
      let gap := f src - f dst
      if f src ≤ 0 ∨ gap < 2 * (scField x.sccfg 8 8 : Int) then .next s
      else .next (s.scCommand d dies src dst (Nat.min (scField x.sccfg 16 8) (gap.toNat / 2)))

/-- A write of SCCMD (R392). -/
def State.sccmd (s : State) (d : Nat) (v : Dword) : State :=
  let dies := bitAt v 16
  let src := bitsAt v 0 4
  let dst := bitsAt v 4 4
  let top := if dies then 3 else 7
  if !(bitAt v 63) ∨ src = dst ∨ top < src ∨ top < dst ∨ (dies ∧ d ≠ 0) then s
  else s.scCommand d dies src dst (bitsAt v 8 8)

def execSccmd (d : Nat) (v : BitVec 64) (s : State) : Host.Outcome State Fault Refusal :=
  if 4 ≤ d then .next s else .next (s.sccmd d v)

/-- MIGRATION (R348, R392): the next record of the command at the head is moved, skipped where it may not be moved any more, or waits
at a full destination. -/
def execMigration (d : Nat) (dies : Bool) (s : State) : Host.Outcome State Fault Refusal :=
  match (if s.stopped then none else (s.die d).migr.find? (fun m => m.dies = dies)) with
  | none => .next s
  | some m =>
    let set := fun (s : State) (l : List Nat) => s.updDie d (fun x =>
      { x with migr := if l.isEmpty then x.migr.erase m else x.migr.map (fun y => if y = m then { y with slots := l, waits := false } else y) })
    match m.slots with
    | [] => .next (set s [])
    | o :: rest =>
      let p := scPot d dies m.src
      let q := scPot d dies m.dst
      match (s.pot p).recs.find? (fun r => r.2.order = o) with
      | none => .next (set s rest)
      | some (n, r) =>
        if !(s.movable p r) then .next (set s rest)
        else
          let t := s.transfer p n q
          if ((t.pot p).recs.find n).isSome then
            .next (s.updDie d (fun x => { x with migr := x.migr.map (fun y => if y = m then { y with waits := true } else y) }))
          else .next ((set t rest).updDie d (fun x => { x with moved := BitVec.ofNat 32 (satAt 32 (x.moved.toNat + 1)) }))

end Sys2Proof.Machine
end

