-- ==== Sys2Proof/Machine/Context.lean ====
section
/-! DEFINITION. What ends of a context's work: blocks flushed or discarded (R313, R327), a context that faults (R327, R419) or is
destroyed (R408), and the completion rings (R419). -/
namespace Sys2Proof.Machine

-- completion rings

/-- Queue `q`; changed by `f`. -/
def State.queue (s : State) (q : Nat) : Queue := s.queues.get q Queue.reset
def State.updQueue (s : State) (q : Nat) (f : Queue → Queue) : State := { s with queues := s.queues.put q (f (s.queue q)) }

/-- The bytes of a completion record (R419). -/
def completionBytes (seq bytes status cause q tag addr : Nat) : List Byte :=
  bytesOf seq 8 ++ bytesOf bytes 8 ++ bytesOf status 1 ++ bytesOf cause 1 ++ bytesOf q 2 ++ bytesOf tag 4 ++ bytesOf addr 8

/-- A completion record is written to a queue's ring, and its vector raised (R415, R419). -/
def State.complete (s : State) (q seq : Nat) (bs : List Byte) : State :=
  let x := s.queue q
  let s := s.sysStore (4096 * bitsAt x.crbase 12 40 + 32 * (seq % 2 ^ x.crsize)) bs
  if x.msiv.testBit 15 then { s with msi := s.msi ++ [x.msiv % 2 ^ 15] } else s

-- blocks

/-- The issuers of a block: its stream and its gangs, also those gone with accesses still to be performed. -/
def State.issuersOf (s : State) (core slot : Nat) : List Who :=
  Who.stream core slot :: ((s.core core).gangs.filter (fun g => g.2.blk = slot)).map (fun g => Who.gang core g.1)

/-- Issuers and everything they have outstanding are gone: inserts that have not arrived, contributions, waits, requests, copies,
array work (R313). -/
def State.dropIssuers (s : State) (ws : List Who) : State :=
  let by_ := fun (p : PendIns) => ws.any (fun w => p.isOf w)
  let s := s.dropCopies (fun c => ws.contains c.who && c.packet.isNone && !c.gone)
  let owns := fun (o : ReqOwner) => match o with
    | .log n g _ => ws.contains (.gang n g)
    | .join w _ => ws.contains w
    | .insert id => s.inserts.any (fun p => p.id = id && by_ p)
    | .copy _ _ => false
    | .partial_ _ => false
  let asks := fun (r : Requester) => match r with
    | .lane n g _ _ => ws.contains (.gang n g)
    | .ladle n g _ _ => ws.contains (.gang n g)
    | .header w => ws.contains w
    | .insert id => s.inserts.any (fun p => p.id = id && by_ p)
    | _ => false
  let drop := fun (u : Issuer) => { u with stepping := u.stepping.filter (fun x => x.tag = 0 || !(ws.contains x.by_)) }
  -- the DSTEP of another issuer, or of a host port, whose target goes ends with it
  let s := ws.foldl (fun s w => match s.issuer w with
    | none => s
    | some u => u.stepping.foldl (fun s x => if x.tag ≠ 0 && ws.contains x.by_ then s else s.stepEnds w x.entry 3) s) s
  let s : State :=
    { s with
      reqs := s.reqs.filter (fun r => !(owns r.owner))
      dies := s.dies.map (fun d => (d.1, { d.2 with
        faults := d.2.faults.map (fun f => (f.1, { f.2 with reqs := f.2.reqs.filter (fun r => !(asks r)) }))
        held := d.2.held.filter (fun h => !(asks h.2.2.2)), walkq := d.2.walkq.filter (fun h => !(asks h.2.2.2)) }))
      inserts := s.inserts.filter (fun p => !(by_ p))
      pendArms := s.pendArms.filter (fun p => !(ws.any (fun w => p.isOf w)))
      pots := s.pots.map (fun p => (p.1, { p.2 with
        recs := p.2.recs.map (fun r => (r.1, { r.2 with contribs := r.2.contribs.filter (fun k => k.smask = 0 || !(ws.contains k.who)) }))
        groups := p.2.groups.map (fun g => (g.1, { g.2 with joiners := g.2.joiners.filter (fun j => match j with
          | .issuer w _ => !(ws.contains w)
          | .remote _ _ => true) })) }))
      cores := s.cores.map (fun p => (p.1, { p.2 with
        aq := p.2.aq.filter (fun o => !(ws.contains o.who))
        rows := p.2.rows.filter (fun r => !(ws.contains r.who))
        poolQ := p.2.poolQ.filter (fun q => !(ws.contains q.who))
        gangs := (p.2.gangs.filter (fun g => !(ws.contains (.gang p.1 g.1)))).map (fun g => (g.1, drop g.2))
        blocks := p.2.blocks.map (fun b => (b.1, { b.2 with stream := drop b.2.stream })) })) }
  ws.foldl State.forgetMember s

/-- A block is discarded with all that is its own (R313, R327). -/
def State.discardBlock (s : State) (core slot : Nat) : State :=
  let s := s.dropIssuers (s.issuersOf core slot)
  let s := s.dropCopies (fun c => c.home = some (core, slot))
  s.freeBlock core slot

/-- A record goes back from RUNNING to WAITING as it stood at dispatch, sealed by flush (R313, R351). -/
def State.unrun (s : State) (p n : Nat) : State :=
  s.updRec p n (fun r => { r with st := .waiting, runner := none, sealed := some .flush })

/-- A block is flushed (R313). -/
def State.flushBlock (s : State) (core slot : Nat) : State :=
  match s.block core slot with
  | none => s
  | some b => (s.discardBlock core slot).unrun b.pot b.slot

/-- Whether nothing of a block is in progress that a flush or a save lets come to its end first (R237, R313, R316): a segment of a
copy, an accepted row. -/
def State.settled (s : State) (core slot : Nat) : Bool :=
  (s.copies.all (fun c => c.home ≠ some (core, slot) || c.atBoundary))
    && (s.core core).rows.all (fun r => !((s.issuersOf core slot).contains r.who))

/-- A core whose blocks have all gone under a pre-emption is free (R318). -/
def State.testFree (s : State) (n : Nat) : State :=
  let c := s.core n
  if c.preempt.isSome && c.blocks.isEmpty then s.updCore n (fun c => { c with preempt := none, ctx := none }) else s

/-- The blocks of a core whose flush has waited are flushed when they can be (R313). -/
def State.finishFlush (s : State) (n : Nat) : State :=
  ((s.core n).blocks.foldl (fun s b => if b.2.treat == Treat.flush && s.settled n b.1 then s.flushBlock n b.1 else s) s).testFree n

/-- COPY_PIECE (R215, R216, R365, R378, R453); a flush that has waited for the piece is made. -/
def execCopyPiece (id p m : Nat) (s : State) : Host.Outcome State Fault Refusal :=
  let t := s.copyPiece id p m
  match (s.copyOf id).bind (fun c => c.home) with
  | none => .next t
  | some h => .next (t.finishFlush h.1)

/-- ROW_PERFORMED (R237); a flush that has waited for the row is made. -/
def execRowPerformed (core row : Nat) (s : State) : Host.Outcome State Fault Refusal :=
  .next ((s.performRow core row).finishFlush core)

-- contexts

/-- All work of a context is discarded (R327, R408): its blocks on every core and in every image, its sequencers' runs, its records,
inserts, arms, copies, fault-buffer entries, the requests of peers and stores to STOP words that wait for it; what it owns has no owner, its barriers gone with it (R359, R379). Packets not
yet final are CANCELLED (R419). -/
def State.discardContext (s : State) (ctx : Nat) : State :=
  let mine := (s.seqs.filter (fun q => q.2.iss.ctx = ctx)).map (fun q => q.1)
  let s := s.cores.foldl (fun s c => c.2.blocks.foldl (fun s b => if b.2.stream.ctx = ctx then s.discardBlock c.1 b.1 else s) s) s
  let s := s.dropIssuers mine
  let s := s.dropCopies (fun c => c.ctx = ctx)
  let gone := s.inserts.filter (fun p => p.ctx = ctx)
  let owner := fun (o : Option Nat) => if o = some ctx then none else o
  let s : State :=
    { s with
      seqs := s.seqs.filter (fun q => q.2.iss.ctx ≠ ctx)
      cores := (s.cores.filter (fun c => c.1 < 256 || c.2.ctx ≠ some ctx)).map (fun c =>
        (c.1, if c.2.ctx = some ctx then { c.2 with ctx := none, preempt := none } else c.2))
      clusters := s.clusters.map (fun c => (c.1, ⟨owner c.2.owner⟩))
      dies := s.dies.map (fun d => (d.1, { d.2 with
        owner := owner d.2.owner, arms := d.2.arms.filter (fun a => a.2.ctx ≠ ctx)
        held := d.2.held.filter (fun h => h.1 ≠ ctx), walkq := d.2.walkq.filter (fun h => h.1 ≠ ctx) }))
      bars := s.bars.filter (fun b => match b.1 with
        | .die d _ => !((s.die d).owner = some ctx) && d / 4 != ctx + 1
        | .cluster c _ => !(s.clusterOwner c = some ctx)
        | _ => true)
      lines := s.lines.filter (fun l => l.ctx ≠ ctx)
      inserts := s.inserts.filter (fun p => p.ctx ≠ ctx)
      pendArms := s.pendArms.filter (fun p => p.ctx ≠ ctx)
      reqs := s.reqs.filter (fun r => match r.owner with
        | .insert id => !(gone.any (fun p => p.id = id))
        | .partial_ n => !(((s.pot 36).recs.find n).any (fun r => r.ctx = ctx))
        | _ => true)
      pots := s.pots.map (fun p => (p.1, { p.2 with
        recs := p.2.recs.filter (fun r => r.2.ctx ≠ ctx), groups := p.2.groups.filter (fun g => g.1.1 ≠ ctx) }))
      images := s.images.filter (fun i => i.ctx ≠ ctx)
      held := s.held.filter (fun h => h.ctx ≠ ctx)
      stops := s.stops.filter (fun x => x.ctx ≠ ctx)
      packets := s.packets.map (fun p => if p.ctx = ctx && p.status.isNone then { p with status := some 6 } else p) }
  -- the entries of the fault buffers, freed one by one for the walkers that wait
  (List.range 4).foldl (fun s d =>
    ((s.die d).faults.filter (fun f => f.2.ctx = ctx)).foldl (fun s f => s.freeFault d f.1) s) s

/-- A context faults (R327): its work is discarded, the address is logged, and every enabled queue of the context gets the error
response (R419) and is disabled, its context being no longer LIVE (R408). -/
def State.faultContext (s : State) (ctx addr : Nat) : State :=
  let s := s.discardContext ctx
  let s := s.updCtx ctx (fun c => { c with st := .faulted })
  let s := s.logPkg addr ctx 12 9 0
  let s : State := { s with msi := s.msi ++ [(s.ctxOf ctx).msiv] }
  let t := s.queues.foldl (fun s q =>
    if q.2.en && q.2.ctx = ctx then s.complete q.1 (2 ^ 64 - 1) (completionBytes (2 ^ 64 - 1) 0 4 0 q.1 0 addr) else s) s
  { t with queues := t.queues.map (fun q => (q.1, if q.2.ctx = ctx then { q.2 with en := false } else q.2)) }

end Sys2Proof.Machine
end

