-- ==== Sys2Proof/Machine/Control.lean ====
section
/-! DEFINITION. Control: group 3 (R90 to R99, R116 to R122), the reserved opcodes (R55) and the return from a handler
(R125). -/
namespace Sys2Proof.Machine

/-- The state once a checked target has failed: the fetch that failed is made anew next time (R44). -/
def State.forgetTarget (s : State) (c : Cx) (t : Dword) : State :=
  if bitsAt t 57 7 = 0 then s.dropLine c.who.place c.u.ctx (lineOf (t.setWidth 57)) else s

/-- A transfer (R44, R90, R91, R116): every target is checked before any effect; `eff` is what else it does where it is
taken. -/
def transfer (op : Nat) (f : BFmt) (eff : Cx → List Nat → State → State) (c : Cx) (s : State) : Res :=
  let ts := c.targets op f
  match s.checkTargets c.who c.u.ctx (ts.map (fun p => p.2)) with
  | (.wait w, _) => .stall w s
  | (.bad n, t) => .trap (c.fault n 0 t) (if n = 2 then s else s.forgetTarget c t)
  | (.ok, _) =>
    let dest := c.slices.map (fun j => (j, match ts.find? (fun p => p.1 = j) with
      | some p => p.2.setWidth 57
      | none => c.cur.next))
    .moved ((eff c (ts.map (fun p => p.1)) s).updIssuer c.who (fun u => u.goTo c.entry dest))

/-- A transfer without other effect. -/
def plainTransfer (op : Nat) (f : BFmt) : Cx → State → Res := transfer op f (fun _ _ s => s)

/-- NOP (R116). -/
def execNop (h : Hdr) (f : BFmt) (s : State) : Host.Outcome State Fault Refusal := issue (.nop h f) h (fun _ s => .ok s) s

def execBra (h : Hdr) (f : BFmt) (s : State) : Host.Outcome State Fault Refusal := issue (.bra h f) h (plainTransfer 0x0C1 f) s
def execBrc (h : Hdr) (f : BFmt) (s : State) : Host.Outcome State Fault Refusal := issue (.brc h f) h (plainTransfer 0x0C2 f) s
def execBrz (h : Hdr) (f : BFmt) (s : State) : Host.Outcome State Fault Refusal := issue (.brz h f) h (plainTransfer 0x0C3 f) s
def execBrnz (h : Hdr) (f : BFmt) (s : State) : Host.Outcome State Fault Refusal := issue (.brnz h f) h (plainTransfer 0x0C4 f) s
def execBrvAny (h : Hdr) (f : BFmt) (s : State) : Host.Outcome State Fault Refusal := issue (.brvAny h f) h (plainTransfer 0x0C5 f) s
def execBrvAll (h : Hdr) (f : BFmt) (s : State) : Host.Outcome State Fault Refusal := issue (.brvAll h f) h (plainTransfer 0x0C6 f) s

/-- BRL (R117). -/
def execBrl (h : Hdr) (f : BFmt) (s : State) : Host.Outcome State Fault Refusal := issue (.brl h f) h (plainTransfer 0x0C7 f) s

/-- CALL (R118): the link register holds the PC of the next slot where the call is taken. -/
def execCall (h : Hdr) (f : BFmt) (s : State) : Host.Outcome State Fault Refusal :=
  issue (.call h f) h (transfer 0x0C8 f (fun c js s =>
    c.fixed 1 (js.map (fun j => (j, Tgt.s j f.sl.toNat ((Pc.advance c.cur.at_ 1).setWidth 64)))) s)) s

/-- RET (R118). -/
def execRet (h : Hdr) (f : BFmt) (s : State) : Host.Outcome State Fault Refusal := issue (.ret h f) h (plainTransfer 0x0C9 f) s

/-- REGANG (R93, R94, R120): the slices where the guard is true park as one fragment. What its partner in a pair has on its way to them
lands too: a parked fragment has nothing pending (R95; notes/assumptions 144). The other slices keep what they have pending (R92). -/
def execRegang (h : Hdr) (f : BFmt) (s : State) : Host.Outcome State Fault Refusal :=
  issue (.regang h f) h (fun c s =>
    let dest := c.slices.map (fun j => (j, if c.pass.contains j then c.cur.at_ else c.cur.next))
    .moved ((s.updIssuer c.who (fun u =>
      let u := u.goTo c.entry dest
      let mine := if c.fr.isDbg then some c.entry else u.entryOf c.low
      match mine with
      | none => u
      | some e => (u.landFixed c.pass c.fr.isDbg).updFrag e (fun f =>
          { f with pc := c.cur.at_, st := .parked, why := .barrier, wait := .regang }))).regang c.who)) s

/-- The table a trap has set aside no longer holds slices that have ended in its handler (R80, R99); the full
SMASK stays that of the entry (notes/assumptions 160: DEDUCED). -/
def TrapSave.without (v : TrapSave) (js : List Nat) : TrapSave :=
  let f := v.frags.get v.entry Frag.none
  let rest := f.slices.filter (fun j => !(js.contains j))
  { v with
    frags := if rest.isEmpty then v.frags.drop v.entry
      else v.frags.put v.entry { f with smask := BitVec.ofNat 8 (maskOf rest), lmask := f.lmask &&& lanesOf rest }
    flights := v.flights.filter (fun f => f.dbg || !(js.contains f.slice)) }

/-- The slices `js` of a gang's fragment end (R99, R120): their results are discarded, the rest keep the entry, with its AGE and
step count. -/
def Issuer.exitSlices (u : Issuer) (c : Cx) (js : List Nat) : Issuer :=
  if c.fr.isDbg then
    { u.freeFrag c.entry with
      haltPc := u.haltPc.drop (laneOf c.fr.lmask)
      flights := u.flights.filter (fun f => !(f.dbg))
      saved := u.saved.map (fun v => { v with frags := v.frags.drop v.entry, flights := v.flights.filter (fun f => !(f.dbg)) }) }
  else
    let u := { u with flights := u.flights.filter (fun f => f.dbg || !(js.contains f.slice)),
                      saved := u.saved.map (fun (v : TrapSave) => v.without js) }
    let rest := c.slices.filter (fun j => !(js.contains j))
    if rest.isEmpty then u.freeFrag c.entry
    else u.updFrag c.entry (fun f =>
      { f with pc := c.cur.next, st := .eligible, why := .none, wait := .none, wait2 := .none, entryCheck := false, held := [], smask := BitVec.ofNat 8 (maskOf rest), lmask := f.lmask &&& lanesOf rest })

/-- EXIT (R99, R120): it ends slices of a gang, the stream, or the run of a sequencer's record. An arrival that waited for the last
slices of a gang is made (R97); a DSTEP of what ends has run the EXIT's own step (R278). -/
def execExit (h : Hdr) (f : BFmt) (s : State) : Host.Outcome State Fault Refusal :=
  issue (.exit h f) h (fun c s =>
    match c.who with
    | .gang n g =>
      let s := (s.updIssuer c.who (fun u => u.exitSlices c c.pass)).regang c.who
      .moved (match s.issuer c.who with
        | none => s
        | some u =>
          let s := s.regather c.who u.liveSlices
          if u.empty then ((s.countStep c.who c.entry).stepEnds c.who c.entry 3).removeGang n g else s)
    | .stream n b => .moved (((s.countStep c.who c.entry).stepEnds c.who c.entry 3).endStream n b)
    | .clusterSeq _ => .moved (s.endSeq c.who 0 0)
    | .dieSeq _ => .moved (s.endSeq c.who 0 0)
    | .packageSeq => .moved (s.endSeq c.who 0 0)) s

/-- The fragment of an instruction splits, a true guard counting as taken, and all of it stands at the next PC (R91, R122). -/
def Cx.splitOff (c : Cx) (s : State) : State :=
  let dest := c.slices.map (fun j => (j, if c.pass.contains j then c.cur.at_ else c.cur.next))
  s.updIssuer c.who (fun u =>
    let u := u.goTo c.entry dest
    u.updFrag (if c.fr.isDbg then c.entry else (u.entryOf c.low).getD c.entry) (fun f => { f with pc := c.cur.next }))

/-- TRAP (R122): its step is complete; the slices where the guard is true trap, the others stand behind it. -/
def execTrap (h : Hdr) (f : BFmt) (s : State) : Host.Outcome State Fault Refusal :=
  issue (.trap h f) h (fun c s => .after (c.fault 6 0 (BitVec.ofNat 64 (f.disp.toNat % 2 ^ 16))) (c.splitOff s)) s

/-- YIELD (R121): no effect in a sequencer. The window counts the cycle of the YIELD itself and the next sixteen. -/
def execYield (h : Hdr) (f : BFmt) (s : State) : Host.Outcome State Fault Refusal :=
  issue (.yield h f) h (fun c s =>
    if c.who.isSeq then .ok s
    else .ok (s.updIssuer c.who (fun u => u.updFrag c.entry (fun f => { f with yieldLeft := 17 })))) s

/-- TRAPRET (R125, R186): where `.next` names the slot after the step at TEPC, that step's line has to be at hand; the halts that
the marker there still owes are taken (R271). A guard true in some slices returns all (notes/assumptions 161: DEDUCED). -/
def execTrapret (h : Hdr) (f : DFmt) (s : State) : Host.Outcome State Fault Refusal :=
  issue (.trapret h f) h (fun c s =>
    let nxt := bitAt f.imm 0
    let epc := c.u.tepc.setWidth 57
    let e := match c.u.saved with
      | none => 0
      | some v => v.entry
    let resumed := match c.u.saved with
      | none => s
      | some v => match v.ins with
        | none => s.ageInserts c.who false
        | some id => s.resumeInsert c.who id nxt
    if nxt then
      match s.lineAt c.who.place c.u.ctx (lineOf epc) with
      | none => .stall .fetch s
      | some l => .back e (resumed.updIssuer c.who (fun u => u.trapReturn (Pc.advance epc (stepSlots l.data epc)) true) |>.takeHeld c.who e)
    else .back e (resumed.updIssuer c.who (fun u => u.trapReturn epc false))) s

/-- A word whose opcode is unassigned (R55): the prologue raises ILLEGAL. -/
def execReservedOpcode (w : IWord) (s : State) : Host.Outcome State Fault Refusal :=
  issue (.reservedOpcode w) (Hdr.mk (w.getLsbD 85) (w.extractLsb' 80 5)) (fun c s => .trap (c.fault 3 0 0) s) s

end Sys2Proof.Machine
end

