-- ==== Sys2Proof/Machine/Scalar.lean ====
section
/-! DEFINITION. Slice-uniform arithmetic: groups 0 and 1 (R53, R108 to R113). -/
namespace Sys2Proof.Machine

/-- `opnd` of R108: the low w bits, signed or unsigned by type. -/
def opnd (ty : Nat) (x : Dword) : Int :=
  if ty < 4 then signedAt (tyBits ty) x.toNat else ((x.toNat % 2 ^ tyBits ty : Nat) : Int)

/-- `wr` of R108: reduced modulo 2^w and extended to 64 bits by type. -/
def wr (ty : Nat) (r : Int) : Dword :=
  let n := (r % ((2 ^ tyBits ty : Nat) : Int)).toNat
  if ty < 4 then BitVec.ofInt 64 (signedAt (tyBits ty) n) else BitVec.ofNat 64 n

/-- imm32 as the second source (R52, R108). -/
def imm64 (ty : Nat) (imm : Word) : Dword := if ty < 4 then imm.signExtend 64 else imm.setWidth 64

/-- The second source in slice `j` (R108). -/
def Cx.srcB (c : Cx) (f : SFmt) (j : Nat) : Dword := if f.i then imm64 f.ty.toNat f.imm else c.s f.sb j

/-- An exact result of both operands at the type width (R109). -/
def sInt (op : Int → Int → Int) (f : SFmt) (c : Cx) (s : State) : Res :=
  .ok (c.putS f.sd (fun j => wr f.ty.toNat (op (opnd f.ty.toNat (c.s f.sa j)) (opnd f.ty.toNat (c.srcB f j)))) s)

/-- A bitwise result of both operands (R109). -/
def sBits (op : Dword → Dword → Dword) (f : SFmt) (c : Cx) (s : State) : Res :=
  .ok (c.putS f.sd (fun j => wr f.ty.toNat ((op (c.s f.sa j) (c.srcB f j)).toNat : Int)) s)

/-- A result of the low w bits and the unreduced second source (R111). -/
def sShift (op : Nat → Nat → Nat → Nat) (f : SFmt) (c : Cx) (s : State) : Res :=
  let w := tyBits f.ty.toNat
  .ok (c.putS f.sd (fun j => wr f.ty.toNat ((op w ((c.s f.sa j).toNat % 2 ^ w) (c.srcB f j).toNat : Nat) : Int)) s)

/-- A result that is not extended (R109, R112). -/
def sPlain (op : Nat → Nat → Dword) (f : SFmt) (c : Cx) (s : State) : Res :=
  let w := tyBits f.ty.toNat
  .ok (c.putS f.sd (fun j => op w ((c.s f.sa j).toNat % 2 ^ w)) s)

/-- The quotient rounded toward zero; all ones for a zero divisor (R110). -/
def divT (a b : Int) : Int := if b = 0 then -1 else Int.tdiv a b

/-- The remainder of that quotient; the dividend for a zero divisor (R110). -/
def remT (a b : Int) : Int := if b = 0 then a else Int.tmod a b

/-- Shifts of a w-bit operand by an amount that is not reduced (R111). -/
def shlW (w x n : Nat) : Nat := if w ≤ n then 0 else x * 2 ^ n
def shrW (w x n : Nat) : Nat := if w ≤ n then 0 else x / 2 ^ n
def sarW (w x n : Nat) : Nat :=
  if w ≤ n then (if x.testBit (w - 1) then 2 ^ w - 1 else 0)
  else if x.testBit (w - 1) then x / 2 ^ n + (2 ^ w - 2 ^ (w - n)) else x / 2 ^ n

/-- The bits [pos+wid-1:pos] of `x`, extended by type (R112, R144). -/
def fieldOf (signed : Bool) (x pos wid : Nat) : Int :=
  if signed then signedAt wid (x / 2 ^ pos) else ((x / 2 ^ pos % 2 ^ wid : Nat) : Int)

/-- `d` with its bits [pos+wid-1:pos] replaced by the low bits of `a` (R112, R144). -/
def insertField (d a pos wid : Nat) : Nat :=
  d % 2 ^ pos + a % 2 ^ wid * 2 ^ pos + d / 2 ^ (pos + wid) * 2 ^ (pos + wid)

/-- The integer conditions (R113): 0 to 5. -/
def condInt (aux : Nat) (a b : Int) : Bool :=
  if aux = 0 then a == b
  else if aux = 1 then a != b
  else if aux = 2 then decide (a < b)
  else if aux = 3 then decide (a ≤ b)
  else if aux = 4 then decide (b < a)
  else decide (b ≤ a)

def execSadd (h : Hdr) (f : SFmt) (s : State) : Host.Outcome State Fault Refusal := issue (.sadd h f) h (sInt (fun a b => a + b) f) s
def execSsub (h : Hdr) (f : SFmt) (s : State) : Host.Outcome State Fault Refusal := issue (.ssub h f) h (sInt (fun a b => a - b) f) s
def execSmul (h : Hdr) (f : SFmt) (s : State) : Host.Outcome State Fault Refusal := issue (.smul h f) h (sInt (fun a b => a * b) f) s
def execSmulh (h : Hdr) (f : SFmt) (s : State) : Host.Outcome State Fault Refusal :=
  issue (.smulh h f) h (sInt (fun a b => a * b / ((2 ^ tyBits f.ty.toNat : Nat) : Int)) f) s
def execSdiv (h : Hdr) (f : SFmt) (s : State) : Host.Outcome State Fault Refusal := issue (.sdiv h f) h (sInt divT f) s
def execSrem (h : Hdr) (f : SFmt) (s : State) : Host.Outcome State Fault Refusal := issue (.srem h f) h (sInt remT f) s
def execSand (h : Hdr) (f : SFmt) (s : State) : Host.Outcome State Fault Refusal := issue (.sand h f) h (sBits (fun a b => a &&& b) f) s
def execSor (h : Hdr) (f : SFmt) (s : State) : Host.Outcome State Fault Refusal := issue (.sor h f) h (sBits (fun a b => a ||| b) f) s
def execSxor (h : Hdr) (f : SFmt) (s : State) : Host.Outcome State Fault Refusal := issue (.sxor h f) h (sBits (fun a b => a ^^^ b) f) s
def execSandn (h : Hdr) (f : SFmt) (s : State) : Host.Outcome State Fault Refusal := issue (.sandn h f) h (sBits (fun a b => a &&& ~~~b) f) s
def execSshl (h : Hdr) (f : SFmt) (s : State) : Host.Outcome State Fault Refusal := issue (.sshl h f) h (sShift shlW f) s
def execSshr (h : Hdr) (f : SFmt) (s : State) : Host.Outcome State Fault Refusal := issue (.sshr h f) h (sShift shrW f) s
def execSsar (h : Hdr) (f : SFmt) (s : State) : Host.Outcome State Fault Refusal := issue (.ssar h f) h (sShift sarW f) s
def execSmin (h : Hdr) (f : SFmt) (s : State) : Host.Outcome State Fault Refusal := issue (.smin h f) h (sInt (fun a b => min a b) f) s
def execSmax (h : Hdr) (f : SFmt) (s : State) : Host.Outcome State Fault Refusal := issue (.smax h f) h (sInt (fun a b => max a b) f) s

/-- SMOV (R109). -/
def execSmov (h : Hdr) (f : SFmt) (s : State) : Host.Outcome State Fault Refusal :=
  issue (.smov h f) h (fun c s =>
    .ok (c.putS f.sd (fun j => wr f.ty.toNat (opnd f.ty.toNat (if f.i then imm64 f.ty.toNat f.imm else c.s f.sa j))) s)) s

/-- SLI (R53). -/
def execSli (h : Hdr) (f : SFmt) (ext : IWord) (s : State) : Host.Outcome State Fault Refusal :=
  issue (.sli h f ext) h (fun c s => .ok (c.putS f.sd (fun _ => ext.extractLsb' 0 32 ++ f.imm) s)) s

def execSpopc (h : Hdr) (f : SFmt) (s : State) : Host.Outcome State Fault Refusal :=
  issue (.spopc h f) h (sPlain (fun w a => BitVec.ofNat 64 (popCount a w)) f) s
def execSclz (h : Hdr) (f : SFmt) (s : State) : Host.Outcome State Fault Refusal :=
  issue (.sclz h f) h (sPlain (fun w a => BitVec.ofNat 64 (leadingZeros a w)) f) s
def execSbfx (h : Hdr) (f : SFmt) (s : State) : Host.Outcome State Fault Refusal :=
  issue (.sbfx h f) h (sPlain (fun _ a => BitVec.ofInt 64 (fieldOf (f.ty.toNat < 4) a f.pos.toNat f.wid.toNat)) f) s

/-- SBFI (R112): the destination is the third source. -/
def execSbfi (h : Hdr) (f : SFmt) (s : State) : Host.Outcome State Fault Refusal :=
  issue (.sbfi h f) h (fun c s =>
    let w := tyBits f.ty.toNat
    .ok (c.putS f.sd (fun j => wr f.ty.toNat
      ((insertField ((c.s f.sd j).toNat % 2 ^ w) (c.s f.sa j).toNat f.pos.toNat f.wid.toNat : Nat) : Int)) s)) s

def execSlea (h : Hdr) (f : SFmt) (s : State) : Host.Outcome State Fault Refusal :=
  issue (.slea h f) h (sInt (fun a b => a + b * ((2 ^ f.pos.toNat : Nat) : Int)) f) s

/-- SCMP (R113). -/
def execScmp (h : Hdr) (f : SFmt) (s : State) : Host.Outcome State Fault Refusal :=
  issue (.scmp h f) h (fun c s =>
    .ok (c.fixed 1 (c.pass.map (fun j => (j, Tgt.c j f.cx.toNat
      (condInt f.aux.toNat (opnd f.ty.toNat (c.s f.sa j)) (opnd f.ty.toNat (c.srcB f j)))))) s)) s

/-- SSEL (R113). -/
def execSsel (h : Hdr) (f : SFmt) (s : State) : Host.Outcome State Fault Refusal :=
  issue (.ssel h f) h (fun c s => .ok (c.putS f.sd (fun j => if c.c f.cx j then c.s f.sa j else c.srcB f j) s)) s

end Sys2Proof.Machine
end

