-- ==== Sys2Proof/Machine/Transc.lean ====
section
/-! DEFINITION. 2^a, log2 a, sin πa and cos πa, correctly rounded to FP32 (R150). Values that are not exact are computed
to 512 fraction bits and rounded from there (notes/assumptions 10: DEDUCED that no FP32 operand lies nearer to a rounding
boundary). -/
namespace Sys2Proof.Machine

/-- Fraction bits of the fixed-point values below. -/
def fxBits : Nat := 512

/-- One in fixed point. -/
def fxOne : Nat := 2 ^ fxBits

/-- Σ x^i / i! for i from `k` on, `t` being the term before (fixed point). -/
def expSum (x : Nat) : Nat → Nat → Nat → Nat
  | 0, _, _ => 0
  | n + 1, k, t =>
    let u := t * x / fxOne / k
    u + expSum x n (k + 1) u

/-- e^x for x in [0, 1). -/
def fxExp (x : Nat) : Nat := fxOne + expSum x 120 1 fxOne

/-- Σ ± x^(2i+1) / (2i+1)! from term `k` on, signs alternating. -/
def sinSum (x2 : Nat) : Nat → Nat → Nat → Int → Int
  | 0, _, _, _ => 0
  | n + 1, k, t, sg =>
    let u := t * x2 / fxOne / (k * (k + 1))
    sg * u + sinSum x2 n (k + 2) u (-sg)

/-- sin x for x in [0, π/2]. -/
def fxSin (x : Nat) : Int := x + sinSum (x * x / fxOne) 70 2 x (-1)

/-- Σ z^(2i+1) / (2i+1) from i = 0: the terms that `t`, the power of z, still gives. -/
def atanhSum (z2 : Nat) : Nat → Nat → Nat → Nat
  | 0, _, _ => 0
  | n + 1, k, t => t / k + atanhSum z2 n (k + 2) (t * z2 / fxOne)

/-- artanh z for z in [0, 1/3]. -/
def fxAtanh (z : Nat) : Nat := atanhSum (z * z / fxOne) 170 1 z

/-- ln 2 = 2 artanh (1/3). -/
def fxLn2 : Nat := 2 * fxAtanh (fxOne / 3)

/-- arctan (1/n): Σ ± (1/n)^(2i+1) / (2i+1). -/
def atanSum (n2 : Nat) : Nat → Nat → Nat → Int → Int
  | 0, _, _, _ => 0
  | n + 1, k, t, sg => sg * (t / k : Nat) + atanSum n2 n (k + 2) (t / n2) (-sg)

/-- π by Machin's formula. -/
def fxPi : Nat :=
  (16 * atanSum 25 120 1 (fxOne / 5) 1 - 4 * atanSum (239 * 239) 40 1 (fxOne / 239) 1).toNat

/-- A fixed-point value that is not exact, rounded to FP32. -/
def fxRound (rnd : Nat) (neg : Bool) (x : Nat) (e : Int) : Nat × Nat :=
  roundFp 9 rnd false neg (2 * x + 1) (e - fxBits - 1)

/-- The flags of a NaN operand. -/
def nanOf (sig : Bool) : Nat × Nat := nanOut 9 (if sig then fNV else 0)

/-- 2^a (R150). -/
def fExp2 (rnd : Nat) (a : Val) : Nat × Nat :=
  match a with
  | .nan sig => nanOf sig
  | .inf n => if n then (0, 0) else (infCode 9 false, 0)
  | .fin n m e =>
    if m = 0 then (signed 9 false 0x3F800000, 0)
    else if 10 ≤ e + (bitLen m : Int) then roundFp 9 rnd false false 3 (if n then -400 else 400)
    else
      let fx : Int := scaledInt n m (e + fxBits) 0
      let i := fx / fxOne
      let fr := (fx % fxOne).toNat
      if fr = 0 then roundFp 9 rnd false false 1 i else fxRound rnd false (fxExp (fr * fxLn2 / fxOne)) i

/-- log2 a (R150). -/
def fLog2 (rnd : Nat) (a : Val) : Nat × Nat :=
  match a with
  | .nan sig => nanOf sig
  | .inf n => if n then nanOut 9 fNV else (infCode 9 false, 0)
  | .fin n m e =>
    if m = 0 then (infCode 9 true, fDZ)
    else if n then nanOut 9 fNV
    else
      let b := bitLen m - 1
      let i : Int := e + b
      if m = 2 ^ b then roundVal 9 rnd (i < 0) i.natAbs 0
      else
        let fr := m * 2 ^ (fxBits - b)
        let z := (fr - fxOne) * fxOne / (fr + fxOne)
        let x : Int := i * fxOne + (2 * fxAtanh z * fxOne / fxLn2 : Nat)
        fxRound rnd (x < 0) x.natAbs 0

/-- sin (πt) for a fixed-point t in [0, 2), not a multiple of 1/2: its sign and magnitude. -/
def fxSinPi (t : Nat) : Bool × Nat :=
  let neg : Bool := fxOne ≤ t
  let u := if neg then t - fxOne else t
  let v := if fxOne < 2 * u then fxOne - u else u
  (neg, (fxSin (v * fxPi / fxOne)).toNat)

/-- |a| modulo 2 in fixed point. -/
def fxMod2 (m : Nat) (e : Int) : Nat :=
  if 2 ≤ e then 0 else (scaledInt false m (e + fxBits) 0).toNat % (2 * fxOne)

/-- sin (πa) (R150): the zero of an integer has the sign of its operand. -/
def fSinPi (rnd : Nat) (a : Val) : Nat × Nat :=
  match a with
  | .nan sig => nanOf sig
  | .inf _ => nanOut 9 fNV
  | .fin n m e =>
    let t := fxMod2 m e
    if t % fxOne = 0 then (signed 9 n 0, 0)
    else if 2 * t % fxOne = 0 then (signed 9 (n != decide (fxOne < t)) 0x3F800000, 0)
    else
      let r := fxSinPi t
      fxRound rnd (n != r.1) r.2 0

/-- cos (πa) (R150). -/
def fCosPi (rnd : Nat) (a : Val) : Nat × Nat :=
  match a with
  | .nan sig => nanOf sig
  | .inf _ => nanOut 9 fNV
  | .fin _ m e =>
    let t := fxMod2 m e
    if t % fxOne = 0 then (signed 9 (decide (t = fxOne)) 0x3F800000, 0)
    else if 2 * t % fxOne = 0 then (0, 0)
    else
      let r := fxSinPi ((t + fxOne / 2) % (2 * fxOne))
      fxRound rnd r.1 r.2 0

end Sys2Proof.Machine
end

