-- ==== Sys2Proof/Machine/VFloat.lean ====
section
/-! DEFINITION. Vector floating point: group 5 (R146 to R151), visible after 4 steps, the transcendentals after 12
(R64). -/
namespace Sys2Proof.Machine

/-- A result of the operands as values, rounded in the mode of rnd (R146). -/
def vFp (lat : Nat) (op : Nat → Nat → Val → Val → Val → Nat × Nat) (f : VFmt) (c : Cx) (s : State) : Res :=
  let ty := f.ty.toNat
  c.vElems f lat (fun a b d _ => op ty f.rnd.toNat (decodeFp ty a) (decodeFp ty b) (decodeFp ty d)) s

/-- One code of a format is 1.0. -/
def fOne : Val := .fin false 1 0

/-- A number code as an integer in the order of its values; with `zeros`, −0 lies below +0 (R147, R148). -/
def fpKey (ty : Nat) (zeros : Bool) (x : Nat) : Int :=
  let mag := x % 2 ^ (fpWidth ty - 1)
  if x.testBit (fpWidth ty - 1) then -(mag : Int) - b2n zeros else mag

/-- The lesser or greater operand (R147). -/
def fMinMax (isMax : Bool) (ty a b : Nat) : Nat × Nat :=
  let x := decodeFp ty a
  let y := decodeFp ty b
  let fl := x.sig ||| y.sig
  if x.isNaN then (if y.isNaN then canonNaN ty else b, fl)
  else if y.isNaN then (a, fl)
  else if isMax then (if fpKey ty true a < fpKey ty true b then b else a, fl)
  else (if fpKey ty true b < fpKey ty true a then b else a, fl)

/-- A comparison (R148): its truth and flags. -/
def fCompare (ty aux a b : Nat) : Bool × Nat :=
  let x := decodeFp ty a
  let y := decodeFp ty b
  let uo := x.isNaN || y.isNaN
  let sg := x.sig ||| y.sig
  let ka := fpKey ty false a
  let kb := fpKey ty false b
  if aux = 0 then (!uo && ka == kb, sg)
  else if aux = 1 then (uo || ka != kb, sg)
  else if aux = 6 then (uo, sg)
  else if aux = 7 then (!uo, sg)
  else (!uo && condInt aux ka kb, if uo then fNV else 0)

/-- The class of an operand as a bit number (R149). -/
def fClass (ty x : Nat) : Nat :=
  let neg := x.testBit (fpWidth ty - 1)
  match decodeFp ty x with
  | .nan sig => if sig then 8 else 9
  | .inf n => if n then 0 else 7
  | .fin _ m _ =>
    if m = 0 then (if neg then 3 else 4)
    else if m < 2 ^ fracBits ty then (if neg then 2 else 5)
    else if neg then 1 else 6

/-- 1/√a (R150). -/
def fRsqrt (ty rnd : Nat) (a : Val) : Nat × Nat :=
  match a with
  | .nan sig => nanOut ty (if sig then fNV else 0)
  | .inf n => if n then nanOut ty fNV else (0, 0)
  | .fin n m e =>
    if m = 0 then (infCode ty n, fDZ) else if n then nanOut ty fNV else rsqrtFin ty rnd m e

/-- An integral value of the same format (R151); `quiet` raises no NX. -/
def fIntegral (quiet : Bool) (ty rnd : Nat) (a : Val) : Nat × Nat :=
  match a with
  | .nan sig => nanOut ty (if sig then fNV else 0)
  | .inf n => (infCode ty n, 0)
  | .fin n m e =>
    let r := toIntegral rnd n m e
    ((roundVal ty 0 n r.1.natAbs 0).1, if r.2 && !quiet then fNX else 0)

/-- a × 2^n (R151): beyond the clamp every result overflows or underflows alike. -/
def fScale (ty rnd : Nat) (a : Val) (n : Int) : Nat × Nat :=
  match a with
  | .nan sig => nanOut ty (if sig then fNV else 0)
  | .inf g => (infCode ty g, 0)
  | .fin g m e => roundVal ty rnd g m (e + max (-5000) (min 5000 n))

def execVfadd (h : Hdr) (f : VFmt) (s : State) : Host.Outcome State Fault Refusal :=
  issue (.vfadd h f) h (vFp 4 (fun ty rnd a b _ => fAdd ty rnd a b) f) s
def execVfsub (h : Hdr) (f : VFmt) (s : State) : Host.Outcome State Fault Refusal :=
  issue (.vfsub h f) h (vFp 4 (fun ty rnd a b _ => fAdd ty rnd a b.neg) f) s
def execVfmul (h : Hdr) (f : VFmt) (s : State) : Host.Outcome State Fault Refusal :=
  issue (.vfmul h f) h (vFp 4 (fun ty rnd a b _ => fMul ty rnd a b) f) s
def execVfma (h : Hdr) (f : VFmt) (s : State) : Host.Outcome State Fault Refusal := issue (.vfma h f) h (vFp 4 fFma f) s
def execVfms (h : Hdr) (f : VFmt) (s : State) : Host.Outcome State Fault Refusal :=
  issue (.vfms h f) h (vFp 4 (fun ty rnd a b d => fFma ty rnd a b d.neg) f) s
def execVfnma (h : Hdr) (f : VFmt) (s : State) : Host.Outcome State Fault Refusal :=
  issue (.vfnma h f) h (vFp 4 (fun ty rnd a b d => fFma ty rnd a.neg b d) f) s
def execVfmin (h : Hdr) (f : VFmt) (s : State) : Host.Outcome State Fault Refusal :=
  issue (.vfmin h f) h (fun c s => c.vElems f 4 (fun a b _ _ => fMinMax false f.ty.toNat a b) s) s
def execVfmax (h : Hdr) (f : VFmt) (s : State) : Host.Outcome State Fault Refusal :=
  issue (.vfmax h f) h (fun c s => c.vElems f 4 (fun a b _ _ => fMinMax true f.ty.toNat a b) s) s

/-- VFCMP (R148). -/
def execVfcmp (h : Hdr) (f : VFmt) (s : State) : Host.Outcome State Fault Refusal :=
  issue (.vfcmp h f) h (fun c s =>
    c.vec 4 (fun l =>
      let r := fCompare f.ty.toNat f.aux.toNat (c.vraw f.ty.toNat f.va.toNat l) ((c.vb f l).getD 0 0)
      { tgts := [bitTgt l f.vd.toNat r.1], flags := r.2 ||| immFlags f, fmt := [] }) s) s

/-- VFCLASS (R149): a single register for both types. -/
def execVfclass (h : Hdr) (f : VFmt) (s : State) : Host.Outcome State Fault Refusal :=
  issue (.vfclass h f) h (fun c s =>
    c.vec 4 (fun l =>
      { tgts := [laneTgt l f.vd.toNat (2 ^ fClass f.ty.toNat (c.vraw f.ty.toNat f.va.toNat l))], flags := 0, fmt := [] }) s) s

def execVrcp (h : Hdr) (f : VFmt) (s : State) : Host.Outcome State Fault Refusal :=
  issue (.vrcp h f) h (vFp 12 (fun ty rnd a _ _ => fDiv ty rnd fOne a) f) s
def execVrsq (h : Hdr) (f : VFmt) (s : State) : Host.Outcome State Fault Refusal :=
  issue (.vrsq h f) h (vFp 12 (fun ty rnd a _ _ => fRsqrt ty rnd a) f) s
def execVsqrt (h : Hdr) (f : VFmt) (s : State) : Host.Outcome State Fault Refusal :=
  issue (.vsqrt h f) h (vFp 12 (fun ty rnd a _ _ => fSqrt ty rnd a) f) s
def execVdiv (h : Hdr) (f : VFmt) (s : State) : Host.Outcome State Fault Refusal :=
  issue (.vdiv h f) h (vFp 12 (fun ty rnd a b _ => fDiv ty rnd a b) f) s
def execVexp2 (h : Hdr) (f : VFmt) (s : State) : Host.Outcome State Fault Refusal :=
  issue (.vexp2 h f) h (vFp 12 (fun _ rnd a _ _ => fExp2 rnd a) f) s
def execVlog2 (h : Hdr) (f : VFmt) (s : State) : Host.Outcome State Fault Refusal :=
  issue (.vlog2 h f) h (vFp 12 (fun _ rnd a _ _ => fLog2 rnd a) f) s
def execVsin (h : Hdr) (f : VFmt) (s : State) : Host.Outcome State Fault Refusal :=
  issue (.vsin h f) h (vFp 12 (fun _ rnd a _ _ => fSinPi rnd a) f) s
def execVcos (h : Hdr) (f : VFmt) (s : State) : Host.Outcome State Fault Refusal :=
  issue (.vcos h f) h (vFp 12 (fun _ rnd a _ _ => fCosPi rnd a) f) s
def execVfrnd (h : Hdr) (f : VFmt) (s : State) : Host.Outcome State Fault Refusal :=
  issue (.vfrnd h f) h (vFp 4 (fun ty rnd a _ _ => fIntegral false ty rnd a) f) s
def execVftrunc (h : Hdr) (f : VFmt) (s : State) : Host.Outcome State Fault Refusal :=
  issue (.vftrunc h f) h (vFp 4 (fun ty _ a _ _ => fIntegral true ty 1 a) f) s

/-- VFSCALE (R151): n is an INT32, from a single register or the immediate as it stands. -/
def execVfscale (h : Hdr) (f : VFmt) (s : State) : Host.Outcome State Fault Refusal :=
  issue (.vfscale h f) h (fun c s =>
    c.vec 4 (fun l =>
      let ty := f.ty.toNat
      let n := if f.i then f.imm.toInt else (c.v1 f.vb.toNat l).toInt
      let r := fScale ty f.rnd.toNat (decodeFp ty (c.vraw ty f.va.toNat l)) n
      { tgts := vdTgts ty f.vd.toNat l r.1, flags := r.2, fmt := [] }) s) s

end Sys2Proof.Machine
end

