-- ==== Sys2Proof/Machine/Cross.lean ====
section
/-! DEFINITION. Quad and cross-lane instructions: group 7 (R156 to R162), visible after six steps (R64). -/
namespace Sys2Proof.Machine

/-- What source lane `l` contributes: its value where it belongs to the fragment's slices, else zero (R156). -/
def Cx.xsrc (c : Cx) (f : VFmt) (l : Nat) : Nat := if c.inside l then c.vraw f.ty.toNat f.va.toNat l else 0

/-- Each active lane receives a value of type ty, with flags. -/
def xMove (f : VFmt) (g : Nat → Nat × Nat) (c : Cx) (s : State) : Res :=
  c.vec 6 (fun l => { tgts := vdTgts f.ty.toNat f.vd.toNat l (g l).1, flags := (g l).2, fmt := [] }) s

/-- Each active lane receives the value of a source lane. -/
def xFrom (f : VFmt) (src : Cx → Nat → Nat) (c : Cx) (s : State) : Res :=
  xMove f (fun l => (c.xsrc f (src c l), 0)) c s

def execQswap (h : Hdr) (f : VFmt) (s : State) : Host.Outcome State Fault Refusal :=
  issue (.qswap h f) h (xFrom f (fun _ l => l ^^^ (f.aux.toNat + 1))) s
def execQbcast (h : Hdr) (f : VFmt) (s : State) : Host.Outcome State Fault Refusal :=
  issue (.qbcast h f) h (xFrom f (fun _ l => l / 4 * 4 + f.sel.toNat)) s

/-- The source lane of VSHFL (R159): the lane itself where the source lies outside 0 to 31. -/
def shflSrc (mode l d : Nat) : Nat :=
  if mode = 0 then d
  else if mode = 1 then (if d ≤ l then l - d else l)
  else if mode = 2 then (if l + d < 32 then l + d else l)
  else l ^^^ d

def execVshfl (h : Hdr) (f : VFmt) (s : State) : Host.Outcome State Fault Refusal :=
  issue (.vshfl h f) h (xFrom f (fun c l =>
    let d := if f.i then f.imm.toNat
      else if pairTy f.ty.toNat then (c.v2 f.vb.toNat l).toNat else (c.v1 f.vb.toNat l).toNat
    shflSrc f.aux.toNat l (d % 32))) s

def execVbcast (h : Hdr) (f : VFmt) (s : State) : Host.Outcome State Fault Refusal :=
  issue (.vbcast h f) h (xFrom f (fun c l =>
    if f.i then f.imm.toNat % 32 else (c.s (f.vb.setWidth 6) (l / 4)).toNat % 32)) s

/-- The operators of VRED and VSCAN (R160): result and flags. A float sum leaves the other summand of −0 as it is in every mode, +0
under `.rdn` among them. -/
def redOp (ty aux rnd a b : Nat) : Nat × Nat :=
  if 8 ≤ ty then
    let nz := signed ty true 0
    if aux = 0 then
      (if (a = nz ∧ b = 0) ∨ (a = 0 ∧ b = nz) then (0, 0) else fAdd ty rnd (decodeFp ty a) (decodeFp ty b))
    else fMinMax (aux == 2) ty a b
  else
    let x := elemInt ty a
    let y := elemInt ty b
    if aux = 0 then (wrapW (tyBits ty) (x + y), 0)
    else if aux = 1 then (wrapW (tyBits ty) (min x y), 0)
    else if aux = 2 then (wrapW (tyBits ty) (max x y), 0)
    else if aux = 3 then (a &&& b, 0)
    else if aux = 4 then (a ||| b, 0)
    else (a ^^^ b, 0)

/-- Their identities (R160). -/
def redIdent (ty aux : Nat) : Nat :=
  let w := tyBits ty
  if 8 ≤ ty then (if aux = 0 then signed ty true 0 else infCode ty (aux == 2))
  else if aux = 1 then wrapW w (intMax (ty < 4) w)
  else if aux = 2 then wrapW w (intMin (ty < 4) w)
  else if aux = 3 then 2 ^ w - 1
  else 0

/-- One level of the tree of R160: neighbours combined, flags gathered. -/
def redLevel (op : Nat → Nat → Nat × Nat) : List Nat → List Nat × Nat
  | a :: b :: r =>
    let x := op a b
    let t := redLevel op r
    (x.1 :: t.1, x.2 ||| t.2)
  | l => (l, 0)

/-- The tree of R160. -/
def redTree (op : Nat → Nat → Nat × Nat) : Nat → List Nat × Nat → List Nat × Nat
  | 0, p => p
  | n + 1, p =>
    let r := redLevel op p.1
    redTree op n (r.1, p.2 ||| r.2)

/-- VRED (R160): every active lane presents the flags of all steps (notes/assumptions 163: DEDUCED). -/
def execVred (h : Hdr) (f : VFmt) (s : State) : Host.Outcome State Fault Refusal :=
  issue (.vred h f) h (fun c s =>
    let ty := f.ty.toNat
    let aux := f.aux.toNat
    let act := c.act
    let xs := (List.range 32).map (fun l => if act.contains l then c.xsrc f l else redIdent ty aux)
    let r := redTree (redOp ty aux f.rnd.toNat) 5 (xs, 0)
    xMove f (fun _ => (r.1.headD 0, r.2)) c s) s

/-- The running results of VSCAN over the active lanes in order (R161): lane, what it is given, and the flags of the step
that gave it (notes/assumptions 162: DEDUCED). -/
def scanOut (op : Nat → Nat → Nat × Nat) (excl : Bool) : List (Nat × Nat) → Nat → Nat → Nat → List (Nat × Nat × Nat)
  | [], _, _, _ => []
  | (l, x) :: r, run, given, fl =>
    let y := op run x
    (if excl then (l, given, fl) else (l, y.1, y.2)) :: scanOut op excl r y.1 y.1 y.2

/-- VSCAN (R161): an exclusive sum begins with +0. An inclusive `.min` or `.max` folds from the identity of R160, as VRED does
(notes/assumptions 147: DEDUCED). -/
def execVscan (h : Hdr) (f : VFmt) (s : State) : Host.Outcome State Fault Refusal :=
  issue (.vscan h f) h (fun c s =>
    let ty := f.ty.toNat
    let aux := f.aux.toNat
    let id := redIdent ty aux
    let out := scanOut (redOp ty aux f.rnd.toNat) (f.sel.toNat % 2 = 1) (c.act.map (fun l => (l, c.xsrc f l)))
      id (if aux = 0 then 0 else id) 0
    xMove f (fun l => (out.find? (fun p => p.1 = l)).map (fun p => p.2) |>.getD (0, 0)) c s) s

/-- VBALLOT (R162): written also where no lane is active. -/
def execVballot (h : Hdr) (f : VFmt) (s : State) : Host.Outcome State Fault Refusal :=
  issue (.vballot h f) h (fun c s =>
    let v := maskOf (c.act.filter (fun l => c.v1 f.va.toNat l != 0))
    .ok (c.fixed 6 (c.pass.map (fun j => (j, Tgt.s j (f.vd.toNat % 64) (BitVec.ofNat 64 v)))) s)) s

/-- VELECT (R162). -/
def execVelect (h : Hdr) (f : VFmt) (s : State) : Host.Outcome State Fault Refusal :=
  issue (.velect h f) h (fun c s =>
    let act := c.act
    c.vec 6 (fun l =>
      { tgts := [bitTgt l f.vd.toNat (!(act.any (fun k => k < l && c.xsrc f k == c.xsrc f l)))], flags := 0, fmt := [] }) s) s

/-- VCOMPACT (R162). -/
def execVcompact (h : Hdr) (f : VFmt) (s : State) : Host.Outcome State Fault Refusal :=
  issue (.vcompact h f) h (fun c s =>
    let m := c.m f.vc.toNat
    let act := c.act
    let take := act.filter (fun l => m.getLsbD l)
    let pairs := act.zip take
    c.vec 6 (fun l =>
      { tgts := match pairs.find? (fun p => p.1 = l) with
          | none => []
          | some p => vdTgts f.ty.toNat f.vd.toNat l (c.xsrc f p.2)
        flags := 0, fmt := [] }) s) s

end Sys2Proof.Machine
end

