-- ==== Sys2Proof/Machine/Preempt.lean ====
section
/-! DEFINITION. Pre-emption (R310 to R317), saved images of cores, clusters and dies (R318 to R326, R355 to R357, R374 to R376), and
their restore (R325 to R327). The saved state of a core stands in the tables of the model under the number of a core that no
package has. -/
namespace Sys2Proof.Machine

-- requests and decisions

/-- PRCFG of a context as a request of a cycle meets it (R320): without the writes of that cycle. -/
def Ctx.prcfgAt (c : Ctx) (cycle : Nat) : Dword :=
  match c.prcfgWas with
  | none => c.prcfg
  | some w => if w.1 = cycle then w.2 else c.prcfg

/-- DRAIN_MIN, FLUSH_MAX, BUDGET of PRCFG (R320). -/
def drainMin (prcfg : Dword) : Nat := bitsAt prcfg 48 16
def flushMax (prcfg : Dword) : Nat := bitsAt prcfg 32 16
def budgetOf (prcfg : Dword) : Nat := bitsAt prcfg 16 16

/-- HALT of a block (R273, R312): a lane of it halted or in a fragment in STATE 5, the block halted, or a debug fragment that holds
a lane. -/
def State.blockHalt (s : State) (core slot : Nat) (b : Block) : Bool :=
  let stopped := fun (u : Issuer) => u.tables.any (fun p => p.2.st == FragSt.halted)
  b.halted || stopped b.stream
    || ((s.core core).gangsOf slot).any (fun g => !g.2.haltPc.isEmpty || g.2.dbgFrag.isSome || stopped g.2)

/-- The treatment of a block under a request of a kind (R312); a suspend saves every block (R425). -/
def State.treatment (s : State) (core slot kind : Nat) (b : Block) : Treat :=
  let c := (s.ctxOf b.stream.ctx).prcfgAt s.cycles
  let done := if b.exited then 0xFFFF else b.bprog.toNat
  if kind = 2 || s.blockHalt core slot b then .save
  else if b.idem && done < flushMax c then .flush
  else if kind ≤ 1 && 0 < budgetOf c && drainMin c ≤ done then .drain
  else .save

/-- What stops with an issuer of a block that is saved (R135, R316): a waiting GROW or launch is asked again on resume, a parked IDLE
goes on at its following step, and what its ladles have fetched ahead is discarded. -/
def Issuer.stop (u : Issuer) : Issuer :=
  let stopped := fun (x : Wait) => match x with
    | .pool _ => Wait.none
    | .idle _ => .woken
    | y => y
  let wait := fun (f : Frag) =>
    if stopped f.wait = f.wait && stopped f.wait2 = f.wait2 then f
    else { f with wait := stopped f.wait, wait2 := stopped f.wait2, st := if f.st == FragSt.blocked then .eligible else f.st }
  let go := fun (t : Tab Nat Frag) => t.map (fun p => (p.1, wait p.2))
  { u with
    frags := go u.frags, saved := u.saved.map (fun v => { v with frags := go v.frags })
    ladles := u.ladles.map (fun l => (l.1, { l.2 with got := [] })) }

/-- A block is to be saved: its issuers stop between two steps (R315, R316). -/
def State.stopBlock (s : State) (core slot : Nat) : State :=
  let ws := s.issuersOf core slot
  let s := s.updCore core (fun c =>
    { c with
      poolQ := c.poolQ.filter (fun q => !(ws.contains q.who))
      gangs := c.gangs.map (fun g => (g.1, if g.2.blk = slot then g.2.stop else g.2)) })
  s.updBlock core slot (fun b => { b with treat := .save, preq := false, deadline := none, stream := b.stream.stop })

/-- A block under a request for which no decision has been made yet (R312 to R315). -/
def State.treatBlock (s : State) (core slot kind : Nat) : State :=
  match s.block core slot with
  | none => s
  | some b =>
    let s := s.updBlock core slot (fun b => { b with pkind := kind })
    match s.treatment core slot kind b with
    | .none => s
    | .save => s.stopBlock core slot
    | .drain =>
      s.updBlock core slot (fun b =>
        { b with treat := .drain, preq := true, deadline := some (s.tb + 1000 * budgetOf ((s.ctxOf b.stream.ctx).prcfgAt s.cycles)) })
    | .flush => (s.updBlock core slot (fun b => { b with treat := .flush }))

/-- A request reaches a core (R310, R312): one that is already being pre-empted takes the union of the two. -/
def State.requestPreempt (s : State) (core kind : Nat) : State :=
  let c := s.core core
  if c.blocks.isEmpty then s
  else
    match c.preempt with
    | none =>
      let s := s.updCore core (fun c => { c with preempt := some kind, switched := false })
      (c.blocks.foldl (fun s b => s.treatBlock core b.1 kind) s).finishFlush core
    | some k =>
      let k' := Nat.max k kind
      let s := s.updCore core (fun c =>
        { c with preempt := some k', blocks := c.blocks.map (fun b => (b.1, { b.2 with pkind := k' })) })
      if 2 ≤ kind then c.blocks.foldl (fun s b => if b.2.treat == Treat.drain then s.stopBlock core b.1 else s) s else s

-- what asks for a pre-emption

/-- The records of the urgent band that wait for a die (R310, R346), each with its stockpot: those of blocks, and those of sequencers that
need the owner's cores pre-empted. -/
def State.urgent (s : State) (d ctx : Nat) : List (Nat × Rec) :=
  (((List.range 8).map (fun k => 8 * d + k)) ++ [32 + d, 36]).flatMap (fun p =>
    ((s.pot p).recs.filter (fun r =>
      r.2.ctx ≠ ctx && s.eligibleRec r.2 && 120 ≤ r.2.img.prio && (r.2.img.tlevel = 1
        || (r.2.img.tlevel = 2 && p = 32 + d && s.needsCluster r.2.ctx d)
        || (r.2.img.tlevel = 3 && s.needsDie r.2.ctx d)))).map (fun r => (p, r.2)))

/-- The urgent record that is served first (R311): the highest effective priority, then the oldest. -/
def State.firstUrgent (s : State) (d ctx : Nat) : Option Rec :=
  ((s.urgent d ctx).foldl (fun (m : Option (Nat × Rec)) x => match m with
    | none => some x
    | some y => if s.before x.1 x.2 y.2 then some x else some y) none).map (fun x => x.2)

/-- Whether a context's images for a die wait until the die passes to it (R357): its die image comes first, and the die is another's. -/
def State.dieHolds (s : State) (d x : Nat) : Bool :=
  (s.die d).owner.any (fun o => o ≠ x) && s.savedFor x (fun w => match w with
    | .die n _ => n = d
    | _ => false)

/-- Whether a context does without core `core`: a free core of the die is there for it, one that what it has waiting may come to, in a
cluster that it may use (R310, R311, R355, R357). -/
def State.freeFor (s : State) (core x : Nat) : Bool :=
  let d := core / 64
  !(s.needs x core) && (dieCores d).any (fun n => s.coreFree n && (if s.dieHolds d x then s.comes x n else s.brings x n)
    && (match s.clusterOwner (n / 8) with
      | none => !(s.dieHolds d x) || s.mayCluster x (n / 8)
      | some o => o = x))

/-- The context for which the rotation of a die takes core `n` from `ctx` (R311): in increasing number after the one last served, one
that waits for the core and that no free core would do for. -/
def State.nextServed (s : State) (n ctx : Nat) : Option Nat :=
  let last := (s.die (n / 64)).lastServed
  ((List.range 2048).map (fun i => (last + 1 + i) % 2048)).find? (fun x =>
    x ≠ ctx && (s.ctxOf x).st == CtxSt.live && s.reaches x n && !(s.freeFor n x))

/-- A core is pre-empted for another context (R310, R311). -/
def State.preemptFor (s : State) (core kind ctx : Nat) : State :=
  ((s.updCore core (fun c => { c with forCtx := some ctx })).updDie (core / 64) (fun x => { x with lastServed := ctx })).requestPreempt
    core kind

/-- PREEMPT_REQUEST (R310): for an urgent record of another context where no core of the die is free, under a suspend, or by a
command of the host. -/
def execPreemptRequest (core kind : Nat) (s : State) : Host.Outcome State Fault Refusal :=
  if 256 ≤ core then .next s
  else match (s.core core).ctx with
  | none => .next s
  | some x =>
    let d := core / 64
    if kind = 1 then
      (match s.firstUrgent d x with
        | none => .next s
        | some r => .next (if s.freeFor core r.ctx || !(s.reaches r.ctx core) then s else s.preemptFor core 1 r.ctx))
    else if kind = 2 then .next (if s.suspst = 1 then s.requestPreempt core 2 else s)
    else if kind = 3 then .next (s.requestPreempt core 3)
    else .next s

/-- QUANTUM_EXPIRY (R311): the core is pre-empted where another context waits and no core of the die is free, for urgent work first;
otherwise the quantum starts again. -/
def execQuantumExpiry (core : Nat) (s : State) : Host.Outcome State Fault Refusal :=
  let c := s.core core
  if 256 ≤ core || c.preempt.isSome || c.blocks.isEmpty then .next s
  else match c.ctx with
  | none => .next s
  | some x =>
    if s.tb < c.since + 1000 * (s.ctxOf x).quantum then .next s
    else
      let urgent := match s.firstUrgent (core / 64) x with
        | none => none
        | some r => if s.freeFor core r.ctx || !(s.reaches r.ctx core) then none else some r.ctx
      match urgent.or (s.nextServed core x) with
      | none => .next (s.updCore core (fun c => { c with since := s.tb }))
      | some y => .next (s.preemptFor core 0 y)

/-- BUDGET_EXPIRY (R315). -/
def execBudgetExpiry (core slot : Nat) (s : State) : Host.Outcome State Fault Refusal :=
  match s.block core slot with
  | none => .next s
  | some b => .next (if b.treat == Treat.drain && b.deadline.any (fun t => t ≤ s.tb) then s.stopBlock core slot else s)

/-- DEBUG_HOLD (R310): the context of a core is held on every core it has. -/
def State.holdContext (s : State) (ctx : Nat) : State :=
  (List.range 256).foldl (fun s n => if (s.core n).ctx = some ctx then s.requestPreempt n 3 else s) s
def execDebugHold (core : Nat) (s : State) : Host.Outcome State Fault Refusal :=
  if 256 ≤ core then .next s
  else match (s.core core).ctx with
  | none => .next s
  | some x => .next (s.holdContext x)

-- names of saved cores

/-- A core has another number, in every name that the state holds (R318, R325). -/
def State.renameCore (s : State) (a b : Nat) : State :=
  let n := fun (x : Nat) => if x = a then b else x
  let who := fun (w : Who) => match w with
    | .gang c g => Who.gang (n c) g
    | .stream c k => .stream (n c) k
    | .clusterSeq c => .clusterSeq c
    | .dieSeq d => .dieSeq d
    | .packageSeq => .packageSeq
  let key := fun (k : BarKey) => match k with
    | .block c x i => BarKey.block (n c) x i
    | .cluster c i => .cluster c i
    | .die d i => .die d i
    | .package i => .package i
  let loc := fun (l : Loc) => match l with
    | .core c x => Loc.core (n c) x
    | _ => l
  let place := fun (p : Place) => match p with
    | .core c => Place.core (n c)
    | .cluster c => .cluster c
    | .die d => .die d
    | .package => .package
  let bar := fun (x : Barrier) =>
    { x with marks := x.marks.map who, recs := x.recs.map (fun r => ((who r.1.1, r.1.2), r.2)) }
  let ask := fun (r : Requester) => match r with
    | .lane c g e l => Requester.lane (n c) g e l
    | .ladle c g j q => .ladle (n c) g j q
    | .line p l => .line (place p) l
    | .header w => .header (who w)
    | _ => r
  let iss := fun (u : Issuer) => { u with stepping := u.stepping.map (fun x => if x.tag = 0 then x else { x with by_ := who x.by_ }) }
  { s with
    cores := s.cores.map (fun c => (n c.1, { c.2 with
      gangs := c.2.gangs.map (fun g => (g.1, iss g.2))
      blocks := c.2.blocks.map (fun k => (k.1, { k.2 with stream := iss k.2.stream }))
      poolQ := c.2.poolQ.map (fun q => { q with who := who q.who })
      aq := c.2.aq.map (fun o => { o with who := who o.who })
      rows := c.2.rows.map (fun r => { r with who := who r.who, loc := loc r.loc, bar := r.bar.map key }) }))
    bars := s.bars.map (fun x => (key x.1, bar x.2))
    lines := s.lines.filter (fun l => l.place ≠ .core a)
    copies := s.copies.map (fun c =>
      { c with who := who c.who, place := place c.place, src := loc c.src, dsts := c.dsts.map loc, bars := c.bars.map key
               home := c.home.map (fun h => (n h.1, h.2)) })
    pots := s.pots.map (fun p => (p.1, { p.2 with
      recs := p.2.recs.map (fun r => (r.1, { r.2 with
        runner := r.2.runner.map who, contribs := r.2.contribs.map (fun k => { k with who := who k.who }) }))
      groups := p.2.groups.map (fun g => (g.1, { g.2 with joiners := g.2.joiners.map (fun j => match j with
        | .issuer w e => Joiner.issuer (who w) e
        | .remote x t => .remote x t) })) }))
    inserts := s.inserts.map (fun p => if p.ghost.isSome then p else { p with src := match p.src with
      | .launch w m t d k => .launch (who w) m t d k
      | .reduce w m t d => .reduce (who w) m t d
      | .arm d e => .arm d e
      | .packet q => .packet q
      | .remote x t => .remote x t })
    pendArms := s.pendArms.map (fun p => if p.gone then p else { p with who := p.who.map (fun q => (who q.1, q.2)) })
    reqs := s.reqs.map (fun r => { r with owner := match r.owner with
      | .log c g e => .log (n c) g e
      | .join w e => .join (who w) e
      | o => o })
    dies := s.dies.map (fun d => (d.1, { d.2 with
      faults := d.2.faults.map (fun f => (f.1, { f.2 with reqs := f.2.reqs.map ask }))
      held := d.2.held.map (fun h => (h.1, h.2.1, h.2.2.1, ask h.2.2.2))
      walkq := d.2.walkq.map (fun h => (h.1, h.2.1, h.2.2.1, ask h.2.2.2)) }))
    images := s.images.map (fun i => { i with what := match i.what with
      | .core c l => .core c (n l)
      | .cluster c bs => .cluster c (bs.map (fun x => (x.1, bar x.2)))
      | .die c bs => .die c (bs.map (fun x => (x.1, bar x.2))) }) }

-- images as bytes (R322 to R324)

/-- The bytes `bs` at physical address `pa` under a key, in one piece (R321, R405). -/
def State.bulkStore (s : State) (key pa : Nat) (bs : List Byte) : State :=
  let n := bs.length
  let t := s.clearPoison pa n
  { t with
    mem := s.mem.splice pa bs
    lineKey := (granulesOf pa n).map (fun g => (g, key)) ++ s.lineKey.filter (fun x => x.1 < pa / 64 || pa + n ≤ 64 * x.1) }

/-- A section of an image: its kind, block slot and gang, its pages, and its bytes where its layout is given (R323). -/
structure Section where
  kind : Nat
  slot : Nat
  gang : Nat
  pages : Nat
  bytes : Option (List Byte)
  deriving DecidableEq, Repr

/-- The bytes of a section: the layout that the spec gives it, or what the device chooses (R323). -/
def Section.content (x : Section) (gen ctx : Nat) : List Byte :=
  match x.bytes with
  | some b => takePad b (4096 * x.pages) 0
  | none => (List.range (4096 * x.pages)).map (Config.opaqueSectionByte (x.kind + 256 * x.slot + 65536 * x.gang) gen ctx)

/-- The directory of an image: each section with its first page (R322). -/
def directory (first : Nat) : List Section → List (Nat × Nat × Nat × Nat × Nat)
  | [] => []
  | x :: r => (x.kind, x.slot, x.gang, first, x.pages) :: directory (first + x.pages) r

/-- The pages of the sections of an image and its header (R322), and with its tag pages (R324). -/
def imagePages (xs : List Section) : Nat := 1 + (xs.map (fun x => x.pages)).sum
def tagPages (pages : Nat) : Nat := (pages + 511) / 512

/-- The header page (R322); `core` is its CORE field. -/
def headerPage (ctx gen pages core : Nat) (dir : List (Nat × Nat × Nat × Nat × Nat)) : List Byte :=
  takePad (bytesOf 0x5653375A 4 ++ bytesOf 1 2 ++ bytesOf ctx 2 ++ bytesOf gen 8 ++ (List.range 8).map Config.modelBytes
    ++ bytesOf pages 4 ++ bytesOf core 2 ++ bytesOf dir.length 1 ++ [0]
    ++ (dir.map (fun e => bytesOf e.1 1 ++ bytesOf e.2.1 1 ++ bytesOf e.2.2.1 1 ++ [0] ++ bytesOf e.2.2.2.1 4
      ++ bytesOf e.2.2.2.2 4 ++ bytesOf 0 4)).flatten) 4096 0

/-- The tag of page `p` (R324). -/
def pageTag (saveKey ctx gen p : Nat) (page : List Byte) : List Byte :=
  kmac256 (bytesOf saveKey 32) (bytesOf p 8 ++ bytesOf ctx 2 ++ bytesOf gen 8 ++ page) 8 [0x5A, 0x37, 0x53, 0x41, 0x56, 0x45]

/-- Page `p` of some bytes. -/
def pageOf (bs : List Byte) (p : Nat) : List Byte := (bs.drop (4096 * p)).take 4096

/-- An image with its tag pages, as it lies in its area (R322 to R324). -/
def imageBytes (saveKey ctx gen core : Nat) (xs : List Section) : List Byte :=
  let n := imagePages xs
  let body := headerPage ctx gen n core (directory 1 xs) ++ (xs.map (fun x => x.content gen ctx)).flatten
  body ++ takePad (((List.range n).map (fun p => pageTag saveKey ctx gen p (pageOf body p))).flatten) (4096 * tagPages n) 0

/-- The lowest place in the save area of a context that holds some pages (R321). -/
def State.areaFor (s : State) (ctx pages : Nat) : Option Nat :=
  let c := s.ctxOf ctx
  let used := (s.images.filter (fun i => i.ctx = ctx)).map (fun i => (i.base, i.pages + tagPages i.pages))
  ((List.range (c.savepages + 1 - pages)).find? (fun k =>
    used.all (fun u => c.savebase + 4096 * (k + pages) ≤ u.1 || u.1 + 4096 * u.2 ≤ c.savebase + 4096 * k))).map (fun k =>
      c.savebase + 4096 * k)

/-- Where in the save area an image of some sections goes, and how many pages it takes with its tags (R321). -/
def State.imageArea (s : State) (ctx : Nat) (xs : List Section) : Option (Nat × Nat) :=
  let n := imagePages xs + tagPages (imagePages xs)
  (s.areaFor ctx n).map (fun a => (a, n))

/-- The granule at byte `off` of the image meets an uncorrectable error as it is written: it is poisoned and logged (R321, R406, R422).
None where there is no such byte. -/
def State.hitImage (s : State) (ctx : Nat) (xs : List Section) (off : Nat) : Option State :=
  match s.imageArea ctx xs with
  | none => none
  | some (a, n) =>
    if 4096 * n ≤ off then none else some ((s.setPoison ((a + off) / 64)).logPkg ((a + off) / 64 * 64) ctx 12 2 0)

/-- The image is written and tagged, if the area can hold it (R321 to R324). -/
def State.writeImage (s : State) (ctx core : Nat) (xs : List Section) (what : Saved) (pois : List Nat) : Option State :=
  let n := imagePages xs
  let c := s.ctxOf ctx
  match s.areaFor ctx (n + tagPages n) with
  | none => none
  | some a =>
    let gen := c.prgen.toNat
    let img : SavedImg :=
      { id := s.nextId, ctx := ctx, gen := gen, base := a, pages := n, dir := directory 1 xs, what := what, pois := pois
        suspended := s.suspst = 1 }
    let s : State := { s with nextId := s.nextId + 1, images := s.images ++ [img] }
    some (s.bulkStore c.key a (imageBytes (Config.saveKey c.key) ctx gen core xs))

-- saving a core

/-- The poisoned granules of a range of the flat memory, counted from its start. -/
def State.poisonIn (s : State) (k n : Nat) : List Nat :=
  (s.poison.filter (fun g => k ≤ 64 * g && 64 * g < k + n)).map (fun g => g - k / 64)

/-- The vector registers of a gang as KIND 5 lays them out (R323). -/
def Issuer.vBytes (u : Issuer) : List Byte :=
  ((List.range (8 * u.alloc * 32)).map (fun i => bytesOf (u.v.get i 0).toNat 4)).flatten

/-- The sections of a core image (R322, R323). -/
def State.coreSections (s : State) (n : Nat) : List Section :=
  let c := s.core n
  let gs := c.gangs.filter (fun g => g.1 < 32)
  [⟨1, 0, 0, 128, some (s.mem.read (coreKey n 0) Config.scratchBytes)⟩, ⟨2, 0, 0, 1, none⟩, ⟨3, 0, 0, 68, none⟩]
    ++ c.blocks.map (fun b => ⟨4, b.1, 0, 11, none⟩)
    ++ gs.map (fun g => ⟨5, g.2.blk, g.1, (g.2.alloc + 3) / 4, some g.2.vBytes⟩)
    ++ gs.map (fun g => ⟨6, g.2.blk, g.1, 3, none⟩)

/-- Whether a copy has a piece of a segment in progress that writes the scratch of core `n` (R317). -/
def Copy.intoCore (c : Copy) (n : Nat) : Bool :=
  c.dsts.any (fun d => match d with
    | .core m _ => m = n
    | _ => false) && !c.atBoundary

/-- Whether every block of a core has been treated (R318): none drains, every flush is made, and of what is saved no segment of a
copy, no accepted row and no request on its way is left (R316, R317, R242). -/
def State.coreTreated (s : State) (n : Nat) : Bool :=
  let c := s.core n
  c.blocks.all (fun b => b.2.treat == Treat.save && s.settled n b.1) && c.rows.isEmpty
    && !(s.copies.any (fun k => k.intoCore n))
    && s.reqs.all (fun r => match r.owner with
      | .log m _ _ => m ≠ n || r.retry
      | _ => true)

/-- The number under which the saved state of a core stands; its cluster and die can be told from it. -/
def State.limboFor (s : State) (n : Nat) : Nat := 256 * (s.nextId + 1) + n

/-- The shared state and the saved blocks of a core leave it (R318): requests answered RETRY are sent again from the log on
resume (R459); the debug port stays with the core. -/
def State.leaveCore (s : State) (n limbo : Nat) : State :=
  let c := s.core n
  let s : State := { s with reqs := s.reqs.filter (fun r => match r.owner with
    | .log m _ _ => m ≠ n
    | _ => true) }
  let s := (s.renameCore n limbo).updCore limbo (fun c => { c with port := DebugPort.reset, preempt := none, forCtx := none })
  s.updCore n (fun _ => { Core.reset with port := c.port, forCtx := c.forCtx })

/-- A save that fails (R321): the idempotent blocks are flushed; if any other is left, the context faults. -/
def State.saveFailed (s : State) (n ctx : Nat) : State :=
  let c := s.core n
  let s := c.blocks.foldl (fun s b => if b.2.idem then s.flushBlock n b.1 else s) s
  if (s.core n).blocks.isEmpty then s.testFree n
  else (s.faultContext ctx (s.ctxOf ctx).savebase).updCore n (fun c => { c with preempt := none, ctx := none })

/-- CORE_IMAGE_SAVE (R318, R321). -/
def execCoreImageSave (n : Nat) (s : State) : Host.Outcome State Fault Refusal :=
  let s := s.finishFlush n
  let c := s.core n
  match c.preempt, c.ctx with
  | some _, some x =>
    if 256 ≤ n || !(s.coreTreated n) then .next s
    else
      let limbo := s.limboFor n
      let t := s.updCtx x (fun y => { y with prgen := y.prgen + 1 })
      (match t.writeImage x (n % 64) (t.coreSections n) (.core n limbo) (t.poisonIn (coreKey n 0) Config.scratchBytes) with
        | none => .next (s.saveFailed n x)
        | some t => .next (t.leaveCore n limbo))
  | _, _ => .next s

-- checking and restoring an image

/-- The pages of an image that a check finds bad, its tag pages counted after its own (R325). -/
def State.badPages (s : State) (i : SavedImg) : List Nat :=
  let key := s.keyOf i.ctx
  let page := fun (p : Nat) => s.pkgRead key (i.base + 4096 * p) 4096
  let h := page 0
  let word := fun (a n : Nat) => ofBytes ((h.drop a).take n)
  let head := word 0 4 = 0x5653375A ∧ word 4 2 = 1 ∧ word 6 2 = i.ctx ∧ word 8 8 = i.gen
    ∧ (h.drop 16).take 8 = (List.range 8).map Config.modelBytes
  let tags := s.pkgRead key (i.base + 4096 * i.pages) (4096 * tagPages i.pages)
  let bad := fun (p : Nat) => s.poisoned (i.base + 4096 * p) 4096
    || decide ((tags.drop (8 * p)).take 8 ≠ pageTag (Config.saveKey key) i.ctx i.gen p (page p))
  (if decide head then [] else [0]) ++ (List.range i.pages).filter bad
    ++ (List.range (tagPages i.pages)).filterMap (fun k =>
      if s.poisoned (i.base + 4096 * (i.pages + k)) 4096 then some (i.pages + k) else none)

/-- The section that a page lies in: kind, block slot, gang; header and tag pages count as shared state (R325). -/
def SavedImg.sectionOf (i : SavedImg) (p : Nat) : Nat × Nat × Nat :=
  match i.dir.find? (fun e => e.2.2.2.1 ≤ p && p < e.2.2.2.1 + e.2.2.2.2) with
  | none => (2, 0, 0)
  | some e => (e.1, e.2.1, e.2.2.1)

/-- The bytes of a section of an image. -/
def State.sectionBytes (s : State) (i : SavedImg) (kind gang : Nat) : List Byte :=
  match i.dir.find? (fun e => e.1 = kind && e.2.2.1 = gang) with
  | none => []
  | some e => s.pkgRead (s.keyOf i.ctx) (i.base + 4096 * e.2.2.2.1) (4096 * e.2.2.2.2)

/-- Bytes of a memory of the package come back from an image, with the poison they had (R188, R323). -/
def State.restoreMem (s : State) (k : Nat) (bs : List Byte) (pois : List Nat) : State :=
  let t := s.clearPoison k bs.length
  { t with mem := s.mem.splice k bs,
           poison := pois.map (fun g => k / 64 + g) ++ t.poison }

/-- The vector registers of KIND 5 (R323). -/
def Issuer.fromBytes (u : Issuer) (bs : List Byte) : Issuer :=
  let v : Tab Nat Word := (List.range (8 * u.alloc * 32)).map (fun r => (r, BitVec.ofNat 32 (ofBytes ((bs.drop (4 * r)).take 4))))
  { u with v := v.filter (fun x => x.2 ≠ 0) }

/-- The blocks of a saved core that a bad page affects (R325). -/
def State.affected (s : State) (i : SavedImg) (limbo p : Nat) : List Nat :=
  let c := s.core limbo
  let (kind, slot, _) := i.sectionOf p
  if kind = 4 ∨ kind = 5 ∨ kind = 6 then [slot]
  else if kind = 3 then (c.blocks.filter (fun b => b.2.array)).map (fun b => b.1)
  else c.blocks.map (fun b => b.1)

/-- An image leaves its save area. -/
def State.dropImage (s : State) (id : Nat) : State := { s with images := s.images.filter (fun i => i.id ≠ id) }

/-- A block that resumes (R326). -/
def Block.resumed (b : Block) : Block :=
  { b with treat := .none, preq := false, deadline := none, saves := BitVec.ofNat 16 (satAt 16 (b.saves.toNat + 1)) }

/-- What is left of a saved core goes to core `m` (R326): the blocks resume, each with SAVES incremented. `shared` says that no bad
page lies in the shared state. -/
def State.enterCore (s : State) (i : SavedImg) (limbo m : Nat) (shared : Bool) : State :=
  let c := s.core m
  let s := if shared then s.restoreMem (coreKey m 0) (s.sectionBytes i 1 0) i.pois else s
  let s := s.updCore limbo (fun (x : Core) =>
    { x with
      port := c.port, since := s.tb, preempt := none, forCtx := none
      gangs := x.gangs.map (fun g => (g.1, if g.1 < 32 then g.2.fromBytes (s.sectionBytes i 5 g.1) else g.2))
      blocks := x.blocks.map (fun b => (b.1, b.2.resumed)) })
  let s := ({ s with cores := s.cores.drop m } : State).renameCore limbo m
  let s := ((s.takeCluster i.ctx (m / 8)).updDie (m / 64) (fun x => { x with lastServed := i.ctx })).leaveIdle
  (s.core m).gangs.foldl (fun s g => s.sendLog m g.1) s

/-- A restored core (R325 to R327). -/
def State.restoreCore (s : State) (i : SavedImg) (limbo m : Nat) : State :=
  let bad := s.badPages i
  let hit := (bad.map (s.affected i limbo)).flatten.eraseDups
  let shared := bad.all (fun p => 3 ≤ (i.sectionOf p).1)
  let idem := hit.all (fun b => (s.block limbo b).any (fun k => k.idem))
  if !idem then s.faultContext i.ctx (i.base + 4096 * bad.headD 0)
  else
    let s := (hit.foldl (fun s b => s.flushBlock limbo b) s).dropImage i.id
    if (s.core limbo).blocks.isEmpty then { s with cores := s.cores.drop limbo } else s.enterCore i limbo m shared

/-- Whether a core may take the image of a context (R314, R325, R357): it is free, and the memories around it are the context's and
back in place; on resume no work waits but the images (R426). -/
def State.mayRestore (s : State) (i : SavedImg) (n m : Nat) : Bool :=
  let waits := fun (p : Saved → Bool) => s.images.any (fun j => j.ctx = i.ctx && (s.suspst ≠ 3 || j.suspended) && p j.what)
  m < 256 && (if i.suspended then m = n else m / 8 = n / 8) && s.coreFree m
    && (s.suspst = 3 || s.serves i.ctx m false)
    && (match s.clusterOwner (m / 8) with
      | none => true
      | some o => o = i.ctx)
    && !(waits (fun w => match w with
      | .cluster c _ => c = m / 8
      | .die d _ => d = m / 64
      | .core _ _ => false))

/-- The run of a sequencer's record is given up, the record going back to WAITING (R313, R327). -/
def State.flushSeq (s : State) (w : Who) : State :=
  match s.seqs.find w with
  | none => s
  | some q => ({ s.dropIssuers [w] with seqs := s.seqs.drop w } : State).unrun q.pot q.slot

/-- What a bad page of a cluster or die image affects (R356, R376): blocks of the context, saved or on a core, and sequencers. -/
def State.spanBad (s : State) (i : SavedImg) (bad : Nat → Bool) (cores : Nat → Bool) (seqs : List Who) (mem : Bool) : State :=
  if !((List.range (i.pages + tagPages i.pages)).any bad) then s
  else
    let saved := if mem then s.images.filterMap (fun j => match j.what with
      | .core n l => if j.ctx = i.ctx && cores n then some l else none
      | _ => none) ++ (List.range 256).filter (fun n => cores n && (s.core n).ctx = some i.ctx) else []
    let blocks := saved.flatMap (fun l => (s.core l).blocks.map (fun b => (l, b.1, b.2.idem)))
    let runs := seqs.filterMap (fun w => (s.seqs.find w).bind (fun q =>
      if q.iss.ctx = i.ctx then some (w, ((s.pot q.pot).recs.find q.slot).any (fun r => r.img.idem)) else none))
    if blocks.all (fun b => b.2.2) && runs.all (fun r => r.2) then
      let s := blocks.foldl (fun s b => s.flushBlock b.1 b.2.1) s
      let s := runs.foldl (fun s r => s.flushSeq r.1) s
      let empty := fun (l : Nat) => 256 ≤ l && (s.core l).blocks.isEmpty
      { s with
        images := s.images.filter (fun j => match j.what with
          | .core _ l => !(empty l)
          | _ => true)
        cores := s.cores.filter (fun c => !(empty c.1)) }
    else s.faultContext i.ctx (i.base + 4096 * (((List.range (i.pages + tagPages i.pages)).find? bad).getD 0))

/-- The barriers of an image come back (R356, R376). -/
def State.restoreBars (s : State) (key : Nat → BarKey) (bars : List (Nat × Barrier)) : State :=
  { s with bars := bars.foldl (fun t b => t.put (key b.1) b.2) s.bars }

/-- A restored cluster (R356, R357): its context owns it again. -/
def State.restoreCluster (s : State) (i : SavedImg) (c : Nat) (bars : List (Nat × Barrier)) : State :=
  let bad := s.badPages i
  let mem := bad.any (fun p => (i.sectionOf p).1 ≠ 8)
  let s := (s.dropImage i.id).spanBad i (fun p => bad.contains p) (fun n => n / 8 = c) [.clusterSeq c] mem
  if (s.ctxOf i.ctx).st != CtxSt.live then s
  else
    let s : State := { s with clusters := s.clusters.put c ⟨some i.ctx⟩ }
    let s := if mem then s else s.restoreMem (clusterKey c 0) (s.sectionBytes i 7 0) i.pois
    if bad.any (fun p => (i.sectionOf p).1 ≠ 7) then s else s.restoreBars (.cluster c) bars

/-- A restored die (R357, R376). -/
def State.restoreDie (s : State) (i : SavedImg) (d : Nat) (bars : List (Nat × Barrier)) : State :=
  let bad := s.badPages i
  let ws := Who.dieSeq d :: (List.range 8).map (fun k => Who.clusterSeq (8 * d + k))
  let s := (s.dropImage i.id).spanBad i (fun p => bad.contains p) (fun n => n / 64 = d) ws true
  if (s.ctxOf i.ctx).st != CtxSt.live then s
  else
    let s := s.updDie d (fun x => { x with owner := some i.ctx })
    if !bad.isEmpty then s
    else (s.restoreMem (dieKey d 0) (s.sectionBytes i 9 0) i.pois).restoreBars (.die d) bars

/-- RESTORE (R325 to R327, R356, R357, R376): an image of a core onto core `m`, of a cluster or a die onto its own. -/
def execRestore (image m : Nat) (s : State) : Host.Outcome State Fault Refusal :=
  match s.images.find? (fun i => i.id = image) with
  | none => .next s
  | some i =>
    let free := fun (o : Option Nat) => match o with
      | none => true
      | some x => x = i.ctx
    -- resuming, the package restores the dies, then the clusters, then the cores (R426)
    let waits := fun (p : Saved → Bool) => s.suspst = 3 && s.images.any (fun j => j.suspended && p j.what)
    let later := match i.what with
      | .die _ _ => false
      | .cluster _ _ => waits (fun w => match w with
        | .die _ _ => true
        | _ => false)
      | .core _ _ => waits (fun w => match w with
        | .core _ _ => false
        | _ => true)
    if (s.ctxOf i.ctx).st != CtxSt.live || s.suspst = 1 || s.suspst = 2 || (s.suspst = 3 && !i.suspended) || later then .next s
    else match i.what with
      | .core n limbo => .next (if s.mayRestore i n m then s.restoreCore i limbo m else s)
      | .cluster c bars =>
        .next (if free (s.clusterOwner c) && (s.suspst = 3 || !(s.savedFor i.ctx (fun w => match w with
          | .die d _ => d = c / 8
          | _ => false))) then s.restoreCluster i c bars else s)
      | .die d bars =>
        let turn := match (s.die d).forCtx with
          | none => true
          | some x => x = i.ctx || !(s.wantsDie x d)
        .next (if free (s.die d).owner && (turn || s.suspst = 3) then s.restoreDie i d bars else s)

-- ownership (R355, R374, R375)

/-- Whether a copy of a context in flight, not saved with its block, touches a memory (R355, R375). -/
def State.copyTouches (s : State) (ctx : Nat) (p : Loc → Bool) : Bool :=
  s.copies.any (fun c => c.ctx = ctx && c.flying && !c.who.isSaved && c.home.all (fun h => h.1 < 256) && (p c.src || c.dsts.any p) && !(s.suspst = 1 && c.atBoundary))

/-- The context that a die serves after its owner (R311, R375): in increasing number after it, one that waits for the die. -/
def State.nextForDie (s : State) (o d : Nat) : Option Nat :=
  ((List.range 2048).map (fun i => (o + 1 + i) % 2048)).find? (fun x => x ≠ o && (s.ctxOf x).st == CtxSt.live && s.wantsDie x d)

/-- Whether a context other than the owner waits for a cluster, or for the whole of a die (R355, R357, R375). -/
def State.othersWant (s : State) (o d : Nat) : Bool := (List.range 2048).any (fun x => x ≠ o && (s.ctxOf x).st == CtxSt.live && s.waitsFor x d)
def State.othersWantCluster (s : State) (o c : Nat) : Bool :=
  s.othersWant o (c / 8) || [c, 32 + c / 8].any (fun p => (s.pot p).recs.any (fun r =>
    r.2.ctx ≠ o && s.eligibleRec r.2 && r.2.img.tlevel ≤ 2))
def State.othersWantDie (s : State) (o d : Nat) : Bool :=
  (s.nextForDie o d).isSome

/-- The barriers of an owner leave with its image; those of the next start afresh (R359, R379). -/
def State.takeBars (s : State) (of : BarKey → Option Nat) : List (Nat × Barrier) × State :=
  (s.bars.filterMap (fun b => (of b.1).map (fun n => (n, b.2))), { s with bars := s.bars.filter (fun b => (of b.1).isNone) })

/-- The sections of a cluster image and of a die image (R356, R376). -/
def State.clusterSections (s : State) (c : Nat) : List Section :=
  [⟨7, 0, 0, 2048, some (s.mem.read (clusterKey c 0) Config.clusterBytes)⟩, ⟨8, 0, 0, 4, none⟩]
def State.dieSections (s : State) (d : Nat) : List Section :=
  [⟨9, 0, 0, 16384, some (s.mem.read (dieKey d 0) Config.dieBytes)⟩, ⟨10, 0, 0, 8, none⟩]

/-- Whether the ownership of a cluster may pass from `o` (R355), or a suspend saves it (R425). -/
def State.clusterPasses (s : State) (c o : Nat) : Bool :=
  let busy := (coresOf c).any (fun n => !(s.core n).blocks.isEmpty)
    || (s.suspst ≠ 1 && (s.seqs.find (.clusterSeq c)).isSome)
    || s.copyTouches o (fun l => match l with
      | .cluster n _ => n = c
      | _ => false)
  c < 32 && !busy && (s.suspst = 1 || (s.suspst = 0 && s.othersWantCluster o c))

/-- CLUSTER_OWNERSHIP_PASS (R355, R356): the memory and state of the owner are saved, and the cluster has no owner. -/
def execClusterOwnershipPass (c : Nat) (s : State) : Host.Outcome State Fault Refusal :=
  match s.clusterOwner c with
  | none => .next s
  | some o =>
    if !(s.clusterPasses c o) then .next s
    else
      let (bars, t) := s.takeBars (fun k => match k with
        | .cluster n i => if n = c then some i else none
        | _ => none)
      match t.writeImage o (0x8000 + 8 * (c % 8)) (s.clusterSections c) (.cluster c bars) (s.poisonIn (clusterKey c 0) Config.clusterBytes) with
      | none => .next (s.faultContext o (s.ctxOf o).savebase)
      | some t => .next { t with clusters := t.clusters.put c ⟨none⟩ }

/-- Whether the ownership of a die may pass from `o` (R375), or a suspend saves it (R376, R425). -/
def State.diePasses (s : State) (d o : Nat) : Bool :=
  let runs := fun (w : Who) => (s.seqs.find w).any (fun q => q.iss.ctx = o)
  let busy := (dieCores d).any (fun n => (s.core n).blocks.any (fun b => b.2.stream.ctx = o))
    || (s.suspst ≠ 1 && (runs (.dieSeq d) || (List.range 8).any (fun k => runs (.clusterSeq (8 * d + k)))))
    || (s.suspst = 1 && (List.range 8).any (fun k => (s.clusterOwner (8 * d + k)).isSome))
    || s.copyTouches o (fun l => match l with
      | .die n _ => n = d
      | _ => false)
  d < 4 && !busy && (s.suspst = 1 || (s.suspst = 0 && s.othersWantDie o d))

/-- DIE_OWNERSHIP_PASS (R375, R376): the die is freed for the context that the rotation serves next; a suspend serves none (R425). -/
def execDieOwnershipPass (d : Nat) (s : State) : Host.Outcome State Fault Refusal :=
  match (s.die d).owner with
  | none => .next s
  | some o =>
    if !(s.diePasses d o) then .next s
    else
      let (bars, t) := s.takeBars (fun k => match k with
        | .die n i => if n = d then some i else none
        | _ => none)
      match t.writeImage o 0xC000 (s.dieSections d) (.die d bars) (s.poisonIn (dieKey d 0) Config.dieBytes) with
      | none => .next (s.faultContext o (s.ctxOf o).savebase)
      | some t => .next (t.updDie d (fun x => { x with owner := none, forCtx := if s.suspst = 1 then none else s.nextForDie o d }))

/-- The save area meets an uncorrectable error at byte `off` of an image that is written to it (R321, R406): the save of the core fails, or
the owner of the cluster or die faults. -/
def State.imageError (s : State) (p : Place) (off : Nat) : State :=
  let fault := fun (o : Nat) (xs : List Section) => match s.hitImage o xs off with
    | none => s
    | some t => t.faultContext o (t.ctxOf o).savebase
  match p with
  | .core n =>
    let s := s.finishFlush n
    (match (s.core n).preempt, (s.core n).ctx with
      | some _, some x =>
        if n < 256 && s.coreTreated n then (match s.hitImage x (s.coreSections n) off with
          | none => s
          | some t => t.saveFailed n x)
        else s
      | _, _ => s)
  | .cluster c => (match s.clusterOwner c with
    | none => s
    | some o => if s.clusterPasses c o then fault o (s.clusterSections c) else s)
  | .die d => (match (s.die d).owner with
    | none => s
    | some o => if s.diePasses d o then fault o (s.dieSections d) else s)
  | .package => s

end Sys2Proof.Machine
end

