-- ==== Sys2Proof/Machine/Queues.lean ====
section
/-! DEFINITION. Host queues (R414 to R420): descriptors, write indices, the acceptance of packets with its journal, what each packet
does, and completion. -/
namespace Sys2Proof.Machine

-- descriptors (R415)

/-- A write that sets EN of a queue takes effect only where the descriptor may be enabled (R415), and never in recovery (R423). -/
def State.enableQueue (s : State) (q : Nat) : State :=
  let x := s.queue q
  if !(x.ver = 1 || x.ver = 2) || x.qsize < 4 || 16 < x.qsize || x.crsize < 4 || 20 < x.crsize
      || (s.ctxOf x.ctx).st != CtxSt.live || s.recovery then s
  else s.updQueue q (fun x => { x with en := true })

/-- QUEUE_ENABLE (R415). -/
def execQueueEnable (q : Nat) (s : State) : Host.Outcome State Fault Refusal :=
  if 1024 ≤ q then .next s else .next (s.enableQueue q)

/-- The package reads the WI word of an enabled queue (R414). -/
def State.readWi (s : State) (q : Nat) : State :=
  let x := s.queue q
  if !x.en || s.suspst ≠ 0 then s
  else s.updQueue q (fun y => { y with wi := BitVec.ofNat 64 (s.sysWord (8 * bitsAt x.qwi 3 49)) })

def execDoorbell (q : Nat) (s : State) : Host.Outcome State Fault Refusal :=
  if 1024 ≤ q then .next s else .next (s.readWi q)
def execWiPoll (q : Nat) (s : State) : Host.Outcome State Fault Refusal :=
  if 1024 ≤ q then .next s else .next (s.readWi q)

-- slots (R414, R416)

/-- Bytes of a slot, and the physical address of slot RI (R414, R415). -/
def Queue.slotBytes (x : Queue) : Nat := if x.ver = 1 then 32 else 64
def Queue.slot (x : Queue) : Nat := x.ri.toNat % 2 ^ x.qsize
def Queue.slotAddr (x : Queue) : Nat := 64 * bitsAt x.qbase 6 46 + x.slotBytes * x.slot

/-- KIND of a slot (R416). -/
def Queue.kindOf (x : Queue) (bs : List Byte) : Nat := if x.ver = 1 then (bs.headD 0).toNat % 16 else (bs.headD 0).toNat

/-- A v1 packet in the layout of v2, KIND and VER as they are read (R416). -/
def v1Body (bs : List Byte) : List Byte :=
  let w := fun (a n : Nat) => ofBytes ((bs.drop a).take n)
  let kind := w 0 4 % 16
  let hdr := kind + 2 ^ 8 * (w 0 4 / 16 % 16) + 2 ^ 16 * (w 0 4 / 256 % 2) + (if kind = 1 then 2 ^ 19 else 0) + 2 ^ 32 * w 4 4
  bytesOf hdr 8 ++ bytesOf (w 8 8) 8
    ++ (if kind = 1 then bytesOf 0 8 ++ bytesOf (w 16 8) 8 else bytesOf (w 16 8) 8 ++ bytesOf (w 24 4) 8) ++ bytesOf 0 32

/-- BADPKT of a v1 packet, as its bytes stand (R416, R418): the bytes that R416 gives its KIND no field in are reserved. -/
def v1Bad (bs : List Byte) : Bool :=
  let w := fun (a n : Nat) => ofBytes ((bs.drop a).take n)
  let kind := w 0 4 % 16
  w 0 4 / 16 % 16 ≠ 1 || w 0 4 / 512 ≠ 0 || w 28 4 ≠ 0 || !([1, 2, 4, 5].contains kind)
    || (kind ≠ 2 && w 24 4 ≠ 0) || (kind = 2 && w 24 4 % 16 ≠ 0) || (kind = 4 && w 8 8 % 8 ≠ 0)
    || (kind = 5 && (w 8 8 ≠ 0 || w 16 8 ≠ 0))

/-- BADPKT of a v2 packet (R416, R418, R396). -/
def v2Bad (bs : List Byte) : Bool :=
  let h : Dword := BitVec.ofNat 64 (ofBytes (bs.take 8))
  let w := fun (i : Nat) => (BitVec.ofNat 64 (ofBytes ((bs.drop (8 * i)).take 8)) : Dword)
  let kind := bitsAt h 0 8
  let zero := fun (l : List Nat) => l.all (fun i => w i = 0)
  bitsAt h 25 7 ≠ 0 || bitAt h 17 || bitsAt h 8 8 ≠ 2 || !([1, 2, 3, 4, 5].contains kind)
    || (kind ≠ 2 && bitsAt h 20 2 ≠ 0) || (kind ≠ 1 && bitsAt h 18 2 ≠ 0) || (kind ≠ 3 && bitsAt h 22 2 ≠ 0)
    || (kind ≠ 4 && bitAt h 24) || (bitAt h 23 && !(bitAt h 22))
    || (kind = 1 && (bitsAt (w 5) 8 56 ≠ 0 || w 7 ≠ 0 || (w 4 ≠ 0 && (bitsAt (w 5) 0 8 = 0 || 8 < bitsAt (w 5) 0 8))))
    || (kind = 2 && (!(zero [4, 5, 6, 7]) || (w 3).toNat % 16 ≠ 0 || 2 ^ 40 < (w 3).toNat))
    || (kind = 3 && (!(zero [4, 5, 6, 7]) || (if bitAt h 22 then bitsAt (w 2) 0 32 = 0 || bitsAt (w 2) 32 32 ≠ 0
      else 1 ≤ (w 3).toNat && (w 3).toNat ≤ 999)))
    || (kind = 4 && (!(zero [3, 4, 5, 6, 7]) || (w 1).toNat % 8 ≠ 0)) || (kind = 5 && !(zero [1, 2, 3, 4, 5, 6, 7]))

-- acceptance (R414, R417, R420)

/-- Whether a queue may accept its next packet now: it is enabled for a LIVE context, the journal has room, and no FENCE of it
waits (R408, R414, R417, R420, R425). -/
def State.mayAccept (s : State) (q : Nat) : Bool :=
  let x := s.queue q
  q < 1024 && x.en && s.suspst = 0 && (s.ctxOf x.ctx).st == CtxSt.live && x.ri < x.wi
    && (s.jwr - s.jrd).toNat < 2 ^ s.jsize && !(s.packets.any (fun p => p.q = q && p.kind = 5 && p.status.isNone))

/-- A journal entry is written (R420). -/
def State.journal (s : State) (seq : Nat) (off : Nat) (bs : List Byte) : State :=
  s.sysStore (4096 * bitsAt s.jbase 12 40 + 32 * (seq % 2 ^ s.jsize) + off) bs

/-- The packet in the next slot of a queue is accepted, if its KIND is one that suits: the journal first, then KIND := 0, then RI; a
packet that R418 refuses is final at once, and the refusal is logged under the slot's address (R419, R422). -/
def State.accept (s : State) (q : Nat) (suits : Nat → Bool) : Option (State × Packet) :=
  let x := s.queue q
  let a := x.slotAddr
  let bs := s.sysRead a x.slotBytes
  let kind := x.kindOf bs
  if !(s.mayAccept q) || kind = 0 || !(suits kind) then none
  else
    let seq := s.jwr.toNat
    let body := if x.ver = 1 then v1Body bs else bs
    let h : Dword := BitVec.ofNat 64 (ofBytes (body.take 8))
    let bad := kind ≠ 15 && (if x.ver = 1 then v1Bad bs else v2Bad bs)
    let p : Packet :=
      { seq := seq, q := q, ctx := x.ctx, kind := kind, tag := bitsAt h 32 32, crq := bitAt h 16, slot := x.slot, body := body
        done := 0, status := if bad then some 1 else none, cause := 0, addr := if bad then BitVec.ofNat 64 a else 0, open_ := 1, rootErr := false, part := []
        late := 0 }
    let s := s.journal seq 0 (bytesOf seq 8 ++ bytesOf q 2 ++ [1, 0] ++ bytesOf x.slot 4 ++ (sha3x512 bs).take 8 ++ bytesOf s.tb 8)
    let s := s.sysStore a [if x.ver = 1 then BitVec.ofNat 8 ((bs.headD 0).toNat / 16 * 16) else 0]
    let s := s.updQueue q (fun x => { x with ri := x.ri + 1 })
    let s := if bad then s.logPkg a x.ctx 13 10 0 else s
    some ({ s with jwr := s.jwr + 1, packets := s.packets ++ [p] }, p)

/-- A packet accepted by an event, and what it does where it is not refused. -/
def State.acceptAs (s : State) (q : Nat) (suits : Nat → Bool) (act : State → Packet → State) : Host.Outcome State Fault Refusal :=
  match s.accept q suits with
  | none => .next s
  | some (t, p) => .next (if p.status.isSome then t else act t p)

/-- PACKET_LAUNCH (R417): the insert sets out. -/
def State.launchPacket (s : State) (p : Packet) : State :=
  let h := p.word 0
  let i : PendIns :=
    { id := s.nextId, pot := 36, ctx := p.ctx, die := 0, src := .packet p.seq, space := 4, addr := p.word 1, bad := false, img := none
      key := if bitAt h 18 then some (p.word 2) else none, words01 := if bitAt h 19 then some (p.word 3) else none, nb := false
      ns := false, level := 4, timeout := none, podN := none, seq := 0, frag := 0, dbg := false, old := false
      spfull := false, stalled := false, again := false, sent := none, ghost := none }
  { s with
    nextId := s.nextId + 1, inserts := s.inserts ++ [i]
    packets := s.packets.map (fun (x : Packet) => if x.seq = p.seq && p.word 4 ≠ 0 then { x with open_ := 2 } else x) }

def execPacketLaunch (q : Nat) (s : State) : Host.Outcome State Fault Refusal :=
  s.acceptAs q (fun k => k = 1) State.launchPacket

/-- PACKET_COPY (R417): the copy enters the package engine's queue; one with nothing to move is over, one that reaches past the
address space is denied. -/
def State.copyPacket (s : State) (p : Packet) : State :=
  let h := p.word 0
  let len := (p.word 3).toNat
  let loc := fun (host : Bool) (a : Dword) => if host then Loc.host a.toNat else Loc.virt p.ctx 0 a.toNat
  let far := fun (host : Bool) (a : Dword) => !host && 2 ^ 57 < a.toNat + len
  if far (bitAt h 20) (p.word 1) then s.packetDone p.seq 3 0x11 0
  else if far (bitAt h 21) (p.word 2) then s.packetDone p.seq 3 0x11 0
  else
    let c : Copy :=
      { id := s.nextId, who := .packageSeq, place := .package, up := false, flying := false, ctx := p.ctx
        src := loc (bitAt h 21) (p.word 2), dsts := [loc (bitAt h 20) (p.word 1)], rows := 1, width := len, sstride := 0
        dstride := 0, bars := [], done := [], failed := [], fw := false, pois := false, tids := [], packet := some p.seq
        ret := none, mask := 0, home := none, marked := [], gone := false, got := [], fwAt := 0 }
    (({ s with nextId := s.nextId + 1, copies := s.copies ++ [c] } : State).feedCopies).testCopy c.id

def execPacketCopy (q : Nat) (s : State) : Host.Outcome State Fault Refusal :=
  s.acceptAs q (fun k => k = 2) State.copyPacket

/-- PACKET_ARM (R417): an arm of die 0 at level pkg. -/
def State.armPacket (s : State) (p : Packet) : State :=
  let h := p.word 0
  let tag := bitAt h 22
  let a : Arm :=
    { ctx := p.ctx, img := redImage 0 0 0 0 0 0, level := 4, isTag := tag, arg := p.word 2,
      period := if tag then 0 else p.word 3, persist := bitAt h 23, gen := 0, order := 0, fired := 0, waiting := none, backlog := [] }
  let i : PendArm :=
    { id := s.nextId, die := 0, ctx := p.ctx, who := none, packet := some p.seq, space := 4, addr := p.word 1, arm := a, nb := false
      sd := 0, seq := 0, frag := 0, dbg := false, badArg := false, bad := false, stalled := false, gone := false }
  { s with nextId := s.nextId + 1, pendArms := s.pendArms ++ [i] }

def execPacketArm (q : Nat) (s : State) : Host.Outcome State Fault Refusal :=
  s.acceptAs q (fun k => k = 3) State.armPacket

/-- PACKET_SIGNAL (R417): the value is stored or added at once, or when the word's translation is there. -/
def execPacketSignal (q : Nat) (s : State) : Host.Outcome State Fault Refusal :=
  s.acceptAs q (fun k => k = 4) (fun s p => s.performSignal p.seq)

/-- A FENCE whose earlier packets are all final is final (R417). -/
def State.testFence (s : State) (q : Nat) : State :=
  match s.packets.find? (fun p => p.q = q && p.kind = 5 && p.status.isNone) with
  | none => s
  | some f => if s.packets.any (fun p => p.q = q && p.seq < f.seq && p.status.isNone) then s else s.packetDone f.seq 0 0 0

/-- PACKET_FENCE (R417): accepted, and over once every earlier packet of its queue is final. -/
def execPacketFence (q : Nat) (s : State) : Host.Outcome State Fault Refusal :=
  match s.accept q (fun k => k = 5) with
  | none => .next (s.testFence q)
  | some (t, _) => .next (t.testFence q)

/-- PACKET_SKIP (R414): a SKIP has status 0 and no effect. A slot of a KIND that no packet has is refused here (R418). -/
def execPacketSkip (q : Nat) (s : State) : Host.Outcome State Fault Refusal :=
  s.acceptAs q (fun k => k = 15 || 5 < k) (fun s p => s.packetDone p.seq 0 0 0)

-- completion (R419, R420)

/-- COMPLETION_RECORD (R419, R420): the journal has the final status before the completion record is written. -/
def execCompletionRecord (seq : Nat) (s : State) : Host.Outcome State Fault Refusal :=
  match (if s.stopped then none else s.packet seq) with
  | none => .next s
  | some p =>
    match p.status with
    | none => .next s
    | some st =>
      let s := (s.journal seq 11 (bytesOf st 1)).journal seq 10 [2]
      let s := if p.crq then
          s.complete p.q seq (completionBytes seq (if p.kind = 2 then p.done else 0) st p.cause p.q p.tag p.addr.toNat)
        else s
      let s : State := { s with packets := s.packets.filter (fun x => x.seq ≠ seq) }
      .next (s.testFence p.q)

/-- JRD_WRITE (R410, R420). -/
def execJrdWrite (v : BitVec 64) (s : State) : Host.Outcome State Fault Refusal := .next { s with jrd := v }

/-- The fault-buffer entries of a context that are not yet in its ring, in the order in which their faults were recorded (R412). -/
def State.unreported (s : State) (ctx : Nat) : List (Nat × Nat × Nat) :=
  let es := (List.range 4).flatMap (fun d => ((s.die d).faults.filter (fun f => f.2.ctx = ctx && !f.2.reported)).map (fun f =>
    (f.2.order, d, f.1)))
  es.foldl (fun l x => (l.takeWhile (fun y => y.1 < x.1)) ++ x :: l.dropWhile (fun y => y.1 < x.1)) []

/-- A write of FRRD (R412): ignored where the context is FREE or RD would exceed WI; the records that wait are written. -/
def State.writeFrrd (s : State) (ctx : Nat) (v : Dword) : State :=
  let c := s.ctxOf ctx
  if c.st == CtxSt.free || c.frwi < v then s
  else
    let s := s.updCtx ctx (fun c => { c with frrd := v })
    (s.unreported ctx).foldl (fun s x => s.reportFault x.2.1 x.2.2) s

def execFrrdWrite (ctx : Nat) (v : BitVec 64) (s : State) : Host.Outcome State Fault Refusal :=
  if 2048 ≤ ctx then .next s else .next (s.writeFrrd ctx v)

end Sys2Proof.Machine
end

