-- ==== Sys2Proof/Machine/Package.lean ====
section
/-! DEFINITION. The package's own commands and events: contexts (R407, R408), suspend and resume (R425, R426), system messages and the
time base (R393, R394), memory errors (R188, R216, R366, R406), boot and attestation (R423), power (R424), the host link and
the host's memory window (R421). -/
namespace Sys2Proof.Machine

-- contexts

/-- What a command on a context answers in CTXST.ERR (R408). -/
def State.ctxError (s : State) (e : Bool) : State := { s with ctxErr := e }

/-- PRCFG where the descriptor gives none (R320, R407). -/
def prcfgReset : Dword := 0xF000100000320000

/-- The descriptor of context `n`, as CREATE reads it (R407), with the key of the given serial; none where it is malformed: a field
outside its range or alignment, a reserved bit, a ring or save area that package memory open to software does not hold,
poison. -/
def State.descriptor (s : State) (n key : Nat) : Option Ctx :=
  let a := s.ctxbase.toNat + 128 * n
  let b := s.sysRead a 128
  let w := fun (i n : Nat) => ofBytes ((b.drop i).take n)
  let holds := fun (base len : Nat) => base % 4096 = 0 && base + len ≤ Config.reservedBase
  let ok := a + 128 ≤ Config.packageBytes && !(s.poisoned a 128) && holds (w 0 8) 4096 && w 8 8 % 64 = 0 && w 8 8 < 2 ^ 57
    && holds (w 16 8) (4096 * w 24 4) && 1 ≤ w 28 2 && w 30 1 ≤ 1 && w 31 1 = 0 && 4 ≤ w 48 1 && w 48 1 ≤ 16
    && holds (w 40 8) (32 * 2 ^ w 48 1) && w 49 1 = 0 && w 52 76 = 0
  if !ok then none
  else some
    { st := .live, revoked := false, troot := w 0 8, codebase := w 8 8, savebase := w 16 8, savepages := w 24 4, quantum := w 28 2
      debug := w 30 1 = 1
      prcfg := if w 32 8 = 0 then prcfgReset else BitVec.ofNat 64 (w 32 8) &&& 0xFFFFFFFFFFFF0000
      frbase := w 40 8, frsize := w 48 1, msiv := w 50 2, key := key, prcfgWas := none, shKey := Config.drawnShKey key, prgen := 0, bindings := []
      frwi := 0, frrd := 0 }

/-- CREATE (R408). -/
def State.createCtx (s : State) (n : Nat) : State :=
  if (s.ctxOf n).st != CtxSt.free then s.ctxError true
  else match s.descriptor n s.nextKey with
  | none => s.ctxError true
  | some c => ({ s with nextKey := s.nextKey + 1, ctxs := s.ctxs.put n c } : State).ctxError false

/-- What DESTROY does to a context (R408); the counts of its fault ring stand, unless `zero` says that a RESET zeroes them (R412). -/
def State.eraseCtx (s : State) (n : Nat) (zero : Bool) : State :=
  let c := s.ctxOf n
  let s := s.discardContext n
  { s with
    queues := s.queues.map (fun q => (q.1, if q.2.ctx = n then { q.2 with en := false } else q.2))
    ctxs := s.ctxs.put n (if zero then Ctx.reset else { Ctx.reset with frwi := c.frwi, frrd := c.frrd }) }

/-- DESTROY (R408). -/
def State.destroyCtx (s : State) (n : Nat) : State :=
  if (s.ctxOf n).st == CtxSt.free then s.ctxError true else (s.eraseCtx n false).ctxError false

/-- RESET (R408): as DESTROY, then CREATE. -/
def State.resetCtx (s : State) (n : Nat) : State :=
  if (s.ctxOf n).st == CtxSt.free then s.ctxError true else (s.eraseCtx n true).createCtx n

/-- REVOKE (R408): the key is revoked, and the context faults at once. -/
def State.revokeCtx (s : State) (n : Nat) : State :=
  if (s.ctxOf n).st == CtxSt.free then s.ctxError true
  else
    let s := s.updCtx n (fun c => { c with revoked := true })
    (if (s.ctxOf n).st == CtxSt.live then s.faultContext n (s.ctxOf n).savebase else s).ctxError false

/-- SWITCH (R408): every core of the context is pre-empted with PKIND 3. -/
def State.switchCtx (s : State) (n : Nat) : State :=
  if (s.ctxOf n).st == CtxSt.free then s.ctxError true
  else
    let t := s.holdContext n
    let mark := fun (c : Core) => { c with switched := c.switched || (c.ctx = some n && c.preempt.isSome) }
    ({ t with cores := t.cores.map (fun c => (c.1, mark c.2)) } : State).ctxError false

/-- CTXST.BUSY (R408): a SWITCH has cores that are still being pre-empted. Every other command is complete at once. -/
def State.ctxBusy (s : State) : Bool := s.coreList.any (fun n => (s.core n).switched && (s.core n).preempt.isSome)

/-- A command on a context, which BUSY keeps from being taken (R408). -/
def State.command (s : State) (ctx : Nat) (f : State → Nat → State) : State := if 2048 ≤ ctx || s.ctxBusy then s else f s ctx

def execCreate (ctx : Nat) (s : State) : Host.Outcome State Fault Refusal :=
  .next (s.command ctx State.createCtx)
def execDestroy (ctx : Nat) (s : State) : Host.Outcome State Fault Refusal :=
  .next (s.command ctx State.destroyCtx)
def execReset (ctx : Nat) (s : State) : Host.Outcome State Fault Refusal :=
  .next (s.command ctx State.resetCtx)
def execRevoke (ctx : Nat) (s : State) : Host.Outcome State Fault Refusal :=
  .next (s.command ctx State.revokeCtx)
def execSwitch (ctx : Nat) (s : State) : Host.Outcome State Fault Refusal :=
  .next (s.command ctx State.switchCtx)

-- suspend and resume

/-- Whether everything that a suspend waits for is over (R425, R459): no core, cluster or die has an owner's work in place, the copies
stand at a boundary, no request awaits a response other than RETRY, and no peer's request waits here. -/
def State.drained (s : State) : Bool :=
  (List.range 256).all (fun n => (s.core n).blocks.isEmpty && (s.core n).preempt.isNone)
    && (List.range 32).all (fun c => (s.clusterOwner c).isNone) && (List.range 4).all (fun d => (s.die d).owner.isNone)
    && s.copies.all Copy.atBoundary && s.reqs.all (fun r => r.retry) && s.held.isEmpty

/-- The package image (R425): what it holds has a layout of the package's own; it lies at the start of the reserved region. -/
def State.packageImage (s : State) : SavedImg :=
  let xs : List Section := [⟨0, 0, 0, Config.packagePages % 65536, none⟩]
  { id := s.nextId, ctx := 0xFFFF, gen := s.suspends, base := Config.reservedBase, pages := imagePages xs, dir := directory 1 xs
    what := .die 4 [], pois := [], suspended := true }

/-- The package image is written under the system key, and the package stops (R425). -/
def State.sleep (s : State) : State :=
  let s : State := { s with suspends := s.suspends + 1 }
  let i := s.packageImage
  let xs : List Section := [⟨0, 0, 0, Config.packagePages % 65536, none⟩]
  let s := s.bulkStore 0 i.base (imageBytes (Config.saveKey 0) 0xFFFF i.gen 0xFFFF xs)
  { s with nextId := s.nextId + 1, images := s.images ++ [i], stopped := true, suspst := 2, power := 3 }

/-- SUSPEND (R425): every block is pre-empted with PKIND 2; tried again, the package image is written once the rest is done. -/
def State.suspend (s : State) : State :=
  if s.suspst = 0 then
    (List.range 256).foldl (fun s n => s.requestPreempt n 2) { s with suspst := 1, suspendAt := s.tb }
  else if s.suspst = 1 && s.drained then s.sleep
  else s

/-- A command goes to every package of the pod in the system class (R425, R437); `v` is 0 for suspend, 1 for resume. -/
def State.broadcast (s : State) (v : Nat) : State :=
  ((List.range 1057).filter (fun d => d ≠ s.fabid.toNat && s.hasPath d)).foldl (fun s d =>
    s.sendMsg { Msg.to d 3 12 with aop := v }) s

/-- RESUME (R426): a package image that fails its check faults every context; otherwise the ports come up and what was saved comes
back, dies, clusters, cores. With every image back, queues and dispatch start again. -/
def State.resume (s : State) : State :=
  if s.suspst = 2 then
    match s.images.find? (fun i => i.ctx = 0xFFFF) with
    | none => s
    | some i =>
      let ok := (s.badPages i).isEmpty
      let s : State := { s.dropImage i.id with stopped := false, power := if s.clockStep = 0 then 0 else 1 }
      if ok then
        let s : State := { s with
          suspst := 3
          ports := s.ports.map (fun p => (p.1, if p.2.en && p.2.st ≠ 6 && s.fabid ≠ 0x7FF then { p.2 with st := 1, since := s.tb } else p.2)) }
        s.reroute
      else
        (List.range 2048).foldl (fun s n =>
          if (s.ctxOf n).st == CtxSt.live then s.faultContext n Config.reservedBase else s) { s with suspst := 4 }
  else if s.suspst = 3 && s.images.all (fun i => !i.suspended) then { s with suspst := 0 }
  else s

def execSuspend (s : State) : Host.Outcome State Fault Refusal := .next s.suspend
/-- POD_SUSPEND (R425): the command goes out when the package begins. -/
def execPodSuspend (s : State) : Host.Outcome State Fault Refusal :=
  .next (if s.suspst = 0 then (s.broadcast 0).suspend else s.suspend)
def execResume (s : State) : Host.Outcome State Fault Refusal := .next s.resume
/-- POD_RESUME (R426). -/
def execPodResume (s : State) : Host.Outcome State Fault Refusal :=
  .next (if s.suspst = 2 then s.resume.broadcast 1 else s.resume)

-- the time base

/-- A measurement of the offset from the reference to the time base (R393, R394): it is shown, saturated; a forward offset above 1 ms
is stepped over where STEPOK allows. Slewing is part of how time passes. -/
def State.measured (s : State) (off : Int) : State :=
  let sat := if off < -(2 ^ 31 : Int) then -(2 ^ 31 : Int) else if (2 ^ 31 : Int) ≤ off then 2 ^ 31 - 1 else off
  let s : State := { s with tbOffset := BitVec.ofInt 32 sat, tbLocked := off.natAbs ≤ 1000 }
  if 1000000 < off ∧ bitAt s.tbcfg 2 then { s with tb := s.tb + off.toNat } else s

/-- How long an announced PTP master stands without another announcement, in nanoseconds: three announce intervals of 2 s, as the
default profile of IEEE 1588-2019 has them (R394; notes/assumptions 130: PRESUMED). -/
def announceTimeout : Nat := 6000000000

/-- The data set of the best master announced at a port, while it stands (R394). -/
def State.masterAt (s : State) (port : Nat) : Option Nat :=
  match s.masters.find port with
  | none => none
  | some m => if s.tb < m.2 + announceTimeout then some m.1 else none

/-- Whether the package takes part in PTP in a domain (R393, R394). -/
def State.inDomain (s : State) (domain : Nat) : Bool :=
  bitsAt s.tbcfg 0 2 = 1 && bitsAt s.tbcfg 8 8 = domain && !s.stopped

/-- An announcement of a master at a port: the port keeps the best (R394). -/
def State.announced (s : State) (port dataset : Nat) : State :=
  if (s.masterAt port).any (fun m => m < dataset) then s else { s with masters := s.masters.put port (dataset, s.tb) }

/-- Whether a port leads to the master that the best master clock algorithm chooses (R394): no port has a better one, the lower
number of two alike, and the package, where it may be grandmaster, is not better itself. -/
def State.followsPort (s : State) (port : Nat) : Bool :=
  match s.masterAt port with
  | none => false
  | some m =>
    !(bitAt s.tbcfg 3 && Config.ptpDataset < m)
      && s.masters.all (fun p => (s.masterAt p.1).all (fun k => m < k || (m = k && port ≤ p.1)))

/-- PRECISION_TIME_MEASUREMENT (R393): the host's time, where TBCFG.SRC is 2. -/
def execPrecisionTimeMeasurement (t : BitVec 64) (s : State) : Host.Outcome State Fault Refusal :=
  .next (if bitsAt s.tbcfg 0 2 = 2 ∧ !s.stopped then s.measured ((t.toNat : Int) - s.tb) else s)

/-- SYSTEM_MESSAGE (R437): PTP, the broadcasts of suspend and resume, route events; one with a reserved bit set in its header is answered
as any other message is (R438). -/
def execSystemMessage (m : SystemMsg) (s : State) : Host.Outcome State Fault Refusal :=
  if m.header.op ≠ 12 ∨ m.header.dest ≠ s.fabid.toNat then .next s
  else if m.header.rsv then .next ((s.screen m.header).getD s)
  else match m.body with
  | .ptp port domain off => .next (if s.inDomain domain && s.followsPort port then s.measured off else s)
  | .announce port domain dataset => .next (if s.inDomain domain && port < 36 then s.announced port dataset else s)
  | .suspend => .next s.suspend
  | .resume => .next s.resume
  | .route d minok direct mid ports =>
    .next (if 1057 ≤ d || s.stopped then s
      else
        let v := fieldAt 63 (b2n minok) ||| fieldAt 62 (b2n direct) ||| fieldAt 51 (mid % 2048) ||| ports.setWidth 64
        State.noteCuts { s with rtent := s.rtent.put d v })

-- memory errors

/-- The context that a place of the flat memory works for, for the error log: the core's, the owner of the cluster or die. -/
def State.ctxAt (s : State) (k : Nat) : Nat :=
  if 2 ^ 42 ≤ k then ((s.core ((k - 2 ^ 42) / 2 ^ 19)).ctx).getD 0
  else if 2 ^ 41 ≤ k then ((s.clusterOwner ((k - 2 ^ 41) / 2 ^ 23))).getD 0
  else ((s.die ((k - 2 ^ 40) / 2 ^ 26)).owner).getD 0

/-- The error logs' record of an uncorrectable error that no access has met (R390, R406): its SRC, and in package memory its CTX, are
not stated. -/
def State.logCell (s : State) (k : Nat) : State :=
  let src := bitsAt (Config.freeDword s.draws) 0 8
  let s : State := { s with draws := s.draws + 1 }
  let at_ := fun (base size : Nat) => (k - base) % size / 64 * 64
  if k < Config.packageBytes then s.logPkg (k / 64 * 64) (bitsAt (Config.freeDword (s.draws - 1)) 8 16) src 2 0
  else if 2 ^ 42 ≤ k then s.logDie ((k - 2 ^ 42) / 2 ^ 25) (at_ (2 ^ 42) (2 ^ 19)) (s.ctxAt k) src 2 0
  else if 2 ^ 41 ≤ k then s.logDie ((k - 2 ^ 41) / 2 ^ 26) (at_ (2 ^ 41) (2 ^ 23)) (s.ctxAt k) src 2 0
  else s.logDie ((k - 2 ^ 40) / 2 ^ 26) (at_ (2 ^ 40) (2 ^ 26)) (s.ctxAt k) src 2 0

/-- Whether a number names a byte of a memory of the package (R164, R404). -/
def isMemory (k : Nat) : Bool :=
  k < Config.packageBytes || (2 ^ 40 ≤ k && k < 2 ^ 40 + 4 * 2 ^ 26) || (2 ^ 41 ≤ k && k < 2 ^ 41 + 32 * 2 ^ 23)
    || (2 ^ 42 ≤ k && k < 2 ^ 42 + 256 * 2 ^ 19)

/-- A copy engine meets an uncorrectable error at a byte: its granule is poisoned (R188), and the package error log names one of package
memory (R406). -/
def State.hitGranule (s : State) (k ctx : Nat) : State :=
  let s := s.setPoison (k / 64)
  if k < Config.packageBytes then s.logPkg (k / 64 * 64) ctx 4 2 0 else s

/-- An engine's own write meets an uncorrectable error at a destination (R216, R366): the granule is poisoned until the copy has written
it whole, and the copy goes on by firmware; a granule of a multicast's member that fails there too ends the member. -/
def State.copyDstError (s : State) (c : Copy) (p m : Nat) : State :=
  match c.dsts[m]? with
  | none => s
  | some d =>
    let addr := (d.addr + c.dstOff p) / 64 * 64
    if c.mask ≠ 0 then
      if !c.fw then s.toFirmware c addr
      else if c.isOver m then s else (s.logDie c.die addr c.ctx 4 5 1).failMember c.id m 1
    else (match s.placeOf c.die d (c.dstOff p) kWrite with
      | .ok (some k) => s.hitGranule k.1 c.ctx
      | .ok none => s
      | .wait => s
      | .bad _ => s).toFirmware c addr

/-- The granule of a copy's source that an uncorrectable error has hit (R188, R216). -/
def State.copySrcError (s : State) (c : Copy) (p : Nat) : State :=
  match s.placeOf c.die c.src (c.srcOff p) kRead with
  | .ok (some k) => (s.hitGranule k.1 c.ctx).toFirmware c (c.src.addr + c.srcOff p)
  | .ok none => s
  | .wait => s
  | .bad _ => s

/-- UNCORRECTABLE_ERROR (R188, R216, R239, R321, R366, R406). -/
def execUncorrectableError (e : MemError) (s : State) : Host.Outcome State Fault Refusal :=
  match e with
  | .image p off => .next (s.imageError p off)
  | .cell k => .next (if isMemory k then (s.setPoison (k / 64)).logCell k else s)
  | .tileRow core tile row =>
    .next (if 256 ≤ core || 8 ≤ tile || 64 ≤ row then s
      else
        let n := 64 * tile + row
        (s.updCore core (fun c => { c with zpoison := if c.zpoison.contains n then c.zpoison else n :: c.zpoison })).logDie (core / 64)
          n (((s.core core).ctx).getD 0) 5 2 0)
  | .copySrc id p =>
    (match s.copyOf id with
      | none => .next s
      | some c => .next (if !c.flying || c.pieces ≤ p then s else s.copySrcError c p))
  | .copyDst id p m =>
    (match s.copyOf id with
      | none => .next s
      | some c => .next (if !c.flying || c.pieces ≤ p then s else s.copyDstError c p m))

/-- SCRUB (R406): the errors it corrects are counted; what it cannot correct is poisoned by an UNCORRECTABLE_ERROR. -/
def execScrub (stack corrected : Nat) (s : State) : Host.Outcome State Fault Refusal :=
  if 12 ≤ stack then .next s
  else .next { s with ecccor := s.ecccor.put stack (BitVec.ofNat 32 (satAt 32 ((s.ecccor.get stack 0).toNat + corrected))) }

-- power

/-- RAIL_ALARM (R424): the clock is lowered by 100 MHz, or raised again. -/
def execRailAlarm (lower : Bool) (s : State) : Host.Outcome State Fault Refusal :=
  if 2 ≤ s.power then .next s
  else
    let n := if lower then s.clockStep + 1 else s.clockStep - 1
    .next { s with clockStep := n, power := if n = 0 then 0 else 1 }

/-- IDLE_GATING (R424): no context holds a core. -/
def execIdleGating (s : State) : Host.Outcome State Fault Refusal :=
  if s.power < 2 && (List.range 256).all (fun n => (s.core n).blocks.isEmpty) then .next { s with power := 2 } else .next s

-- boot and attestation

/-- PACKAGE_RESET (R423): the state after reset with the measurements of a further boot, or in recovery. What the turns are, and what
names free values and keys, goes on. -/
def execPackageReset (boots : Bool) (s : State) : Host.Outcome State Fault Refusal :=
  .next { State.reset with
    measure := (List.range 8).map (fun i => (i, s.measure.get i 0 + 1)), recovery := !boots
    suspst := if boots then 0 else 4, agenda := s.agenda, nextKey := s.nextKey, draws := s.draws, nextId := s.nextId }

/-- SPDM_REQUEST (R423): an answer, or ERROR with UnsupportedRequest. The codes of the requests and of the error are SPDM's. -/
def execSpdmRequest (code : BitVec 8) (s : State) : Host.Outcome State Fault Refusal :=
  let known : List (BitVec 8) := [0x84, 0xE1, 0xE3, 0x81, 0x82, 0x83, 0xE0]
  if known.contains code then
    .next { s with answers := s.answers ++ [Config.spdmAnswer code.toNat s.draws], draws := s.draws + 1 }
  else .next { s with answers := s.answers ++ [[0x13, 0x7F, 0x07, code]] }

-- the host link

/-- HOST_LINK_TRAINING (R421): mode 0 CXL 3.1, 1 CXL 2.0, 2 PCIe 6.0, at x16, x8 or x4. -/
def execHostLinkTraining (mode width : Nat) (s : State) : Host.Outcome State Fault Refusal :=
  if 2 < mode || !([16, 8, 4].contains width) then .next s else .next { s with linkMode := mode, linkWidth := width }

/-- Whether the host reaches some bytes of package memory (R404, R421). -/
def hostReaches (a n : Nat) : Bool := a + n ≤ Config.reservedBase

/-- A read of the host returns data with the link's poison indication (R406), under the system key (R405). -/
def State.hostAnswer (s : State) (a n : Nat) : State :=
  let bs := if hostReaches a n then s.sysRead a n else (List.range n).map (fun i => Config.absentByte (a + i))
  { s with answers := s.answers ++ [(if s.poisoned a n && hostReaches a n then 1 else 0) :: bs] }

/-- HOST_MEMORY_ACCESS (R405, R406, R421): none while the memory is in retention, nor over CXL in recovery, where the link carries
CXL.io alone (R423); a write to the reserved region has no effect and is logged. -/
def execHostMemoryAccess (x : HostAccess) (s : State) : Host.Outcome State Fault Refusal :=
  if s.stopped || (s.recovery && s.linkMode ≠ 2) then .next s
  else match x with
  | .read a n => .next (s.hostAnswer a n)
  | .write a bs => .next (if hostReaches a bs.length then s.sysStore a bs else s.logPkg a 0 10 1 0)
  | .fetchAdd a v =>
    .next (if !(hostReaches a 8) then (s.hostAnswer a 8).logPkg a 0 10 1 0
      else if s.poisoned a 8 then s.hostAnswer a 8
      else (s.hostAnswer a 8).sysStore a (bytesOf ((s.sysWord a + v.toNat) % 2 ^ 64) 8))

-- the package error log

/-- PELPOP (R422). -/
def State.popLog (s : State) : State :=
  if s.pelog.isEmpty then s else { s with pelog := s.pelog.drop 1, pelHead := (s.pelHead + 1) % 256 }
def execPelpop (s : State) : Host.Outcome State Fault Refusal := .next s.popLog

end Sys2Proof.Machine
end

