-- ==== Sys2Proof/Machine/HostRegs.lean ====
section
/-! DEFINITION. The host register window (R409 to R412, R415, R460, R477): what a write does, and what each register reads as. -/
namespace Sys2Proof.Machine

-- masks of the writable bits

def maskBase : Dword := 0x000FFFFFFFFFF000
def maskScCfg : Dword := 0x0000FFFF00FFFF03
def maskTbCfg : Dword := 0xFF0F
def maskTinv0 : Dword := 0x01FFFFFFFFFFF03F
def maskFresLo : Dword := 0xFFFFFFFFFF

-- package registers (R410)

/-- CTXCMD (R408): operation `op` on context `n`. -/
def State.ctxCommand (s : State) (op n : Nat) : State :=
  s.command n (if op = 1 then State.createCtx else if op = 2 then State.destroyCtx else if op = 3 then State.resetCtx
    else if op = 4 then State.revokeCtx else if op = 5 then State.switchCtx else fun s _ => s)

/-- SUSPCTL (R425, R426). -/
def State.suspCtl (s : State) (v : Dword) : State :=
  if !(bitAt v 63) then s
  else if bitAt v 0 then (if bitAt v 1 && s.suspst = 2 then s.resume.broadcast 1 else s.resume)
  else (if bitAt v 1 && s.suspst = 0 then (s.broadcast 0).suspend else s.suspend)

/-- A write of a package register (R410). -/
def State.writePkgReg (s : State) (off : Nat) (v : Dword) : State :=
  if off = 0x000 then { s with ctxbase := v &&& maskBase }
  else if off = 0x008 then (if bitAt v 63 then s.ctxCommand (bitsAt v 16 3) (bitsAt v 0 11) else s)
  else if off = 0x018 then
    (if 1000 ≤ bitsAt v 0 16 ∧ bitsAt v 0 16 ≤ 3000 then { s with pwrcap := v.setWidth 16 } else s)
  else if off = 0x020 then s.suspCtl v
  else if off = 0x030 then { s with jbase := v &&& maskBase }
  else if off = 0x038 then (if 8 ≤ bitsAt v 0 5 ∧ bitsAt v 0 5 ≤ 20 then { s with jsize := bitsAt v 0 5 } else s)
  else if off = 0x048 then { s with jrd := v }
  else if off = 0x050 then (if bitsAt v 0 8 = 0 then s else { s with scrub := v.setWidth 8 })
  else if 0x080 ≤ off ∧ off < 0x0E0 then
    (let n := (off - 0x080) / 8
     { s with ecccor := s.ecccor.put n (s.ecccor.get n 0 &&& ~~~(v.setWidth 32)) })
  else s

-- queue descriptors (R415)

/-- A queue whose CTX is not LIVE is not enabled (R408). -/
def State.queueLive (s : State) (q : Nat) : State :=
  s.updQueue q (fun x => { x with en := x.en && (s.ctxOf x.ctx).st == CtxSt.live })

/-- A write of a doubleword of queue descriptor `q`: bytes 0 to 26 stand while EN is 1. -/
def State.writeQueue (s : State) (q off : Nat) (v : Dword) : State :=
  let x := s.queue q
  let locked := fun (f : Queue → Queue) => if x.en then s else s.updQueue q f
  if off = 0 then locked (fun x => { x with qbase := v &&& 0x000FFFFFFFFFFFC0 })
  else if off = 8 then locked (fun x => { x with qwi := v &&& 0x000FFFFFFFFFFFF8 })
  else if off = 16 then locked (fun x => { x with crbase := v &&& maskBase })
  else if off = 24 then
    (let s := s.updQueue q (fun x => { x with ctx := bitsAt v 32 16, msiv := bitsAt v 48 16, en := x.en && bitAt v 24 })
     let s := if x.en then s
       else s.updQueue q (fun x => { x with qsize := bitsAt v 0 8, crsize := bitsAt v 8 8, ver := bitsAt v 16 8 })
     (if !x.en && bitAt v 24 then s.enableQueue q else s).queueLive q)
  else if off = 40 then s.readWi q
  else s

/-- A doubleword of a queue descriptor (R415). -/
def Queue.readReg (x : Queue) (off : Nat) : Dword :=
  if off = 0 then x.qbase
  else if off = 8 then x.qwi
  else if off = 16 then x.crbase
  else if off = 24 then
    fieldAt 0 x.qsize ||| fieldAt 8 x.crsize ||| fieldAt 16 x.ver ||| fieldAt 24 (b2n x.en) ||| fieldAt 32 x.ctx ||| fieldAt 48 x.msiv
  else if off = 32 then x.ri
  else 0

/-- A write of `len` bytes at byte `off` of queue descriptor `q`, within a doubleword: its other bytes stand (R415). -/
def State.writeQueuePart (s : State) (q off len : Nat) (v : Dword) : State :=
  let m : Dword := BitVec.ofNat 64 ((2 ^ (8 * len) - 1) <<< (8 * (off % 8)))
  let at_ := off / 8 * 8
  s.writeQueue q at_ (((s.queue q).readReg at_ &&& ~~~m) ||| ((v <<< (8 * (off % 8))) &&& m))

-- die registers (R411)

/-- A write of a register of die `d` (R386, R389, R392, R394, R402). -/
def State.writeDieReg (s : State) (d off : Nat) (v : Dword) : State :=
  if off = 0x000 then s.updDie d (fun x => { x with tinv0 := v &&& maskTinv0 })
  else if off = 0x008 then s.tinv (s.die d).tinv0 v
  else if off = 0x100 then s.updDie d (fun x => { x with sccfg := v &&& maskScCfg })
  else if off = 0x110 then s.sccmd d v
  else if off = 0x200 then
    { s with tbcfg := v &&& maskTbCfg, masters := if (v ^^^ s.tbcfg) &&& 0xFF03 = 0 then s.masters else [] }
  else if off = 0x310 then
    (if bitAt v 0 && !(s.die d).elog.isEmpty then s.updDie d (fun x => { x with elog := x.elog.drop 1, elHead := (x.elHead + 1) % 64 })
     else s)
  else if off = 0x400 then s.updDie d (fun x => { x with fres0 := v &&& maskFresLo })
  else if off = 0x408 then s.resolve d (s.die d).fres0
  else s

-- stockpots (R352)

/-- The stockpot whose SPCFG and SPSTAT stand from a given offset on (R409). -/
def potAt (off : Nat) : Option (Nat × Nat) :=
  if 0x600000 ≤ off ∧ off < 0x600010 then some (36, off - 0x600000)
  else if 0x601000 ≤ off ∧ off < 0x601400 then some (32 + (off - 0x601000) / 0x100, (off - 0x601000) % 0x100)
  else if 0x602000 ≤ off ∧ off < 0x604000 then some ((off - 0x602000) / 0x100, (off - 0x602000) % 0x100)
  else none

def State.writePotReg (s : State) (off : Nat) (v : Dword) : State :=
  match potAt off with
  | none => s
  | some (p, r) => if r = 0 then s.updPot p (fun x => { x with ageen := bitAt v 7, a := bitsAt v 0 4 }) else s

-- debug ports (R477)

/-- A write of a register of the debug port of core `n`: one of DOPHI starts the operation that PORT_DGET to PORT_BADOP perform. -/
def State.writePort (s : State) (n off : Nat) (v : Dword) : State :=
  if off = 0x000 then s.updPort n (fun p => { p with doplo := v })
  else if off = 0x008 then
    (if (s.core n).port.busy then s else s.updPort n (fun p => { p with dophi := v &&& 0xFFFFFFFF, busy := true }))
  else if off = 0x010 then s.updPort n (fun p => { p with darg := p.darg.put 0 v })
  else if 0x100 ≤ off ∧ off < 0x180 then
    (let l := (off - 0x100) / 4
     s.updPort n (fun p => { p with dvec := (p.dvec.put l (v.setWidth 32)).put (l + 1) ((v >>> 32).setWidth 32) }))
  else s

-- the fabric (R460)

/-- A write of a fabric register other than FABID and PORTCTL. -/
def State.writeFabric (s : State) (off : Nat) (v : Dword) : State :=
  if off = 0xA00008 then
    { s with adapt := v.setWidth 8, rtime := if bitsAt v 16 16 = 0 then s.rtime else BitVec.ofNat 16 (bitsAt v 16 16) }
  else if off = 0xA00010 then { s with expbase := v &&& (maskBase ||| 0x8000000000000000) }
  else if off = 0xA00018 then (if bitAt v 63 && s.fxBusy.isNone then { s with fxBusy := some (bitsAt v 0 12) } else s)
  else if off = 0xA00028 then { s with podroot := v.setWidth 11 }
  else if 0xA01000 ≤ off ∧ off < 0xA01900 ∧ (off - 0xA01000) % 64 = 16 then
    s.updLink ((off - 0xA01000) / 64) (fun p => { p with w := v.setWidth 24 })
  else if 0xA20000 ≤ off ∧ off < 0xA24000 then
    { s with impbase := s.impbase.put ((off - 0xA20000) / 8) (v &&& (maskBase ||| 1)) }
  else s

-- the window (R409)

/-- A write of eight bytes at offset `off` of BAR0; a misaligned one is ignored (R410). -/
def State.hostWrite (s : State) (off : Nat) (v : Dword) : State :=
  if off % 8 ≠ 0 then s
  else if off < 0x100000 then s.writePkgReg off v
  else if off < 0x110000 then s.writeQueue ((off - 0x100000) / 64) ((off - 0x100000) % 64) v
  else if 0x200000 ≤ off ∧ off < 0x240000 then s.writeDieReg ((off - 0x200000) / 0x10000) ((off - 0x200000) % 0x10000) v
  else if 0x300000 ≤ off ∧ off < 0x308000 then
    (if off % 16 = 8 then s.writeFrrd ((off - 0x300000) / 16) v else s)
  else if 0x600000 ≤ off ∧ off < 0x700000 then s.writePotReg off v
  else if off = 0x702008 then (if bitAt v 0 then s.popLog else s)
  else if 0x800000 ≤ off ∧ off < 0x900000 then s.writePort ((off - 0x800000) / 0x1000) ((off - 0x800000) % 0x1000) v
  else if 0xA00000 ≤ off ∧ off < 0xA30000 then s.writeFabric off v
  else s

/-- Whether an access of `len` bytes at offset `off` reaches part of a doubleword of a queue descriptor, whose fields are bytes (R415). -/
def reachesQueue (off len : Nat) : Bool :=
  0x100000 ≤ off && off < 0x110000 && 1 ≤ len && off % 8 + len ≤ 8

/-- HOST_REGISTER_WRITE (R409, R410): a narrower or misaligned one is ignored, but in a queue descriptor (R415); FABID
and the EN of a port have effects of their own (R431). -/
def execHostRegisterWrite (off : Nat) (v : HostStore) (s : State) : Host.Outcome State Fault Refusal :=
  if v.len ≠ 8 then
    .next (if reachesQueue off v.len then s.writeQueuePart ((off - 0x100000) / 64) ((off - 0x100000) % 64) v.len v.val else s)
  else if off = 0xA00000 then execFabidWrite v.val s
  else if 0xA01000 ≤ off ∧ off < 0xA01900 ∧ (off - 0xA01000) % 64 = 0 then
    (if bitAt v.val 0 then execPortEnable ((off - 0xA01000) / 64) s else execPortDisable ((off - 0xA01000) / 64) s)
  else .next (s.hostWrite off v.val)

-- reads

/-- A package register (R410). -/
def State.readPkgReg (s : State) (off : Nat) : Dword :=
  if off = 0x000 then s.ctxbase
  else if off = 0x010 then fieldAt 1 (b2n s.ctxErr) ||| fieldAt 0 (b2n s.ctxBusy)
  else if off = 0x018 then s.pwrcap.setWidth 64
  else if off = 0x028 then BitVec.ofNat 64 s.suspst
  else if off = 0x030 then s.jbase
  else if off = 0x038 then BitVec.ofNat 64 s.jsize
  else if off = 0x040 then s.jwr
  else if off = 0x048 then s.jrd
  else if off = 0x050 then s.scrub.setWidth 64
  else if 0x080 ≤ off ∧ off < 0x0E0 then (s.ecccor.get ((off - 0x080) / 8) 0).setWidth 64
  else 0

/-- Doubleword `j` of place `n` of an error log of `size` entries whose oldest stands at `head` (R390, R422); a place that holds none
reads as a free value, but for the bytes that are zero in every entry. -/
def logWord (l : List LogRec) (head size n j draws : Nat) : Dword :=
  match l[(n + size - head) % size]? with
  | none => if j = 3 then 0 else Config.freeDword draws
  | some r => BitVec.ofNat 64 (ofBytes ((r.bytes.drop (8 * j)).take 8))

/-- A register of a die (R386, R389, R390, R392, R394, R402). -/
def State.readDieReg (s : State) (d off : Nat) : Dword :=
  let x := s.die d
  if off = 0x000 then x.tinv0
  else if off = 0x010 then fieldAt 32 s.tinvDone.toNat
  else if off = 0x100 then x.sccfg
  else if off = 0x108 then fieldAt 32 x.moved.toNat ||| x.cmds.setWidth 64
  else if off = 0x200 then s.tbcfg
  else if off = 0x208 then fieldAt 63 (b2n s.tbLocked) ||| s.tbOffset.setWidth 64
  else if off = 0x300 then
    fieldAt 48 x.nomatch_.toNat ||| fieldAt 32 x.dropped.toNat ||| fieldAt 16 x.missed.toNat ||| fieldAt 0 x.arms.length
  else if off = 0x308 then fieldAt 16 x.elOvf.toNat ||| fieldAt 8 x.elHead ||| fieldAt 0 x.elog.length
  else if off = 0x318 then fieldAt 32 x.walkers.length ||| fieldAt 16 x.stale.toNat ||| fieldAt 0 x.faults.length
  else if off = 0x400 then x.fres0
  else if 0x1000 ≤ off ∧ off < 0x1800 then logWord x.elog x.elHead 64 ((off - 0x1000) / 32) (off % 32 / 8) s.draws
  else 0

/-- SPCFG and SPSTAT (R352). -/
def State.readPotReg (s : State) (off : Nat) : Dword :=
  match potAt off with
  | none => 0
  | some (p, r) =>
    let x := s.pot p
    let w := x.recs.filter (fun e => e.2.st == RecSt.waiting)
    if r = 0 then fieldAt 7 (b2n x.ageen) ||| fieldAt 0 x.a
    else if r = 8 then
      fieldAt 32 (w.filter (fun e => e.2.sealed.isSome)).length ||| fieldAt 16 w.length ||| fieldAt 0 x.recs.length
    else 0

/-- A register of a debug port (R477). -/
def DebugPort.readReg (p : DebugPort) (off : Nat) : Dword :=
  if off = 0x000 then p.doplo
  else if off = 0x008 then p.dophi
  else if off = 0x010 then p.darg.get 0 0
  else if off = 0x030 then p.dres.get 0 0
  else if off = 0x038 then p.dres.get 1 0
  else if off = 0x040 then fieldAt 0 (b2n p.busy)
  else if 0x100 ≤ off ∧ off < 0x180 then
    fieldAt 32 (p.dvec.get ((off - 0x100) / 4 + 1) 0).toNat ||| (p.dvec.get ((off - 0x100) / 4) 0).setWidth 64
  else 0

/-- A register of the fabric (R431, R460). -/
def State.readFabric (s : State) (off : Nat) : Dword :=
  let p := s.link ((off - 0xA01000) / 64)
  if off = 0xA00000 then s.fabid.setWidth 64
  else if off = 0xA00008 then fieldAt 16 s.rtime.toNat ||| s.adapt.setWidth 64
  else if off = 0xA00010 then s.expbase
  else if off = 0xA00018 then fieldAt 62 (b2n s.fxBusy.isSome)
  else if off = 0xA00020 then fieldAt 32 s.refused.toNat ||| s.retried.setWidth 64
  else if off = 0xA00028 then s.podroot.setWidth 64
  else if 0xA01000 ≤ off ∧ off < 0xA01900 then
    (if off % 64 = 0 then fieldAt 0 (b2n p.en)
     else if off % 64 = 8 then
       fieldAt 52 p.peer ||| fieldAt 48 p.st ||| fieldAt 44 p.reason ||| fieldAt 42 p.fails ||| fieldAt 40 p.width
         ||| fieldAt 39 (b2n p.speed) ||| p.retrains.setWidth 64
     else if off % 64 = 16 then p.w.setWidth 64
     else 0)
  else if 0xA10000 ≤ off ∧ off < 0xA10000 + 8 * 1057 then s.rtent.get ((off - 0xA10000) / 8) rtentReset
  else if 0xA20000 ≤ off ∧ off < 0xA24000 then s.impbase.get ((off - 0xA20000) / 8) 0
  else 0

/-- What an aligned doubleword of BAR0 reads as (R409): zero where nothing is assigned. -/
def State.hostRead (s : State) (off : Nat) : Dword :=
  if off % 8 ≠ 0 then 0
  else if off < 0x100000 then s.readPkgReg off
  else if off < 0x110000 then (s.queue ((off - 0x100000) / 64)).readReg ((off - 0x100000) % 64)
  else if 0x200000 ≤ off ∧ off < 0x240000 then s.readDieReg ((off - 0x200000) / 0x10000) ((off - 0x200000) % 0x10000)
  else if 0x300000 ≤ off ∧ off < 0x308000 then
    (let c := s.ctxOf ((off - 0x300000) / 16)
     if off % 16 = 0 then c.frwi else c.frrd)
  else if 0x600000 ≤ off ∧ off < 0x700000 then s.readPotReg off
  else if 0x700000 ≤ off ∧ off < 0x702000 then logWord s.pelog s.pelHead 256 ((off - 0x700000) / 32) (off % 32 / 8) s.draws
  else if off = 0x702000 then fieldAt 16 s.pelOvf.toNat ||| fieldAt 8 s.pelHead ||| fieldAt 0 s.pelog.length
  else if 0x800000 ≤ off ∧ off < 0x900000 then (s.core ((off - 0x800000) / 0x1000)).port.readReg ((off - 0x800000) % 0x1000)
  else if 0xA00000 ≤ off ∧ off < 0xA30000 then s.readFabric off
  else 0

/-- What a read of `len` bytes at offset `off` returns (R409 to R411, R415, R477): a narrower or misaligned one zero, but in a queue
descriptor. -/
def State.hostReadPart (s : State) (off len : Nat) : Dword :=
  if len = 8 then s.hostRead off
  else if reachesQueue off len then
    BitVec.ofNat 64 (bitsAt ((s.queue ((off - 0x100000) / 64)).readReg ((off - 0x100000) % 64 / 8 * 8)) (8 * (off % 8)) (8 * len))
  else 0

end Sys2Proof.Machine
end

