-- ==== Sys2Proof/Machine/Mask.lean ====
section
/-! DEFINITION. Mask instructions: group 2 (R83, R114). -/
namespace Sys2Proof.Machine

/-- The second source of a mask instruction, as read (R83, R114). -/
def Cx.srcM (c : Cx) (f : SFmt) : Word := if f.i then f.imm else c.m f.sb.toNat

/-- A mask written nibble by nibble in the slices where the guard is true, one step later (R114). -/
def Cx.putM (c : Cx) (r : BitVec 6) (f : Nat → BitVec 4) (s : State) : State :=
  c.fixed 1 (c.pass.map (fun j => (j, Tgt.m j r.toNat 15 (f j)))) s

/-- Nibble `j` of a mask. -/
def nibble (x : Word) (j : Nat) : BitVec 4 := x.extractLsb' (4 * j) 4

/-- md := a function of ma and the second source. -/
def mBits (op : Word → Word → Word) (f : SFmt) (c : Cx) (s : State) : Res :=
  .ok (c.putM f.sd (nibble (op (c.m f.sa.toNat) (c.srcM f))) s)

/-- sd := a function of ma as read. -/
def mToS (op : Word → Nat) (f : SFmt) (c : Cx) (s : State) : Res :=
  .ok (c.putS f.sd (fun _ => BitVec.ofNat 64 (op (c.m f.sa.toNat))) s)

def execMand (h : Hdr) (f : SFmt) (s : State) : Host.Outcome State Fault Refusal := issue (.mand h f) h (mBits (fun a b => a &&& b) f) s
def execMor (h : Hdr) (f : SFmt) (s : State) : Host.Outcome State Fault Refusal := issue (.mor h f) h (mBits (fun a b => a ||| b) f) s
def execMxor (h : Hdr) (f : SFmt) (s : State) : Host.Outcome State Fault Refusal := issue (.mxor h f) h (mBits (fun a b => a ^^^ b) f) s
def execMandn (h : Hdr) (f : SFmt) (s : State) : Host.Outcome State Fault Refusal := issue (.mandn h f) h (mBits (fun a b => a &&& ~~~b) f) s
def execMnot (h : Hdr) (f : SFmt) (s : State) : Host.Outcome State Fault Refusal := issue (.mnot h f) h (mBits (fun a _ => ~~~a) f) s
def execMpopc (h : Hdr) (f : SFmt) (s : State) : Host.Outcome State Fault Refusal := issue (.mpopc h f) h (mToS (fun a => popCount a.toNat 32) f) s
def execMffs (h : Hdr) (f : SFmt) (s : State) : Host.Outcome State Fault Refusal := issue (.mffs h f) h (mToS (fun a => lowestBit a.toNat 0 32) f) s
def execMget (h : Hdr) (f : SFmt) (s : State) : Host.Outcome State Fault Refusal := issue (.mget h f) h (mToS (fun a => a.toNat) f) s

/-- MPUT (R114): each slice's nibble from its own copy of sa. -/
def execMput (h : Hdr) (f : SFmt) (s : State) : Host.Outcome State Fault Refusal :=
  issue (.mput h f) h (fun c s => .ok (c.putM f.sd (fun j => (c.s f.sa j).extractLsb' (4 * j) 4) s)) s

def execMmov (h : Hdr) (f : SFmt) (s : State) : Host.Outcome State Fault Refusal :=
  issue (.mmov h f) h (fun c s => .ok (c.putM f.sd (nibble (c.srcM f)) s)) s

end Sys2Proof.Machine
end

