-- ==== Sys2Proof/Machine/Vector.lean ====
section
/-! DEFINITION. Vector integer instructions: group 4 (R140 to R145), visible after two steps (R64). -/
namespace Sys2Proof.Machine

/-- An exact integer result of the elements, wrapping or saturating (R140, R142). -/
def vInt (op : Int → Int → Int → Int) (f : VFmt) (c : Cx) (s : State) : Res :=
  let ty := f.ty.toNat
  c.vElems f 2 (fun a b d _ => intOut ty f.sat (op (elemInt ty a) (elemInt ty b) (elemInt ty d))) s

/-- A result on the bits of the elements (R140). -/
def vBits (op : Nat → Nat → Nat → Nat → Nat) (f : VFmt) (c : Cx) (s : State) : Res :=
  c.vElems f 2 (fun a b d old => (op a b d old, 0)) s

/-- The width of an element. -/
def vw (f : VFmt) : Nat := tyBits f.ty.toNat

def execVadd (h : Hdr) (f : VFmt) (s : State) : Host.Outcome State Fault Refusal := issue (.vadd h f) h (vInt (fun a b _ => a + b) f) s
def execVsub (h : Hdr) (f : VFmt) (s : State) : Host.Outcome State Fault Refusal := issue (.vsub h f) h (vInt (fun a b _ => a - b) f) s
def execVmul (h : Hdr) (f : VFmt) (s : State) : Host.Outcome State Fault Refusal := issue (.vmul h f) h (vInt (fun a b _ => a * b) f) s
def execVmulh (h : Hdr) (f : VFmt) (s : State) : Host.Outcome State Fault Refusal :=
  issue (.vmulh h f) h (vInt (fun a b _ => a * b / ((2 ^ (vw f) : Nat) : Int)) f) s
def execVmad (h : Hdr) (f : VFmt) (s : State) : Host.Outcome State Fault Refusal := issue (.vmad h f) h (vInt (fun a b d => a * b + d) f) s
def execVand (h : Hdr) (f : VFmt) (s : State) : Host.Outcome State Fault Refusal := issue (.vand h f) h (vBits (fun a b _ _ => a &&& b) f) s
def execVor (h : Hdr) (f : VFmt) (s : State) : Host.Outcome State Fault Refusal := issue (.vor h f) h (vBits (fun a b _ _ => a ||| b) f) s
def execVxor (h : Hdr) (f : VFmt) (s : State) : Host.Outcome State Fault Refusal := issue (.vxor h f) h (vBits (fun a b _ _ => a ^^^ b) f) s
def execVandn (h : Hdr) (f : VFmt) (s : State) : Host.Outcome State Fault Refusal :=
  issue (.vandn h f) h (vBits (fun a b _ _ => a &&& (2 ^ (vw f) - 1 - b)) f) s

/-- VSHL (R141): the saturating form shifts exactly; a shift of the width or more of a nonzero value is out of range
whatever its amount. -/
def execVshl (h : Hdr) (f : VFmt) (s : State) : Host.Outcome State Fault Refusal :=
  issue (.vshl h f) h (fun c s =>
    if f.sat then
      c.vElems f 2 (fun a b _ _ =>
        clampInt f.ty.toNat (elemInt f.ty.toNat a * ((2 ^ Nat.min b (vw f) : Nat) : Int))) s
    else vBits (fun a b _ _ => shlW (vw f) a b) f c s) s

def execVshr (h : Hdr) (f : VFmt) (s : State) : Host.Outcome State Fault Refusal := issue (.vshr h f) h (vBits (fun a b _ _ => shrW (vw f) a b) f) s
def execVsar (h : Hdr) (f : VFmt) (s : State) : Host.Outcome State Fault Refusal := issue (.vsar h f) h (vBits (fun a b _ _ => sarW (vw f) a b) f) s
def execVmin (h : Hdr) (f : VFmt) (s : State) : Host.Outcome State Fault Refusal := issue (.vmin h f) h (vInt (fun a b _ => min a b) f) s
def execVmax (h : Hdr) (f : VFmt) (s : State) : Host.Outcome State Fault Refusal := issue (.vmax h f) h (vInt (fun a b _ => max a b) f) s
def execVabs (h : Hdr) (f : VFmt) (s : State) : Host.Outcome State Fault Refusal := issue (.vabs h f) h (vInt (fun a _ _ => a.natAbs) f) s
def execVneg (h : Hdr) (f : VFmt) (s : State) : Host.Outcome State Fault Refusal := issue (.vneg h f) h (vInt (fun a _ _ => -a) f) s

/-- VCMP (R143): one bit of md for each active lane. -/
def execVcmp (h : Hdr) (f : VFmt) (s : State) : Host.Outcome State Fault Refusal :=
  issue (.vcmp h f) h (fun c s =>
    c.vec 2 (fun l =>
      let a := (c.velems f.ty.toNat f.va.toNat l).getD f.sel.toNat 0
      let b := (c.vb f l).getD f.sel.toNat 0
      { tgts := [bitTgt l f.vd.toNat (condInt f.aux.toNat (elemInt f.ty.toNat a) (elemInt f.ty.toNat b))]
        flags := 0, fmt := [] }) s) s

/-- VSEL (R143): an immediate that raises NV does so in the lanes that take it (R52). -/
def execVsel (h : Hdr) (f : VFmt) (s : State) : Host.Outcome State Fault Refusal :=
  issue (.vsel h f) h (fun c s =>
    c.vec 2 (fun l =>
      let ty := f.ty.toNat
      let pick := (c.m f.vc.toNat).getLsbD l
      { tgts := vdTgts ty f.vd.toNat l (if pick then c.vraw ty f.va.toNat l else packN (tyBits ty) (c.vb f l))
        flags := if pick then 0 else immFlags f, fmt := [] }) s) s

def execVpopc (h : Hdr) (f : VFmt) (s : State) : Host.Outcome State Fault Refusal := issue (.vpopc h f) h (vBits (fun a _ _ _ => popCount a (vw f)) f) s
def execVclz (h : Hdr) (f : VFmt) (s : State) : Host.Outcome State Fault Refusal := issue (.vclz h f) h (vBits (fun a _ _ _ => leadingZeros a (vw f)) f) s

/-- VBFX (R144). -/
def execVbfx (h : Hdr) (f : VFmt) (s : State) : Host.Outcome State Fault Refusal :=
  issue (.vbfx h f) h (vBits (fun a _ _ _ =>
    wrapW (vw f) (fieldOf (f.ty.toNat < 4) a (bitsAt f.imm 0 6) (bitsAt f.imm 6 7))) f) s

/-- VBFI (R144): the old element of vd is the third source. -/
def execVbfi (h : Hdr) (f : VFmt) (s : State) : Host.Outcome State Fault Refusal :=
  issue (.vbfi h f) h (vBits (fun a _ _ d => insertField d a (bitsAt f.imm 0 6) (bitsAt f.imm 6 7)) f) s

/-- VDOT4 (R142). -/
def execVdot4 (h : Hdr) (f : VFmt) (s : State) : Host.Outcome State Fault Refusal :=
  issue (.vdot4 h f) h (fun c s =>
    c.vec 2 (fun l =>
      let b4 := fun (ty x : Nat) => (unpackN 8 4 x).map (elemInt ty)
      let a := b4 f.ty.toNat (c.v1 f.va.toNat l).toNat
      let b := b4 f.aux.toNat (if f.i then f.imm.toNat else (c.v1 f.vb.toNat l).toNat)
      let r := intOut 2 f.sat ((List.zipWith (fun x y => x * y) a b).foldl (fun x y => x + y) (c.v1 f.vc.toNat l).toInt)
      { tgts := [laneTgt l f.vd.toNat r.1], flags := r.2, fmt := [] }) s) s

def execVmov (h : Hdr) (f : VFmt) (s : State) : Host.Outcome State Fault Refusal :=
  issue (.vmov h f) h (vBits (fun a b _ _ => if f.i then b else a) f) s

/-- VSPL (R145): each active lane takes its own slice's copy. -/
def execVspl (h : Hdr) (f : VFmt) (s : State) : Host.Outcome State Fault Refusal :=
  issue (.vspl h f) h (fun c s =>
    c.vec 2 (fun l =>
      let x := (c.s (f.va.setWidth 6) (l / 4)).toNat
      { tgts := vdTgts f.ty.toNat f.vd.toNat l (packN (vw f) (List.replicate (elemCount f.ty.toNat) x)), flags := 0, fmt := [] }) s) s

end Sys2Proof.Machine
end

