-- ==== Sys2Proof/Machine/Dispatch.lean ====
section
/-! DEFINITION. One arm for each constructor of `Instr`: the call of its meaning. -/
namespace Sys2Proof.Machine

/-- What an instruction or event does (R116 and the chapters each meaning cites). -/
def exec (i : Instr) (s : State) : Host.Outcome State Fault Refusal :=
  match i with
  | .sadd h f => Sys2Proof.Machine.execSadd h f s
  | .ssub h f => Sys2Proof.Machine.execSsub h f s
  | .smul h f => Sys2Proof.Machine.execSmul h f s
  | .smulh h f => Sys2Proof.Machine.execSmulh h f s
  | .sdiv h f => Sys2Proof.Machine.execSdiv h f s
  | .srem h f => Sys2Proof.Machine.execSrem h f s
  | .sand h f => Sys2Proof.Machine.execSand h f s
  | .sor h f => Sys2Proof.Machine.execSor h f s
  | .sxor h f => Sys2Proof.Machine.execSxor h f s
  | .sandn h f => Sys2Proof.Machine.execSandn h f s
  | .sshl h f => Sys2Proof.Machine.execSshl h f s
  | .sshr h f => Sys2Proof.Machine.execSshr h f s
  | .ssar h f => Sys2Proof.Machine.execSsar h f s
  | .smin h f => Sys2Proof.Machine.execSmin h f s
  | .smax h f => Sys2Proof.Machine.execSmax h f s
  | .smov h f => Sys2Proof.Machine.execSmov h f s
  | .sli h f ext => Sys2Proof.Machine.execSli h f ext s
  | .spopc h f => Sys2Proof.Machine.execSpopc h f s
  | .sclz h f => Sys2Proof.Machine.execSclz h f s
  | .sbfx h f => Sys2Proof.Machine.execSbfx h f s
  | .sbfi h f => Sys2Proof.Machine.execSbfi h f s
  | .slea h f => Sys2Proof.Machine.execSlea h f s
  | .scmp h f => Sys2Proof.Machine.execScmp h f s
  | .ssel h f => Sys2Proof.Machine.execSsel h f s
  | .mand h f => Sys2Proof.Machine.execMand h f s
  | .mor h f => Sys2Proof.Machine.execMor h f s
  | .mxor h f => Sys2Proof.Machine.execMxor h f s
  | .mandn h f => Sys2Proof.Machine.execMandn h f s
  | .mnot h f => Sys2Proof.Machine.execMnot h f s
  | .mpopc h f => Sys2Proof.Machine.execMpopc h f s
  | .mffs h f => Sys2Proof.Machine.execMffs h f s
  | .mget h f => Sys2Proof.Machine.execMget h f s
  | .mput h f => Sys2Proof.Machine.execMput h f s
  | .mmov h f => Sys2Proof.Machine.execMmov h f s
  | .nop h f => Sys2Proof.Machine.execNop h f s
  | .bra h f => Sys2Proof.Machine.execBra h f s
  | .brc h f => Sys2Proof.Machine.execBrc h f s
  | .brz h f => Sys2Proof.Machine.execBrz h f s
  | .brnz h f => Sys2Proof.Machine.execBrnz h f s
  | .brvAny h f => Sys2Proof.Machine.execBrvAny h f s
  | .brvAll h f => Sys2Proof.Machine.execBrvAll h f s
  | .brl h f => Sys2Proof.Machine.execBrl h f s
  | .call h f => Sys2Proof.Machine.execCall h f s
  | .ret h f => Sys2Proof.Machine.execRet h f s
  | .regang h f => Sys2Proof.Machine.execRegang h f s
  | .exit h f => Sys2Proof.Machine.execExit h f s
  | .trap h f => Sys2Proof.Machine.execTrap h f s
  | .yield h f => Sys2Proof.Machine.execYield h f s
  | .vadd h f => Sys2Proof.Machine.execVadd h f s
  | .vsub h f => Sys2Proof.Machine.execVsub h f s
  | .vmul h f => Sys2Proof.Machine.execVmul h f s
  | .vmulh h f => Sys2Proof.Machine.execVmulh h f s
  | .vmad h f => Sys2Proof.Machine.execVmad h f s
  | .vand h f => Sys2Proof.Machine.execVand h f s
  | .vor h f => Sys2Proof.Machine.execVor h f s
  | .vxor h f => Sys2Proof.Machine.execVxor h f s
  | .vandn h f => Sys2Proof.Machine.execVandn h f s
  | .vshl h f => Sys2Proof.Machine.execVshl h f s
  | .vshr h f => Sys2Proof.Machine.execVshr h f s
  | .vsar h f => Sys2Proof.Machine.execVsar h f s
  | .vmin h f => Sys2Proof.Machine.execVmin h f s
  | .vmax h f => Sys2Proof.Machine.execVmax h f s
  | .vabs h f => Sys2Proof.Machine.execVabs h f s
  | .vneg h f => Sys2Proof.Machine.execVneg h f s
  | .vcmp h f => Sys2Proof.Machine.execVcmp h f s
  | .vsel h f => Sys2Proof.Machine.execVsel h f s
  | .vpopc h f => Sys2Proof.Machine.execVpopc h f s
  | .vclz h f => Sys2Proof.Machine.execVclz h f s
  | .vbfx h f => Sys2Proof.Machine.execVbfx h f s
  | .vbfi h f => Sys2Proof.Machine.execVbfi h f s
  | .vdot4 h f => Sys2Proof.Machine.execVdot4 h f s
  | .vmov h f => Sys2Proof.Machine.execVmov h f s
  | .vspl h f => Sys2Proof.Machine.execVspl h f s
  | .vfadd h f => Sys2Proof.Machine.execVfadd h f s
  | .vfsub h f => Sys2Proof.Machine.execVfsub h f s
  | .vfmul h f => Sys2Proof.Machine.execVfmul h f s
  | .vfma h f => Sys2Proof.Machine.execVfma h f s
  | .vfms h f => Sys2Proof.Machine.execVfms h f s
  | .vfnma h f => Sys2Proof.Machine.execVfnma h f s
  | .vfmin h f => Sys2Proof.Machine.execVfmin h f s
  | .vfmax h f => Sys2Proof.Machine.execVfmax h f s
  | .vfcmp h f => Sys2Proof.Machine.execVfcmp h f s
  | .vfclass h f => Sys2Proof.Machine.execVfclass h f s
  | .vrcp h f => Sys2Proof.Machine.execVrcp h f s
  | .vrsq h f => Sys2Proof.Machine.execVrsq h f s
  | .vsqrt h f => Sys2Proof.Machine.execVsqrt h f s
  | .vdiv h f => Sys2Proof.Machine.execVdiv h f s
  | .vexp2 h f => Sys2Proof.Machine.execVexp2 h f s
  | .vlog2 h f => Sys2Proof.Machine.execVlog2 h f s
  | .vsin h f => Sys2Proof.Machine.execVsin h f s
  | .vcos h f => Sys2Proof.Machine.execVcos h f s
  | .vfrnd h f => Sys2Proof.Machine.execVfrnd h f s
  | .vftrunc h f => Sys2Proof.Machine.execVftrunc h f s
  | .vfscale h f => Sys2Proof.Machine.execVfscale h f s
  | .vcvt h f => Sys2Proof.Machine.execVcvt h f s
  | .vpack h f => Sys2Proof.Machine.execVpack h f s
  | .vunpack h f => Sys2Proof.Machine.execVunpack h f s
  | .vquant h f => Sys2Proof.Machine.execVquant h f s
  | .vdeq h f => Sys2Proof.Machine.execVdeq h f s
  | .vscale h f => Sys2Proof.Machine.execVscale h f s
  | .qswap h f => Sys2Proof.Machine.execQswap h f s
  | .qbcast h f => Sys2Proof.Machine.execQbcast h f s
  | .vshfl h f => Sys2Proof.Machine.execVshfl h f s
  | .vbcast h f => Sys2Proof.Machine.execVbcast h f s
  | .vred h f => Sys2Proof.Machine.execVred h f s
  | .vscan h f => Sys2Proof.Machine.execVscan h f s
  | .vballot h f => Sys2Proof.Machine.execVballot h f s
  | .velect h f => Sys2Proof.Machine.execVelect h f s
  | .vcompact h f => Sys2Proof.Machine.execVcompact h f s
  | .vld h f => Sys2Proof.Machine.execVld h f s
  | .vst h f => Sys2Proof.Machine.execVst h f s
  | .vldx h f => Sys2Proof.Machine.execVldx h f s
  | .vstx h f => Sys2Proof.Machine.execVstx h f s
  | .fld h f => Sys2Proof.Machine.execFld h f s
  | .fst h f => Sys2Proof.Machine.execFst h f s
  | .sld h f => Sys2Proof.Machine.execSld h f s
  | .sst h f => Sys2Proof.Machine.execSst h f s
  | .vatom h f => Sys2Proof.Machine.execVatom h f s
  | .satom h f => Sys2Proof.Machine.execSatom h f s
  | .ladle h f => Sys2Proof.Machine.execLadle h f s
  | .ldrain h f => Sys2Proof.Machine.execLdrain h f s
  | .pref h f => Sys2Proof.Machine.execPref h f s
  | .rld h f => Sys2Proof.Machine.execRld h f s
  | .rst h f => Sys2Proof.Machine.execRst h f s
  | .ratom h f => Sys2Proof.Machine.execRatom h f s
  | .rcas h f => Sys2Proof.Machine.execRcas h f s
  | .rsig h f => Sys2Proof.Machine.execRsig h f s
  | .launchCore h f => Sys2Proof.Machine.execLaunchCore h f s
  | .launchStockpot h f => Sys2Proof.Machine.execLaunchStockpot h f s
  | .joinCore h f => Sys2Proof.Machine.execJoinCore h f s
  | .joinStockpot h f => Sys2Proof.Machine.execJoinStockpot h f s
  | .bar h f => Sys2Proof.Machine.execBar h f s
  | .bara h f => Sys2Proof.Machine.execBara h f s
  | .barw h f => Sys2Proof.Machine.execBarw h f s
  | .copy h f => Sys2Proof.Machine.execCopy h f s
  | .mcast h f => Sys2Proof.Machine.execMcast h f s
  | .cwait h f => Sys2Proof.Machine.execCwait h f s
  | .reduce h f => Sys2Proof.Machine.execReduce h f s
  | .reducePod h f => Sys2Proof.Machine.execReducePod h f s
  | .fence h f => Sys2Proof.Machine.execFence h f s
  | .bind h f => Sys2Proof.Machine.execBind h f s
  | .unbind h f => Sys2Proof.Machine.execUnbind h f s
  | .armAt h f => Sys2Proof.Machine.execArmAt h f s
  | .armTag h f => Sys2Proof.Machine.execArmTag h f s
  | .disarm h f => Sys2Proof.Machine.execDisarm h f s
  | .mma h f => Sys2Proof.Machine.execMma h f s
  | .mmas h f => Sys2Proof.Machine.execMmas h f s
  | .mmat h f => Sys2Proof.Machine.execMmat h f s
  | .hld h f => Sys2Proof.Machine.execHld h f s
  | .zclr h f => Sys2Proof.Machine.execZclr h f s
  | .zld h f => Sys2Proof.Machine.execZld h f s
  | .zldA h f => Sys2Proof.Machine.execZldA h f s
  | .zldK h f => Sys2Proof.Machine.execZldK h f s
  | .zst h f => Sys2Proof.Machine.execZst h f s
  | .zstA h f => Sys2Proof.Machine.execZstA h f s
  | .zstK h f => Sys2Proof.Machine.execZstK h f s
  | .zepi h f => Sys2Proof.Machine.execZepi h f s
  | .mwait h f => Sys2Proof.Machine.execMwait h f s
  | .factLu h f => Sys2Proof.Machine.execFactLu h f s
  | .factCh h f => Sys2Proof.Machine.execFactCh h f s
  | .factQr h f => Sys2Proof.Machine.execFactQr h f s
  | .trsm h f => Sys2Proof.Machine.execTrsm h f s
  | .qapply h f => Sys2Proof.Machine.execQapply h f s
  | .perm h f => Sys2Proof.Machine.execPerm h f s
  | .ztr h f => Sys2Proof.Machine.execZtr h f s
  | .svset h f => Sys2Proof.Machine.execSvset h f s
  | .svclr h f => Sys2Proof.Machine.execSvclr h f s
  | .dget h f => Sys2Proof.Machine.execDget h f s
  | .dput h f => Sys2Proof.Machine.execDput h f s
  | .dstep h f => Sys2Proof.Machine.execDstep h f s
  | .drun h f => Sys2Proof.Machine.execDrun h f s
  | .dstat h f => Sys2Proof.Machine.execDstat h f s
  | .mark h f => Sys2Proof.Machine.execMark h f s
  | .trace h f => Sys2Proof.Machine.execTrace h f s
  | .csrr h f => Sys2Proof.Machine.execCsrr h f s
  | .csrw h f => Sys2Proof.Machine.execCsrw h f s
  | .grow h f => Sys2Proof.Machine.execGrow h f s
  | .shrink h f => Sys2Proof.Machine.execShrink h f s
  | .trapret h f => Sys2Proof.Machine.execTrapret h f s
  | .prog h f => Sys2Proof.Machine.execProg h f s
  | .clock h f => Sys2Proof.Machine.execClock h f s
  | .idle h f => Sys2Proof.Machine.execIdle h f s
  | .reservedOpcode w => Sys2Proof.Machine.execReservedOpcode w s
  | .coreCycle core issued => Sys2Proof.Machine.execCoreCycle core issued s
  | .rowPerformed core row => Sys2Proof.Machine.execRowPerformed core row s
  | .insert id => Sys2Proof.Machine.execInsert id s
  | .stockpotRetry id => Sys2Proof.Machine.execStockpotRetry id s
  | .dispatch pot => Sys2Proof.Machine.execDispatch pot s
  | .recordStart pot slot => Sys2Proof.Machine.execRecordStart pot slot s
  | .recordRetire pot slot => Sys2Proof.Machine.execRecordRetire pot slot s
  | .blockRetire core slot => Sys2Proof.Machine.execBlockRetire core slot s
  | .poolGrant core => Sys2Proof.Machine.execPoolGrant core s
  | .growFail core => Sys2Proof.Machine.execGrowFail core s
  | .idleTimeout who => Sys2Proof.Machine.execIdleTimeout who s
  | .lineFetch holder ctx line => Sys2Proof.Machine.execLineFetch holder ctx line s
  | .accessReturn core gid entry lanes => Sys2Proof.Machine.execAccessReturn core gid entry lanes s
  | .ladleFetch core gid slice q ahead => Sys2Proof.Machine.execLadleFetch core gid slice q ahead s
  | .walk die ctx page kind req => Sys2Proof.Machine.execWalk die ctx page kind req s
  | .fill die fid => Sys2Proof.Machine.execFill die fid s
  | .deny die fid => Sys2Proof.Machine.execDeny die fid s
  | .copyPiece id piece mem => Sys2Proof.Machine.execCopyPiece id piece mem s
  | .arrayStep core => Sys2Proof.Machine.execArrayStep core s
  | .preemptRequest core kind => Sys2Proof.Machine.execPreemptRequest core kind s
  | .quantumExpiry core => Sys2Proof.Machine.execQuantumExpiry core s
  | .budgetExpiry core slot => Sys2Proof.Machine.execBudgetExpiry core slot s
  | .coreImageSave core => Sys2Proof.Machine.execCoreImageSave core s
  | .restore image core => Sys2Proof.Machine.execRestore image core s
  | .clusterOwnershipPass cluster => Sys2Proof.Machine.execClusterOwnershipPass cluster s
  | .dieOwnershipPass die => Sys2Proof.Machine.execDieOwnershipPass die s
  | .scalesPeriod die dies => Sys2Proof.Machine.execScalesPeriod die dies s
  | .migration die dies => Sys2Proof.Machine.execMigration die dies s
  | .armTimeFire die entry => Sys2Proof.Machine.execArmTimeFire die entry s
  | .armTagFire ctx tag payload => Sys2Proof.Machine.execArmTagFire ctx tag payload s
  | .reduceTimeout pot slot => Sys2Proof.Machine.execReduceTimeout pot slot s
  | .intermediateFlush slot => Sys2Proof.Machine.execIntermediateFlush slot s
  | .reductionPartial m => Sys2Proof.Machine.execReductionPartial m s
  | .reductionResult m => Sys2Proof.Machine.execReductionResult m s
  | .remoteRequest m => Sys2Proof.Machine.execRemoteRequest m s
  | .remoteResponse m => Sys2Proof.Machine.execRemoteResponse m s
  | .responseTimeout tid => Sys2Proof.Machine.execResponseTimeout tid s
  | .retryResend tid => Sys2Proof.Machine.execRetryResend tid s
  | .remoteInsert m => Sys2Proof.Machine.execRemoteInsert m s
  | .remoteInsertResend tid => Sys2Proof.Machine.execRemoteInsertResend tid s
  | .remoteJoin m => Sys2Proof.Machine.execRemoteJoin m s
  | .sample core => Sys2Proof.Machine.execSample core s
  | .fxrevoke e => Sys2Proof.Machine.execFxrevoke e s
  | .portDget core => Sys2Proof.Machine.execPortDget core s
  | .portDput core => Sys2Proof.Machine.execPortDput core s
  | .portDstep core => Sys2Proof.Machine.execPortDstep core s
  | .portDrun core => Sys2Proof.Machine.execPortDrun core s
  | .portDstat core => Sys2Proof.Machine.execPortDstat core s
  | .portBadop core => Sys2Proof.Machine.execPortBadop core s
  | .doorbell q => Sys2Proof.Machine.execDoorbell q s
  | .wiPoll q => Sys2Proof.Machine.execWiPoll q s
  | .packetLaunch q => Sys2Proof.Machine.execPacketLaunch q s
  | .packetCopy q => Sys2Proof.Machine.execPacketCopy q s
  | .packetArm q => Sys2Proof.Machine.execPacketArm q s
  | .packetSignal q => Sys2Proof.Machine.execPacketSignal q s
  | .packetFence q => Sys2Proof.Machine.execPacketFence q s
  | .packetSkip q => Sys2Proof.Machine.execPacketSkip q s
  | .completionRecord seq => Sys2Proof.Machine.execCompletionRecord seq s
  | .jrdWrite v => Sys2Proof.Machine.execJrdWrite v s
  | .frrdWrite ctx v => Sys2Proof.Machine.execFrrdWrite ctx v s
  | .create ctx => Sys2Proof.Machine.execCreate ctx s
  | .destroy ctx => Sys2Proof.Machine.execDestroy ctx s
  | .reset ctx => Sys2Proof.Machine.execReset ctx s
  | .revoke ctx => Sys2Proof.Machine.execRevoke ctx s
  | .switch ctx => Sys2Proof.Machine.execSwitch ctx s
  | .suspend => Sys2Proof.Machine.execSuspend s
  | .podSuspend => Sys2Proof.Machine.execPodSuspend s
  | .resume => Sys2Proof.Machine.execResume s
  | .podResume => Sys2Proof.Machine.execPodResume s
  | .systemMessage m => Sys2Proof.Machine.execSystemMessage m s
  | .tinvRange ctx va len => Sys2Proof.Machine.execTinvRange ctx va len s
  | .tinvContext ctx => Sys2Proof.Machine.execTinvContext ctx s
  | .tinvAll => Sys2Proof.Machine.execTinvAll s
  | .sccmd die v => Sys2Proof.Machine.execSccmd die v s
  | .elpop die => Sys2Proof.Machine.execElpop die s
  | .pelpop => Sys2Proof.Machine.execPelpop s
  | .hctlClr core => Sys2Proof.Machine.execHctlClr core s
  | .logctlDrop core gid => Sys2Proof.Machine.execLogctlDrop core gid s
  | .portEnable n => Sys2Proof.Machine.execPortEnable n s
  | .portDisable n => Sys2Proof.Machine.execPortDisable n s
  | .detect n found => Sys2Proof.Machine.execDetect n found s
  | .linkUp n p => Sys2Proof.Machine.execLinkUp n p s
  | .trainingTimeout n => Sys2Proof.Machine.execTrainingTimeout n s
  | .retrain n => Sys2Proof.Machine.execRetrain n s
  | .uncorrectableError e => Sys2Proof.Machine.execUncorrectableError e s
  | .scrub stack corrected => Sys2Proof.Machine.execScrub stack corrected s
  | .railAlarm lower => Sys2Proof.Machine.execRailAlarm lower s
  | .idleGating => Sys2Proof.Machine.execIdleGating s
  | .packageReset boots => Sys2Proof.Machine.execPackageReset boots s
  | .spdmRequest code => Sys2Proof.Machine.execSpdmRequest code s
  | .hostRegisterWrite off v => Sys2Proof.Machine.execHostRegisterWrite off v s
  | .hostMemoryAccess a => Sys2Proof.Machine.execHostMemoryAccess a s
  | .hostLinkTraining mode width => Sys2Proof.Machine.execHostLinkTraining mode width s
  | .precisionTimeMeasurement t => Sys2Proof.Machine.execPrecisionTimeMeasurement t s
  | .messageRelay m => Sys2Proof.Machine.execMessageRelay m s
  | .fabidWrite v => Sys2Proof.Machine.execFabidWrite v s
  | .queueEnable q => Sys2Proof.Machine.execQueueEnable q s
  | .debugHold core => Sys2Proof.Machine.execDebugHold core s

end Sys2Proof.Machine
end

