-- ==== Sys2Proof/Machine/Turns.lean ====
section
/-! DEFINITION. Turns: the attempt to issue a fragment, alone or as a pair; an event; the turn that is taken where none is asked for,
which lets the package go on by itself. -/
namespace Sys2Proof.Machine

-- issue

/-- What a fault of a pair's second instruction leaves where the first has been undone (R59): the error log's record of it (R187), and
no element of a ladle that has raised its fault, which is fetched afresh (R179). `s1` is the state that it met, `s2` what it left. -/
def State.keepFault (begun s1 s2 : State) (w : Who) (t : TrapReq) : State :=
  let s := if s1.dies = s2.dies then begun else begun.logDie w.die t.tval.toNat (begun.ctxBy w) 0 1 t.cause
  match s1.issuer w, s2.issuer w with
  | some a, some b => s.updIssuer w (fun u => { u with ladles := u.ladles.map (fun p =>
      match a.ladles.find p.1, b.ladles.find p.1 with
      | some x, some y =>
        if x.got = y.got then p else (p.1, { p.2 with got := p.2.got.filter (fun g => g.ahead ≠ (x.pos - p.2.pos).toNat) })
      | _, _ => p) })
  | _, _ => s

/-- A pair (R45, R63): the second to be run reads what the first read, and keeps a wait of its own. Where it waits, or traps, neither has
taken effect (R59), and what it does itself it does in the pair's begun state (R67, R68, R179, R187). Where the one run first is the
second slot's and traps, the first slot's trap goes before it. -/
def runPair (a b : Instr) (cur : Cur) (s : State) : Host.Outcome State Fault Refusal :=
  let swap := runsSecondFirst a b
  let x := if swap then b else a
  let y := if swap then a else b
  let p2 := Pc.advance cur.pc 1
  let curX := { cur with at_ := if swap then p2 else cur.pc, role := .first y }
  let curY := { cur with at_ := if swap then cur.pc else p2, role := .second x }
  let w := cur.who
  let e := cur.entry
  let second := fun (t : State) (lads : Option (Tab Nat Ladle)) =>
    exec y { t.swapWait w e with cur := some { curY with lads := lads }, ev := .none }
  let begun := s.pairBegun cur a b
  match exec x { s with cur := some curX, ev := .none } with
  | .fault r => .fault r
  | .refused r => .refused r
  | .next s1 =>
    match s1.ev with
    | .issued =>
      (match second s1 (s1.cur.bind Cur.lads) with
        | .fault r => .fault r
        | .refused r => .refused r
        | .next s2 =>
          match s2.ev with
          | .issued => .next s2
          | .none => .next s2
          | .stalled x =>
            (match second begun none with
              | .next s3 =>
                (match s3.ev with
                  | .stalled _ => .next (s3.swapWait w e)
                  | _ => .next (begun.markStalled w e x))
              | o => o)
          | .trapped t =>
            (match second begun none with
              | .next s3 =>
                (match s3.ev with
                  | .trapped r => .next (s3.markTrapped w e cur.pc r)
                  | _ => .next ((begun.keepFault s1 s2 w t).markTrapped w e cur.pc t))
              | o => o))
    | .trapped _ =>
      if swap then
        (match exec a { s.swapWait w e with cur := some { cur with role := .first b }, ev := .none } with
          | .next s4 => (match s4.ev with
            | .trapped _ => .next s4
            | _ => .next s1)
          | o => o)
      else .next s1
    | _ => .next s1

/-- An attempt to issue fragment `e` of issuer `w`, as planned. -/
def attempt (p : Plan) (w : Who) (e : Nat) (s : State) : Host.Outcome State Fault Refusal :=
  match p with
  | .idle => .next s
  | .stall x => .next (s.markStalled w e x)
  | .trap t s' => .next (s'.trapAt w e t)
  | .one a cur => exec a { s with cur := some cur, ev := .none }
  | .two a b cur => runPair a b cur s

/-- The attempt to issue fragment `e` of issuer `w`. -/
def tryIssue (w : Who) (e : Nat) (s : State) : Host.Outcome State Fault Refusal := attempt (s.plan w e) w e s

/-- An event, with no issue in progress. -/
def runEvent (i : Instr) (s : State) : Host.Outcome State Fault Refusal := exec i { s with cur := none, ev := .none }

/-- Every issuer of the package. -/
def State.issuers (s : State) : List (Who × Issuer) :=
  (s.coreList.flatMap (fun n => s.issuersAt (.core n))) ++ s.seqs.map (fun q => (q.1, q.2.iss))

/-- A state between turns: what the latest issue came to is forgotten. -/
def State.quiet (s : State) : State := { s with ev := .none, cur := none, evs := [], svOld := [] }

/-- STATE of a fragment as R104 has it at this moment: blocked, or fault-parked, where an attempt would wait and do nothing else;
eligible where it would issue, trap, or take up a wait. -/
def State.refreshFrag (s : State) (x : Who × Nat) : State :=
  let set := fun (st : FragSt) (y : Why) => s.updIssuer x.1 (fun u => u.updFrag x.2 (fun f => { f with st := st, why := y }))
  match attempt (s.prospect x.1 x.2) x.1 x.2 s.quiet with
  | .next t => (match t.ev with
    | .none => s
    | .issued => set .eligible .none
    | .trapped _ => set .eligible .none
    | .stalled y =>
      let s' := set (if y == Why.faultParked then .faultParked else .blocked) y
      if t.quiet = s'.quiet then s' else set .eligible .none)
  | .fault _ => s
  | .refused _ => s

/-- Every fragment that may be tried has the STATE of R104. -/
def State.refresh (s : State) : State :=
  (s.issuers.flatMap (fun u => (u.2.frags.filter (fun f => f.2.tryable)).map (fun f => (u.1, f.1)))).foldl State.refreshFrag s

/-- One turn, from a state whose fragments have their STATE (R104). -/
def runTurn (t : Turn) (s : State) : Host.Outcome State Fault Refusal :=
  match t with
  | .issue w e => tryIssue w e s
  | .event i => runEvent i s
  | .pass c n => .next (s.passTime c n)

/-- One turn. -/
def doTurn (t : Turn) (s : State) : Host.Outcome State Fault Refusal := runTurn t s.refresh

-- the events that the state of the package may have in store

/-- The targets of the transfers in the step that a fragment stands at (R116 to R118), and where TRAPRET goes. -/
def State.nextLines (s : State) (w : Who) (u : Issuer) (e : Nat) : List Nat :=
  let f := u.frag e
  match s.lineAt w.place u.ctx (lineOf f.pc) with
  | none => [lineOf f.pc]
  | some l =>
    let cur : Cur := { who := w, entry := e, pc := f.pc, at_ := f.pc, next := f.pc, role := .single, lads := none }
    let of := fun (i : Instr) (at_ : Pc) => match i.form with
      | some (op, h, .b b) =>
        if 0x0C1 ≤ op ∧ op ≤ 0x0C9 then
          ((Cx.of w u { cur with at_ := at_ } h.g).targets op b).map (fun t => lineOf (t.2.setWidth 57))
        else []
      | some (op, _, .d _) =>
        if op = 0x384 then
          (let p : Pc := u.tepc.setWidth 57
           [lineOf p, lineOf (Pc.advance p 1), lineOf (Pc.advance p 2)])
        else []
      | _ => []
    match slotsAt l.data (slotOf f.pc) with
    | .one a _ => of a f.pc
    | .two a b => of a f.pc ++ of b (Pc.advance f.pc 1)
    | .illegal => []

/-- Line fetches (R43). -/
def State.lineEvents (s : State) : List Instr :=
  s.issuers.flatMap (fun u => u.2.frags.flatMap (fun f =>
    ((s.nextLines u.1 u.2 f.1).filter (fun l => (s.lineAt u.1.place u.2.ctx l).isNone)).map (fun l =>
      Instr.lineFetch u.1.place u.2.ctx l)))

/-- What the engines of the package have in hand: array steps, rows, pieces of copies (R215, R237, R241). -/
def State.engineEvents (s : State) : List Instr :=
  s.coreList.flatMap (fun n => Instr.arrayStep n :: (s.core n).rows.map (fun r => Instr.rowPerformed n r.id))
    ++ s.copies.flatMap (fun c => (List.range c.dsts.length).flatMap (fun m =>
      (((List.range c.pieces).filter (fun p => !(c.done.contains (m, p)))).take 1).map (fun p => Instr.copyPiece c.id p m)))

/-- Accesses, ladles and requests of the cores (R102, R177, R183, R310). -/
def State.coreEvents (s : State) : List Instr :=
  s.coreList.flatMap (fun n =>
    let c := s.core n
    let gang := fun (g : Nat × Issuer) =>
      (g.2.log.map (fun e => Instr.accessReturn n g.1 e.1 0xFFFFFFFF))
        ++ g.2.ladles.flatMap (fun l => (List.range 2).map (fun k => Instr.ladleFetch n g.1 (l.1 % 8) (l.1 / 8) k))
    c.gangs.flatMap gang
      ++ [Instr.poolGrant n, Instr.growFail n, Instr.portDget n, Instr.portDput n, Instr.portDstep n, Instr.portDrun n, Instr.portDstat n,
          Instr.portBadop n]
      ++ c.blocks.flatMap (fun b => [Instr.budgetExpiry n b.1, Instr.blockRetire n b.1])
      ++ [Instr.preemptRequest n 2, Instr.preemptRequest n 1, Instr.quantumExpiry n, Instr.coreImageSave n])

/-- The walks that the parties of the package may ask for (R385, R387): die, context, page, access kind, requester. -/
def State.walkEvents (s : State) : List Instr :=
  let walk := fun (d ctx : Nat) (a : Nat) (k : Nat) (r : Requester) => Instr.walk d ctx (a / 4096) k r
  let lanes := s.coreList.flatMap (fun n => (s.core n).gangs.flatMap (fun g =>
    (g.2.log.flatMap (fun e => if e.2.space = 4 then (e.2.accs.filter (fun a => a.st == AccSt.pending)).map (fun a =>
        walk (n / 64) g.2.ctx a.ea.toNat e.2.kind.code (.lane n g.1 e.1 a.lane)) else []))
      ++ g.2.ladles.flatMap (fun l => if l.2.space = 4 then (List.range 8).filterMap (fun i =>
        (l.2.ahead (i / 4)).map (fun k =>
          walk (n / 64) g.2.ctx (k.addr (4 * (l.1 % 8) + i % 4)).toNat 0 (.ladle n g.1 (l.1 % 8) (l.1 / 8)))) else [])))
  let lines := s.issuers.flatMap (fun u => u.2.frags.flatMap (fun f =>
    (s.nextLines u.1 u.2 f.1).map (fun l => walk u.1.die u.2.ctx (64 * l) 3 (.line u.1.place l))))
  let heads := s.issuers.flatMap (fun u => (s.headersAt u.1).map (fun a => walk u.1.die u.2.ctx a.toNat 0 (.header u.1)))
  let ins := s.inserts.map (fun p => walk p.die p.ctx p.addr.toNat 0 (.insert p.id))
    ++ s.pendArms.map (fun p => walk p.die p.ctx p.addr.toNat 0 (.insert p.id))
  let starts := s.pots.flatMap (fun p => p.2.recs.filterMap (fun r => r.2.runner.map (fun w =>
    walk w.die r.2.ctx (s.headerAddr r.2.ctx r.2.img).toNat 0 (.start p.1 r.1))))
  let copies := s.copies.flatMap (fun c => (List.range c.dsts.length).flatMap (fun m =>
    match (List.range c.pieces).find? (fun p => !(c.done.contains (m, p))) with
    | none => []
    | some p =>
      (c.runs p).map (fun r => walk c.die c.ctx (c.src.addr + r.1) 0 (.copy c.id))
        ++ [walk c.die c.ctx (((c.dsts[m]?).map Loc.addr).getD 0 + c.dstOff p) 1 (.copy c.id)]))
  let peers := s.held.flatMap (fun h => (List.range h.msg.count).map (fun k =>
    walk 0 h.ctx (h.base + h.msg.offset.toNat + k * 2 ^ h.msg.size) (opKind h.msg.op) (.remote h.id)))
  let packets := s.packets.filterMap (fun p => if p.kind = 4 && p.status.isNone then
    some (walk 0 p.ctx (p.word 1).toNat (if bitAt (p.word 0) 24 then 2 else 1) (.packet p.seq)) else none)
  let stops := s.stops.map (fun x => walk 0 x.ctx x.va 1 (.stop x.id))
  let waiting := s.dies.flatMap (fun d => (d.2.walkq.take 1).map (fun q => walk d.1 q.1 (4096 * q.2.1) q.2.2.1 q.2.2.2))
  lanes ++ lines ++ heads ++ ins ++ starts ++ copies ++ peers ++ packets ++ stops ++ waiting

/-- Stockpots, arms, dies and clusters. -/
def State.levelEvents (s : State) : List Instr :=
  s.inserts.map (fun p => Instr.insert p.id) ++ s.pendArms.map (fun p => Instr.insert p.id)
    ++ s.inserts.map (fun p => Instr.stockpotRetry p.id) ++ s.pendArms.map (fun p => Instr.stockpotRetry p.id)
    ++ s.pots.flatMap (fun p => p.2.recs.flatMap (fun r => [Instr.recordStart p.1 r.1, Instr.recordRetire p.1 r.1, Instr.reduceTimeout p.1 r.1]))
    ++ (s.pot 36).recs.map (fun r => Instr.intermediateFlush r.1)
    ++ s.pots.map (fun p => Instr.dispatch p.1)
    ++ s.dies.flatMap (fun d => d.2.arms.map (fun a => Instr.armTimeFire d.1 a.1))
    ++ (List.range 4).flatMap (fun d => [Instr.scalesPeriod d false, Instr.migration d false])
    ++ [Instr.scalesPeriod 0 true, Instr.migration 0 true]
    ++ s.clusters.map (fun c => Instr.clusterOwnershipPass c.1) ++ s.dies.map (fun d => Instr.dieOwnershipPass d.1)
    ++ s.images.flatMap (fun i => match i.what with
      | .core n _ => (List.range 8).map (fun k => Instr.restore i.id (n / 8 * 8 + (n + k) % 8))
      | .cluster _ _ => [Instr.restore i.id 0]
      | .die _ _ => [Instr.restore i.id 0])

/-- A message as the event of its arrival (R438). -/
def arrival (m : Msg) : Option Instr :=
  if m.op = 0 then none
  else if m.op ≤ 6 then some (.remoteRequest m)
  else if m.op = 7 then some (.remoteInsert m)
  else if m.op = 8 then some (.remoteJoin m)
  else if m.op = 9 then some (.reductionPartial m)
  else if m.op = 10 then some (.reductionResult m)
  else if m.op = 11 then some (.remoteResponse m)
  else none

/-- Queues, packets and the fabric. -/
def State.packageEvents (s : State) : List Instr :=
  ((s.queues.filter (fun q => q.2.en)).flatMap (fun q =>
      [Instr.wiPoll q.1, Instr.packetLaunch q.1, Instr.packetCopy q.1, Instr.packetArm q.1, Instr.packetSignal q.1, Instr.packetFence q.1,
       Instr.packetSkip q.1]))
    ++ s.packets.map (fun p => Instr.completionRecord p.seq)
    ++ (s.outbox.filter (fun m => m.dest = s.fabid.toNat)).filterMap arrival
    ++ s.reqs.flatMap (fun r => [Instr.responseTimeout r.tid, Instr.remoteInsertResend r.tid, Instr.retryResend r.tid])
    ++ (match s.fxBusy with
      | none => []
      | some e => [Instr.fxrevoke e])
    ++ (if s.suspst = 1 then [Instr.suspend] else if s.suspst = 3 then [Instr.resume] else [])

/-- Whether an event does something in a state. -/
def State.changedBy (s : State) (i : Instr) : Bool :=
  match runEvent i s with
  | .next t => t != { s with cur := none, ev := .none }
  | .fault _ => false
  | .refused _ => false

/-- The event that takes place where none is asked for: the first that does something; the engines have their turn in every
sixteenth cycle. -/
def State.nextEvent (s : State) : Option Instr :=
  if s.stopped then none
  else (s.coreEvents ++ s.lineEvents ++ s.levelEvents ++ s.packageEvents ++ s.walkEvents
    ++ (if s.cycles % 16 = 0 then s.engineEvents else [])).find? s.changedBy

-- cycles

/-- Every fragment that may be tried, the largest AGE first (R105). -/
def State.byAge (s : State) : List (Who × Nat) :=
  let all := s.issuers.flatMap (fun u => (u.2.frags.filter (fun f => f.2.tryable)).map (fun f => (u.1, f.1, f.2.age)))
  (all.foldl (fun l x => (l.takeWhile (fun y => x.2.2 ≤ y.2.2)) ++ x :: l.dropWhile (fun y => x.2.2 ≤ y.2.2)) []).map (fun x =>
    (x.1, x.2.1))

/-- What the attempt to issue a fragment comes to, if it issues, traps, or begins a wait; and whether it takes a cycle. -/
def State.issues (s : State) (x : Who × Nat) : Option (Host.Outcome State Fault Refusal × Bool) :=
  match tryIssue x.1 x.2 s.quiet with
  | .next t => (match t.ev with
    | .issued => some (.next t, true)
    | .trapped _ => some (.next t, true)
    | .none => none
    | .stalled _ => if t.quiet = s.quiet then none
      else some (.next t, false))
  | .fault f => some (.fault f, false)
  | .refused r => some (.refused r, false)

/-- A cycle ends: ages, histograms, samples that are due (R105, R283, R284), and the clocks, at 1.8 GHz (R9). -/
def State.endCycle (s : State) (issued : List (Who × Nat)) : State :=
  let s := s.coreList.foldl (fun s n => s.coreCycle n issued) s
  let s := s.passTime 1 ((s.cycles + 1) * 5 / 9 - s.cycles * 5 / 9)
  s.coreList.foldl (fun s n =>
    let k := bitsAt (s.core n).probe.trctl 3 5
    if k ≠ 0 && s.cycles % 2 ^ k = 0 then (match runEvent (.sample n) s with
      | .next t => t
      | .fault _ => s
      | .refused _ => s) else s) s

/-- The first attempt of a list that comes to something, with its fragment. -/
def State.firstIssue (s : State) : List (Who × Nat) → Option ((Who × Nat) × Host.Outcome State Fault Refusal × Bool)
  | [] => none
  | x :: r => match s.issues x with
    | some o => some (x, o)
    | none => s.firstIssue r

/-- The turn taken where none is asked for: an event that does something, else the oldest fragment whose attempt comes to something,
with a cycle where it issues, else what the engines have in hand, else a cycle in which nothing happens. -/
def defaultTurn (s : State) : Host.Outcome State Fault Refusal :=
  let s := s.refresh
  match s.nextEvent with
  | some i => runEvent i s
  | none =>
    match (if s.stopped then none else s.firstIssue s.byAge) with
    | some (x, .next t, true) => .next (t.endCycle [x])
    | some (_, o, _) => o
    | none =>
      match (if s.stopped then none else s.engineEvents.find? s.changedBy) with
      | some i => runEvent i s
      | none => .next (s.endCycle [])

end Sys2Proof.Machine
end

