-- ==== Sys2Proof/Machine/Step.lean ====
section
/-! DEFINITION. One step of the package: the turn at the head of the agenda, or the one taken where the agenda is empty. -/
namespace Sys2Proof.Machine

/-- One step: the turn at the head of the agenda, else the turn taken where none is asked for. -/
def step (s : State) : Host.Outcome State Fault Refusal :=
  match s.agenda with
  | [] => defaultTurn s
  | t :: r => doTurn t { s with agenda := r }

/-- `s` with an instruction placed where the next step fetches it: its word, and what follows it for SLI. -/
def State.withFetchWord (s : State) (_nbits w : Nat) : State :=
  s.placeWord (BitVec.ofNat 96 w) (BitVec.ofNat 96 (w >>> 96))

end Sys2Proof.Machine
end

