-- ==== Sys2Proof/Safety.lean ====
section
/-! DEFINITION. What statements speak of: the invariant of the states, and the point of a step at which an instruction's own
effect begins. -/
namespace Sys2Proof.Safety

open Sys2Proof.Machine

/-- The memory of the package has its canonical form. -/
def memoryCanonical (s : State) : Prop := s.mem.wf = true

/-- An instruction whose own effect is to come: what it reads, the state it acts on, and the ladle elements that it takes with the
events they make. -/
structure Begun where
  c : Cx
  s : State
  evs : List AccEv
  uses : List (Nat × Nat)
  deriving DecidableEq, Repr

/-- Where the issue in progress reaches the effect of instruction `i`, whose header is `h`: its step has met no decode fault, its
marker neither waits nor raises anything (R57, R67), its guard is true in some slice (R47), and its ladle elements are at hand
(R177). None where one of these fails. -/
def begun (i : Instr) (h : Hdr) (s : State) : Option Begun :=
  match s.cur with
  | none => none
  | some cur =>
    match s.issuer cur.who with
    | none => none
    | some u =>
      let p := match cur.role with
        | .second _ => Res.ok s
        | .single => s.prologue cur.who u cur [(i, cur.at_)]
        | .first o => s.prologue cur.who u cur (pairAt cur i o)
      match p with
      | .ok t =>
        let t := t.noteLadles cur i
        match t.issuer cur.who with
        | none => none
        | some w =>
          let v := cur.reads w
          let c := Cx.of cur.who v cur h.g
          if c.pass.isEmpty then none
          else
            match i.form with
            | none => none
            | some (op, _, b) =>
              if v.ladles.isEmpty then some ⟨c, c.begin t, [], []⟩
              else match c.readLadles (b.vsrcs op) (c.begin t) with
                | .inr _ => none
                | .inl (c', evs, uses) => if uses.isEmpty then some ⟨c, c.begin t, [], []⟩ else some ⟨c', c.begin t, evs, uses⟩
      | .moved _ => none
      | .after _ _ => none
      | .back _ _ => none
      | .stall _ _ => none
      | .trap _ _ => none

/-- The ladles of the instruction advance once its effect has made the state `t` (R177, R266). -/
def Begun.advance (b : Begun) (t : State) : State :=
  if b.uses.isEmpty then t else (if b.evs.isEmpty then t else b.c.events b.evs [] t).advanceLadles b.c.who b.uses

/-- How the instruction ends once its effect has made the state `t`: the first of a pair hands over to the second, and any other
ends its step, going on at the next PC (R59, R61). -/
def Begun.done (b : Begun) (t : State) : State :=
  match b.c.cur.role with
  | .first _ => { b.advance t with ev := .issued }
  | .single => (b.advance t).epilogue b.c false
  | .second _ => (b.advance t).epilogue b.c false

/-- How an instruction ends that has placed its fragment itself. -/
def Begun.moved (b : Begun) (t : State) : State :=
  (if b.uses.isEmpty then t else t.advanceLadles b.c.who b.uses).epilogue b.c true

/-- How an instruction ends that has placed its fragment itself and then traps (R122). -/
def Begun.traps (b : Begun) (x : TrapReq) (t : State) : State := t.epilogueTrap b.c x

/-- How a return from a handler ends that has made the state `t`, fragment `e` running again (R125, R278). -/
def Begun.back (b : Begun) (e : Nat) (t : State) : State :=
  { (t.countStep b.c.who e).endStepping b.c.who e with ev := .issued, cur := none, evs := [] }

-- results, as the statements name them

/-- The operands of a slice-uniform instruction in slice `j`, as integers of its type (R108). -/
def Begun.x (b : Begun) (f : SFmt) (j : Nat) : Int := opnd f.ty.toNat (b.c.s f.sa j)
def Begun.y (b : Begun) (f : SFmt) (j : Nat) : Int := opnd f.ty.toNat (b.c.srcB f j)

/-- The step ends with `v j` on its way to copy `j` of an s register, in the slices where the guard is true, one step later. -/
def Begun.putS (b : Begun) (r : BitVec 6) (v : Nat → Dword) : Host.Outcome State Fault Refusal :=
  .next (b.done (b.c.putS r v b.s))

/-- The step ends with `v j`, reduced to the type and extended by it (R108), on its way to copy `j` of sd. -/
def Begun.putInt (b : Begun) (f : SFmt) (v : Nat → Int) : Host.Outcome State Fault Refusal :=
  b.putS f.sd (fun j => wr f.ty.toNat (v j))

/-- The step ends with `v j` on its way to copy `j` of a flag. -/
def Begun.putC (b : Begun) (r : BitVec 4) (v : Nat → Bool) : Host.Outcome State Fault Refusal :=
  .next (b.done (b.c.fixed 1 (b.c.pass.map (fun j => (j, Tgt.c j r.toNat (v j)))) b.s))

/-- The step ends with nibble `j` of a mask on its way for each slice where the guard is true. -/
def Begun.putM (b : Begun) (r : BitVec 6) (v : Nat → BitVec 4) : Host.Outcome State Fault Refusal :=
  .next (b.done (b.c.putM r v b.s))

/-- The step ends with what `go` gives for each active lane on its way, `lat` steps off, and with the flags and events of the lanes
(R34, R64, R137). -/
def Begun.lanes (b : Begun) (lat : Nat) (go : Nat → LaneOut) : Host.Outcome State Fault Refusal :=
  let outs := b.c.act.map (fun l => (l, go l))
  .next (b.done (b.c.events [] (flagEvents outs)
    (b.c.fixed lat ((outs.map (fun p => p.2.tgts.map (fun t => (p.1 / 4, t)))).flatten ++ flagTgts outs) b.s)))

/-- As `lanes`, `op` giving each element of vd with its flags from the elements of va, vb, vc and the old vd. -/
def Begun.elems (b : Begun) (f : VFmt) (lat : Nat) (op : Nat → Nat → Nat → Nat → Nat × Nat) : Host.Outcome State Fault Refusal :=
  b.lanes lat (fun l =>
    let old := unpackN (tyBits f.ty.toNat) (elemCount f.ty.toNat) (b.c.dRaw f.ty.toNat f.vd.toNat l)
    let r := (List.range (elemCount f.ty.toNat)).map (fun i =>
      op ((b.c.velems f.ty.toNat f.va.toNat l).getD i 0) ((b.c.vb f l).getD i 0)
        ((b.c.velems f.ty.toNat f.vc.toNat l).getD i 0) (old.getD i 0))
    { tgts := vdTgts f.ty.toNat f.vd.toNat l (packN (tyBits f.ty.toNat) (r.map (fun p => p.1)))
      flags := r.foldl (fun x p => x ||| p.2) (immFlags f)
      fmt := [] })

/-- As `elems`, the element the exact integer that `op` gives, wrapped or saturated (R18, R140). -/
def Begun.ints (b : Begun) (f : VFmt) (op : Int → Int → Int → Int) : Host.Outcome State Fault Refusal :=
  b.elems f 2 (fun x y z _ => intOut f.ty.toNat f.sat (op (elemInt f.ty.toNat x) (elemInt f.ty.toNat y) (elemInt f.ty.toNat z)))

/-- As `elems`, on the values of floating-point elements (R146). -/
def Begun.floats (b : Begun) (f : VFmt) (lat : Nat) (op : Val → Val → Val → Nat × Nat) : Host.Outcome State Fault Refusal :=
  b.elems f lat (fun x y z _ => op (decodeFp f.ty.toNat x) (decodeFp f.ty.toNat y) (decodeFp f.ty.toNat z))

/-- Each active lane receives a value of type ty with flags, six steps off (R156). -/
def Begun.crosses (b : Begun) (f : VFmt) (g : Nat → Nat × Nat) : Host.Outcome State Fault Refusal :=
  b.lanes 6 (fun l => { tgts := vdTgts f.ty.toNat f.vd.toNat l (g l).1, flags := (g l).2, fmt := [] })

/-- Where a transfer goes directly (R116): the line of the instruction moved by disp lines, at the slot named. -/
def Begun.direct (b : Begun) (f : BFmt) : Dword :=
  BitVec.ofInt 64 (((64 * (lineOf b.c.cur.at_) : Nat) : Int) + 64 * f.disp.toInt + f.slot.toNat)

/-- Where slice `j` goes where it is taken: the copy of st, or the direct target (R116). -/
def Begun.target (b : Begun) (f : BFmt) (j : Nat) : Dword := if f.ind then b.c.s f.st j else b.direct f

/-- The slices in which the guard and `taken` hold, with their targets. -/
def Begun.taken (b : Begun) (taken : Nat → Bool) (target : Nat → Dword) : List (Nat × Dword) :=
  (b.c.pass.filter taken).map (fun j => (j, target j))

/-- The step ends with every slice of the fragment at its target, or at the next PC where it is not taken (R90, R91), after what
`eff` does. -/
def Begun.goes (b : Begun) (ts : List (Nat × Dword)) (eff : State → State) : Host.Outcome State Fault Refusal :=
  .next (b.moved ((eff b.s).updIssuer b.c.who (fun u => u.goTo b.c.entry (b.c.slices.map (fun j =>
    (j, match ts.find? (fun p => p.1 = j) with
      | some p => p.2.setWidth 57
      | none => b.c.cur.next))))))

/-- Every target stands in a page that may be executed, its line is at hand, and it names a slot that an instruction may begin in
(R44). -/
def Begun.checked (b : Begun) (ts : List (Nat × Dword)) : Prop :=
  (b.s.checkTargets b.c.who b.c.u.ctx (ts.map (fun p => p.2))).1 = Chk.ok

/-- The accesses of an instruction are entered in the log, and its step ends (R183). -/
def Begun.logs (b : Begun) (o : Host.Outcome State Fault Refusal) (i : Instr) (kind : AccKind) (space width : Nat) (uni : Bool)
    (accs : List Acc) : Prop :=
  ∃ t, b.c.access i kind space width uni accs b.s = .ok t ∧ o = .next (b.done t)

-- when a step runs what it has decoded, and what else may bear on it

/-- Whether fragment `e` of issuer `w` is tried at the line `l` that is held for its PC: it may be tried, the scheduler does not pass
it over, nothing holds its issuer back, no younger request of this cycle has taken registers of the pool before one that it makes, it
owes no check of its PC, the PC names a slot, and the line has passed its check (R41 to R44, R104, R105, R121, R200, R338). -/
def ready (s : State) (w : Who) (e : Nat) (u : Issuer) (l : Line) : Prop :=
  s.issuer w = some u ∧ (u.frag e).tryable = true ∧ u.ended = false ∧ s.stopped = false ∧ s.suspst = 0 ∧ w.isSaved = false ∧
  (∀ n g, w = .gang n g → g < 32 ∧ s.stoppedAt n u.blk = false) ∧ (∀ n b, w = .stream n b → s.stoppedAt n b = false) ∧
  s.outranked w e (u.frag e) = false ∧ s.tooLate w (s.prospect w e) = false ∧ s.insertHolds w (u.frag e) = false ∧
  (u.frag e).entryCheck = false ∧ bitsAt (u.frag e).pc 3 3 = 0 ∧ slotOf (u.frag e).pc ≤ 4 ∧
  s.lineAt w.place u.ctx (lineOf (u.frag e).pc) = some l ∧ l.bad = none ∧ bitsAt l.data 489 7 = 0

/-- The instruction is alone in its step, and nothing of its issuer's but the instruction itself bears on it: no result on its way, no
ladle, no DSTEP, no halt that waits for the end of its step, no sieve of its core. -/
def quiet (s : State) (cur : Cur) (u : Issuer) : Prop :=
  cur.role = .single ∧ cur.lads = none ∧ s.issuer cur.who = some u ∧ u.flights = [] ∧ u.ladles = [] ∧ u.stepping = [] ∧
  (∀ p ∈ u.frags, p.2.stepsLeft = none) ∧ (∀ v ∈ u.saved, ∀ p ∈ v.frags, p.2.stepsLeft = none) ∧ (u.frag cur.entry).held = [] ∧ s.svOld = [] ∧
  ∀ n, cur.who.core? = some n → (s.core n).probe.seenIn s.cycles = []

/-- The trap, matrix, copy and debug registers of an issuer, and what it is: all but its operands, table, results and log. -/
def specials (u : Issuer) : Issuer :=
  { u with v := [], a := [], s := [], c := [], m := [], fstat := [], frags := [], flights := [], nextTag := 0, log := [], ladles := [] }

/-- Whether an instruction of groups 0 to 7 may write `s r`, `c r`, `m r`, `v r` (R54). -/
def writesS (i : Instr) (r : Nat) : Bool :=
  match i.form with
  | some (op, _, .s f) => r = f.sd.toNat && op ≠ 0x040 && !([0x080, 0x081, 0x082, 0x083, 0x084, 0x088, 0x089].contains op)
  | some (_, _, .sli f _) => r = f.sd.toNat
  | some (op, _, .b f) => op = 0x0C8 && r = f.sl.toNat
  | some (op, _, .v f) => op = 0x1C6 && r = f.vd.toNat % 64
  | _ => false
def writesC (i : Instr) (r : Nat) : Bool :=
  match i.form with
  | some (op, _, .s f) => op = 0x040 && r = f.cx.toNat
  | _ => false
def writesM (i : Instr) (r : Nat) : Bool :=
  match i.form with
  | some (op, _, .s f) => [0x080, 0x081, 0x082, 0x083, 0x084, 0x088, 0x089].contains op && r = f.sd.toNat
  | some (op, _, .v f) => (op = 0x110 || op = 0x148 || op = 0x1C7) && r = f.vd.toNat
  | _ => false
def writesV (i : Instr) (r : Nat) : Bool :=
  match i.form with
  | some (op, _, .v f) =>
    let span := if op = 0x182 then (if f.aux = 15 then 5 else 32 / tyBits f.aux.toNat) else if pairTy f.ty.toNat && op ≠ 0x149 then 2 else 1
    (op ≠ 0x110 && op ≠ 0x148 && op ≠ 0x1C6 && op ≠ 0x1C7 && f.vd.toNat ≤ r && r < f.vd.toNat + span)
      || (op = 0x183 && r = f.vc.toNat)
  | _ => false

/-- Whether a result may be one of such an instruction: for its destinations, or for the flags of FSTAT (R34). -/
def mayLand (i : Instr) (t : Tgt) : Bool :=
  match t with
  | .s _ r _ => writesS i r
  | .c _ r _ => writesC i r
  | .m _ r _ _ => writesM i r
  | .v _ r _ _ => writesV i r
  | .a _ _ _ => false
  | .fstat _ _ => true
  | .bind _ _ _ _ _ _ => false

end Sys2Proof.Safety
end

