-- ==== Sys2Proof/Certificates/Slice0/Obligations.lean ====
section
/-! DEFINITION. The statements for the provers. -/

open Sys2Proof Sys2Proof.Machine Sys2Proof.Safety

/-- SADD, SSUB, SMUL, SMULH, SMIN, SMAX, SLEA, SMOV and SLI complete with the results of R108, R109 and R53 (R53, R108, R109). -/
def Obligations.ScalarIntegerResults : Prop :=
  ∀ (h : Hdr) (f : SFmt) (ext : IWord) (s : State) (b : Begun),
    (begun (.sadd h f) h s = some b → exec (.sadd h f) s = b.putInt f (fun j => b.x f j + b.y f j)) ∧
    (begun (.ssub h f) h s = some b → exec (.ssub h f) s = b.putInt f (fun j => b.x f j - b.y f j)) ∧
    (begun (.smul h f) h s = some b → exec (.smul h f) s = b.putInt f (fun j => b.x f j * b.y f j)) ∧
    (begun (.smulh h f) h s = some b →
      exec (.smulh h f) s = b.putInt f (fun j => b.x f j * b.y f j / ((2 ^ tyBits f.ty.toNat : Nat) : Int))) ∧
    (begun (.smin h f) h s = some b → exec (.smin h f) s = b.putInt f (fun j => min (b.x f j) (b.y f j))) ∧
    (begun (.smax h f) h s = some b → exec (.smax h f) s = b.putInt f (fun j => max (b.x f j) (b.y f j))) ∧
    (begun (.slea h f) h s = some b →
      exec (.slea h f) s = b.putInt f (fun j => b.x f j + b.y f j * ((2 ^ f.pos.toNat : Nat) : Int))) ∧
    (begun (.smov h f) h s = some b →
      exec (.smov h f) s = b.putInt f (fun j => opnd f.ty.toNat (if f.i then imm64 f.ty.toNat f.imm else b.c.s f.sa j))) ∧
    (begun (.sli h f ext) h s = some b → exec (.sli h f ext) s = b.putS f.sd (fun _ => ext.extractLsb' 0 32 ++ f.imm))

/-- SDIV and SREM complete, with the results of R110 also for a zero divisor and for overflow (R108, R110). -/
def Obligations.ScalarDivision : Prop :=
  ∀ (h : Hdr) (f : SFmt) (s : State) (b : Begun),
    (begun (.sdiv h f) h s = some b → exec (.sdiv h f) s = b.putInt f (fun j =>
      if b.y f j = 0 then -1 else Int.tdiv (b.x f j) (b.y f j))) ∧
    (begun (.srem h f) h s = some b → exec (.srem h f) s = b.putInt f (fun j =>
      if b.y f j = 0 then b.x f j else Int.tmod (b.x f j) (b.y f j)))

/-- SAND, SOR, SXOR, SANDN, the shifts, SPOPC, SCLZ, SBFX and SBFI complete with the results of R109, R111 and R112 (R108, R109,
R111, R112). -/
def Obligations.ScalarBitResults : Prop :=
  ∀ (h : Hdr) (f : SFmt) (s : State) (b : Begun),
    (begun (.sand h f) h s = some b → exec (.sand h f) s = b.putInt f (fun j => ((b.c.s f.sa j &&& b.c.srcB f j).toNat : Int))) ∧
    (begun (.sor h f) h s = some b → exec (.sor h f) s = b.putInt f (fun j => ((b.c.s f.sa j ||| b.c.srcB f j).toNat : Int))) ∧
    (begun (.sxor h f) h s = some b → exec (.sxor h f) s = b.putInt f (fun j => ((b.c.s f.sa j ^^^ b.c.srcB f j).toNat : Int))) ∧
    (begun (.sandn h f) h s = some b →
      exec (.sandn h f) s = b.putInt f (fun j => ((b.c.s f.sa j &&& ~~~(b.c.srcB f j)).toNat : Int))) ∧
    (begun (.sshl h f) h s = some b → exec (.sshl h f) s = b.putInt f (fun j =>
      if tyBits f.ty.toNat ≤ (b.c.srcB f j).toNat then 0
      else (((b.c.s f.sa j).toNat % 2 ^ tyBits f.ty.toNat * 2 ^ (b.c.srcB f j).toNat : Nat) : Int))) ∧
    (begun (.sshr h f) h s = some b → exec (.sshr h f) s = b.putInt f (fun j =>
      if tyBits f.ty.toNat ≤ (b.c.srcB f j).toNat then 0
      else (((b.c.s f.sa j).toNat % 2 ^ tyBits f.ty.toNat / 2 ^ (b.c.srcB f j).toNat : Nat) : Int))) ∧
    (begun (.ssar h f) h s = some b → exec (.ssar h f) s = b.putInt f (fun j =>
      ((sarW (tyBits f.ty.toNat) ((b.c.s f.sa j).toNat % 2 ^ tyBits f.ty.toNat) (b.c.srcB f j).toNat : Nat) : Int))) ∧
    (begun (.spopc h f) h s = some b → exec (.spopc h f) s = b.putS f.sd (fun j =>
      BitVec.ofNat 64 (popCount ((b.c.s f.sa j).toNat % 2 ^ tyBits f.ty.toNat) (tyBits f.ty.toNat)))) ∧
    (begun (.sclz h f) h s = some b → exec (.sclz h f) s = b.putS f.sd (fun j =>
      BitVec.ofNat 64 (leadingZeros ((b.c.s f.sa j).toNat % 2 ^ tyBits f.ty.toNat) (tyBits f.ty.toNat)))) ∧
    (begun (.sbfx h f) h s = some b → exec (.sbfx h f) s = b.putS f.sd (fun j => BitVec.ofInt 64
      (fieldOf (f.ty.toNat < 4) ((b.c.s f.sa j).toNat % 2 ^ tyBits f.ty.toNat) f.pos.toNat f.wid.toNat))) ∧
    (begun (.sbfi h f) h s = some b → exec (.sbfi h f) s = b.putInt f (fun j =>
      ((insertField ((b.c.s f.sd j).toNat % 2 ^ tyBits f.ty.toNat) (b.c.s f.sa j).toNat f.pos.toNat f.wid.toNat : Nat) : Int)))

/-- SCMP and SSEL complete as R113 states (R108, R113). -/
def Obligations.CompareAndSelect : Prop :=
  ∀ (h : Hdr) (f : SFmt) (s : State) (b : Begun),
    (begun (.scmp h f) h s = some b → exec (.scmp h f) s = b.putC f.cx (fun j =>
      if f.aux = 0 then b.x f j == b.y f j
      else if f.aux = 1 then b.x f j != b.y f j
      else if f.aux = 2 then decide (b.x f j < b.y f j)
      else if f.aux = 3 then decide (b.x f j ≤ b.y f j)
      else if f.aux = 4 then decide (b.x f j > b.y f j)
      else decide (b.x f j ≥ b.y f j))) ∧
    (begun (.ssel h f) h s = some b → exec (.ssel h f) s = b.putS f.sd (fun j =>
      if b.c.c f.cx j then b.c.s f.sa j else b.c.srcB f j))

/-- The ten mask instructions complete as R114 states (R83, R114). -/
def Obligations.MaskResults : Prop :=
  ∀ (h : Hdr) (f : SFmt) (s : State) (b : Begun),
    let ma := fun (b : Begun) => b.c.m f.sa.toNat
    let mb := fun (b : Begun) => if f.i then f.imm else b.c.m f.sb.toNat
    (begun (.mand h f) h s = some b → exec (.mand h f) s = b.putM f.sd (nibble (ma b &&& mb b))) ∧
    (begun (.mor h f) h s = some b → exec (.mor h f) s = b.putM f.sd (nibble (ma b ||| mb b))) ∧
    (begun (.mxor h f) h s = some b → exec (.mxor h f) s = b.putM f.sd (nibble (ma b ^^^ mb b))) ∧
    (begun (.mandn h f) h s = some b → exec (.mandn h f) s = b.putM f.sd (nibble (ma b &&& ~~~(mb b)))) ∧
    (begun (.mnot h f) h s = some b → exec (.mnot h f) s = b.putM f.sd (nibble (~~~(ma b)))) ∧
    (begun (.mmov h f) h s = some b → exec (.mmov h f) s = b.putM f.sd (nibble (mb b))) ∧
    (begun (.mput h f) h s = some b → exec (.mput h f) s = b.putM f.sd (fun j => (b.c.s f.sa j).extractLsb' (4 * j) 4)) ∧
    (begun (.mpopc h f) h s = some b →
      exec (.mpopc h f) s = b.putS f.sd (fun _ => BitVec.ofNat 64 (popCount (ma b).toNat 32))) ∧
    (begun (.mffs h f) h s = some b →
      exec (.mffs h f) s = b.putS f.sd (fun _ => BitVec.ofNat 64 (lowestBit (ma b).toNat 0 32))) ∧
    (begun (.mget h f) h s = some b → exec (.mget h f) s = b.putS f.sd (fun _ => (ma b).setWidth 64))

/-- VADD, VSUB, VMUL, VMULH, VMAD, VMIN, VMAX, VABS, VNEG and VDOT4 complete as R140 and R142 state (R18, R64, R140, R142). -/
def Obligations.VectorIntegerResults : Prop :=
  ∀ (h : Hdr) (f : VFmt) (s : State) (b : Begun),
    (begun (.vadd h f) h s = some b → exec (.vadd h f) s = b.ints f (fun x y _ => x + y)) ∧
    (begun (.vsub h f) h s = some b → exec (.vsub h f) s = b.ints f (fun x y _ => x - y)) ∧
    (begun (.vmul h f) h s = some b → exec (.vmul h f) s = b.ints f (fun x y _ => x * y)) ∧
    (begun (.vmulh h f) h s = some b →
      exec (.vmulh h f) s = b.ints f (fun x y _ => x * y / ((2 ^ tyBits f.ty.toNat : Nat) : Int))) ∧
    (begun (.vmad h f) h s = some b → exec (.vmad h f) s = b.ints f (fun x y z => x * y + z)) ∧
    (begun (.vmin h f) h s = some b → exec (.vmin h f) s = b.ints f (fun x y _ => min x y)) ∧
    (begun (.vmax h f) h s = some b → exec (.vmax h f) s = b.ints f (fun x y _ => max x y)) ∧
    (begun (.vabs h f) h s = some b → exec (.vabs h f) s = b.ints f (fun x _ _ => if x < 0 then -x else x)) ∧
    (begun (.vneg h f) h s = some b → exec (.vneg h f) s = b.ints f (fun x _ _ => -x)) ∧
    (begun (.vdot4 h f) h s = some b → exec (.vdot4 h f) s = b.lanes 2 (fun l =>
      let bytes := fun (ty : Nat) (x : Word) => (unpackN 8 4 x.toNat).map (elemInt ty)
      let p := List.zipWith (fun x y => x * y) (bytes f.ty.toNat (b.c.v1 f.va.toNat l))
        (bytes f.aux.toNat (if f.i then f.imm else b.c.v1 f.vb.toNat l))
      let r := intOut 2 f.sat (p.foldl (fun x y => x + y) (b.c.v1 f.vc.toNat l).toInt)
      { tgts := [laneTgt l f.vd.toNat r.1], flags := r.2, fmt := [] }))

/-- The bitwise, shift, count, bit-field, move, compare and select instructions of group 4 complete as R140, R141 and R143 to R145
state (R140, R141, R143, R144, R145). -/
def Obligations.VectorBitResults : Prop :=
  ∀ (h : Hdr) (f : VFmt) (s : State) (b : Begun),
    let w := tyBits f.ty.toNat
    (begun (.vand h f) h s = some b → exec (.vand h f) s = b.elems f 2 (fun x y _ _ => (x &&& y, 0))) ∧
    (begun (.vor h f) h s = some b → exec (.vor h f) s = b.elems f 2 (fun x y _ _ => (x ||| y, 0))) ∧
    (begun (.vxor h f) h s = some b → exec (.vxor h f) s = b.elems f 2 (fun x y _ _ => (x ^^^ y, 0))) ∧
    (begun (.vandn h f) h s = some b → exec (.vandn h f) s = b.elems f 2 (fun x y _ _ => (x &&& (2 ^ w - 1 - y), 0))) ∧
    (begun (.vshl h f) h s = some b → exec (.vshl h f) s = b.elems f 2 (fun x y _ _ =>
      if f.sat then clampInt f.ty.toNat (elemInt f.ty.toNat x * ((2 ^ Nat.min y w : Nat) : Int))
      else (if w ≤ y then 0 else x * 2 ^ y, 0))) ∧
    (begun (.vshr h f) h s = some b → exec (.vshr h f) s = b.elems f 2 (fun x y _ _ => (if w ≤ y then 0 else x / 2 ^ y, 0))) ∧
    (begun (.vsar h f) h s = some b → exec (.vsar h f) s = b.elems f 2 (fun x y _ _ => (sarW w x y, 0))) ∧
    (begun (.vpopc h f) h s = some b → exec (.vpopc h f) s = b.elems f 2 (fun x _ _ _ => (popCount x w, 0))) ∧
    (begun (.vclz h f) h s = some b → exec (.vclz h f) s = b.elems f 2 (fun x _ _ _ => (leadingZeros x w, 0))) ∧
    (begun (.vbfx h f) h s = some b → exec (.vbfx h f) s = b.elems f 2 (fun x _ _ _ =>
      (wrapW w (fieldOf (f.ty.toNat < 4) x (bitsAt f.imm 0 6) (bitsAt f.imm 6 7)), 0))) ∧
    (begun (.vbfi h f) h s = some b → exec (.vbfi h f) s = b.elems f 2 (fun x _ _ old =>
      (insertField old x (bitsAt f.imm 0 6) (bitsAt f.imm 6 7), 0))) ∧
    (begun (.vmov h f) h s = some b → exec (.vmov h f) s = b.elems f 2 (fun x y _ _ => (if f.i then y else x, 0))) ∧
    (begun (.vspl h f) h s = some b → exec (.vspl h f) s = b.lanes 2 (fun l =>
      { tgts := vdTgts f.ty.toNat f.vd.toNat l
          (packN w (List.replicate (elemCount f.ty.toNat) (b.c.s (f.va.setWidth 6) (l / 4)).toNat)), flags := 0, fmt := [] })) ∧
    (begun (.vcmp h f) h s = some b → exec (.vcmp h f) s = b.lanes 2 (fun l =>
      { tgts := [bitTgt l f.vd.toNat (condInt f.aux.toNat
          (elemInt f.ty.toNat ((b.c.velems f.ty.toNat f.va.toNat l).getD f.sel.toNat 0))
          (elemInt f.ty.toNat ((b.c.vb f l).getD f.sel.toNat 0)))], flags := 0, fmt := [] })) ∧
    (begun (.vsel h f) h s = some b → exec (.vsel h f) s = b.lanes 2 (fun l =>
      let pick := (b.c.m f.vc.toNat).getLsbD l
      { tgts := vdTgts f.ty.toNat f.vd.toNat l (if pick then b.c.vraw f.ty.toNat f.va.toNat l else packN w (b.c.vb f l))
        flags := if pick then 0 else immFlags f, fmt := [] }))

/-- The floating-point arithmetic, minimum, maximum, comparison, class and rounding instructions complete as R146 to R149 and R151
state (R146, R147, R148, R149, R151). -/
def Obligations.VectorFloatResults : Prop :=
  ∀ (h : Hdr) (f : VFmt) (s : State) (b : Begun),
    let ty := f.ty.toNat
    let rnd := f.rnd.toNat
    (begun (.vfadd h f) h s = some b → exec (.vfadd h f) s = b.floats f 4 (fun x y _ => fAdd ty rnd x y)) ∧
    (begun (.vfsub h f) h s = some b → exec (.vfsub h f) s = b.floats f 4 (fun x y _ => fAdd ty rnd x y.neg)) ∧
    (begun (.vfmul h f) h s = some b → exec (.vfmul h f) s = b.floats f 4 (fun x y _ => fMul ty rnd x y)) ∧
    (begun (.vfma h f) h s = some b → exec (.vfma h f) s = b.floats f 4 (fun x y z => fFma ty rnd x y z)) ∧
    (begun (.vfms h f) h s = some b → exec (.vfms h f) s = b.floats f 4 (fun x y z => fFma ty rnd x y z.neg)) ∧
    (begun (.vfnma h f) h s = some b → exec (.vfnma h f) s = b.floats f 4 (fun x y z => fFma ty rnd x.neg y z)) ∧
    (begun (.vfmin h f) h s = some b → exec (.vfmin h f) s = b.elems f 4 (fun x y _ _ => fMinMax false ty x y)) ∧
    (begun (.vfmax h f) h s = some b → exec (.vfmax h f) s = b.elems f 4 (fun x y _ _ => fMinMax true ty x y)) ∧
    (begun (.vfrnd h f) h s = some b → exec (.vfrnd h f) s = b.floats f 4 (fun x _ _ => fIntegral false ty rnd x)) ∧
    (begun (.vftrunc h f) h s = some b → exec (.vftrunc h f) s = b.floats f 4 (fun x _ _ => fIntegral true ty 1 x)) ∧
    (begun (.vfcmp h f) h s = some b → exec (.vfcmp h f) s = b.lanes 4 (fun l =>
      let r := fCompare ty f.aux.toNat (b.c.vraw ty f.va.toNat l) ((b.c.vb f l).getD 0 0)
      { tgts := [bitTgt l f.vd.toNat r.1], flags := r.2 ||| immFlags f, fmt := [] })) ∧
    (begun (.vfclass h f) h s = some b → exec (.vfclass h f) s = b.lanes 4 (fun l =>
      { tgts := [laneTgt l f.vd.toNat (2 ^ fClass ty (b.c.vraw ty f.va.toNat l))], flags := 0, fmt := [] })) ∧
    (begun (.vfscale h f) h s = some b → exec (.vfscale h f) s = b.lanes 4 (fun l =>
      let r := fScale ty rnd (decodeFp ty (b.c.vraw ty f.va.toNat l)) (if f.i then f.imm.toInt else (b.c.v1 f.vb.toNat l).toInt)
      { tgts := vdTgts ty f.vd.toNat l r.1, flags := r.2, fmt := [] }))

/-- VRCP, VRSQ, VSQRT, VDIV, VEXP2, VLOG2, VSIN and VCOS complete as R150 states (R64, R150). Model's choices: log row 10, what
the transcendentals round; row 29 (DEDUCED), VSIN of -0 is -0. -/
def Obligations.VectorFunctionResults : Prop :=
  ∀ (h : Hdr) (f : VFmt) (s : State) (b : Begun),
    let ty := f.ty.toNat
    let rnd := f.rnd.toNat
    (begun (.vrcp h f) h s = some b → exec (.vrcp h f) s = b.floats f 12 (fun x _ _ => fDiv ty rnd fOne x)) ∧
    (begun (.vrsq h f) h s = some b → exec (.vrsq h f) s = b.floats f 12 (fun x _ _ => fRsqrt ty rnd x)) ∧
    (begun (.vsqrt h f) h s = some b → exec (.vsqrt h f) s = b.floats f 12 (fun x _ _ => fSqrt ty rnd x)) ∧
    (begun (.vdiv h f) h s = some b → exec (.vdiv h f) s = b.floats f 12 (fun x y _ => fDiv ty rnd x y)) ∧
    (begun (.vexp2 h f) h s = some b → exec (.vexp2 h f) s = b.floats f 12 (fun x _ _ => fExp2 rnd x)) ∧
    (begun (.vlog2 h f) h s = some b → exec (.vlog2 h f) s = b.floats f 12 (fun x _ _ => fLog2 rnd x)) ∧
    (begun (.vsin h f) h s = some b → exec (.vsin h f) s = b.floats f 12 (fun x _ _ => fSinPi rnd x)) ∧
    (begun (.vcos h f) h s = some b → exec (.vcos h f) s = b.floats f 12 (fun x _ _ => fCosPi rnd x))

/-- VCVT, VPACK, VUNPACK, VDEQ, VSCALE and VQUANT complete as R152 to R155 state (R152, R153, R154, R155). Model's choice: log row
27 (DEDUCED), the amax of VQUANT is taken over the active lanes of the slices where the guard is true, so slices with a false
guard take no part. -/
def Obligations.ConversionResults : Prop :=
  ∀ (h : Hdr) (f : VFmt) (s : State) (b : Begun),
    let ty := f.ty.toNat
    let src := f.aux.toNat
    let w := tyBits ty
    let sel := f.sel.toNat
    let byte := fun (b : Begun) (l : Nat) => (b.c.v1 f.vb.toNat l).toNat / 2 ^ (8 * scaleByte ty sel) % 256
    (begun (.vcvt h f) h s = some b → exec (.vcvt h f) s = b.lanes 4 (fun l =>
      let raw := b.c.vraw src f.va.toNat l
      let x := if tyBits src < 32 then raw / 2 ^ (tyBits src * sel) % 2 ^ tyBits src else raw
      let r := convert ty src f.rnd.toNat f.sat x
      { tgts := if w < 32 then [partTgt l f.vd.toNat (w * sel) w r.1] else vdTgts ty f.vd.toNat l r.1
        flags := r.2, fmt := [] })) ∧
    (begun (.vpack h f) h s = some b → exec (.vpack h f) s = b.lanes 4 (fun l =>
      let rs := (List.range (runLen ty)).map (fun e =>
        convert ty src f.rnd.toNat f.sat (b.c.v1 (f.va.toNat + e) l).toNat)
      { tgts := [laneTgt l f.vd.toNat (packN w (rs.map (fun p => p.1)))]
        flags := rs.foldl (fun a p => a ||| p.2) 0, fmt := [] })) ∧
    (begun (.vunpack h f) h s = some b → exec (.vunpack h f) s = b.lanes 4 (fun l =>
      let x := (b.c.v1 f.va.toNat l).toNat
      if src = 15 then
        let n := x / 2 ^ (8 * sel) % 256
        let trit := fun (t : Nat) => if ty = 9 then (toFp 9 0 false (ofInt (tritOf n t))).1 else wrapW 32 (tritOf n t)
        { tgts := (List.range 5).map (fun t => laneTgt l (f.vd.toNat + t) (trit t))
          flags := if tritBad n then fFMT else 0, fmt := if tritBad n then [n] else [] }
      else
        let rs := (unpackN (tyBits src) (32 / tyBits src) x).map (fun e => convert ty src 0 false e)
        { tgts := ((List.range rs.length).zip rs).map (fun p => laneTgt l (f.vd.toNat + p.1) p.2.1)
          flags := rs.foldl (fun a p => a ||| p.2) 0, fmt := [] })) ∧
    (begun (.vdeq h f) h s = some b → exec (.vdeq h f) s = b.lanes 4 (fun l =>
      let sc := scaleOf (byte b l)
      let p := scaleBy (decodeFp ty ((b.c.v1 f.va.toNat l).toNat / 2 ^ (w * sel) % 2 ^ w)) sc.1
      { tgts := [laneTgt l f.vd.toNat (toFp 9 0 false p.1).1], flags := p.2 ||| sc.2
        fmt := if sc.2 = 0 then [] else [byte b l] })) ∧
    (begun (.vscale h f) h s = some b → exec (.vscale h f) s = b.lanes 4 (fun l =>
      let sc := scaleOf (byte b l)
      let r := quantise ty f.rnd.toNat (decodeFp 9 (b.c.v1 f.va.toNat l).toNat) sc.1
      { tgts := [partTgt l f.vd.toNat (w * sel) w r.1], flags := r.2 ||| sc.2
        fmt := if sc.2 = 0 then [] else [byte b l] })) ∧
    (begun (.vquant h f) h s = some b → exec (.vquant h f) s = (
      let code := quantCode ty (amaxCode (b.c.act.map (fun l => (b.c.v1 f.va.toNat l).toNat)))
      b.lanes 4 (fun l =>
        let r := quantise ty f.rnd.toNat (decodeFp 9 (b.c.v1 f.va.toNat l).toNat) (scaleOf code).1
        { tgts := [partTgt l f.vc.toNat (8 * scaleByte ty sel) 8 code, partTgt l f.vd.toNat (w * sel) w r.1]
          flags := r.2, fmt := [] })))

/-- QSWAP, QBCAST, VSHFL, VBCAST, VRED, VSCAN, VBALLOT, VELECT and VCOMPACT complete as R156 to R162 state (R156, R159, R160,
R161, R162). Model's choices: log row 27 (DEDUCED), slices where the guard is false take no part in VRED, VSCAN, VBALLOT,
VELECT and VCOMPACT; row 29 (DEDUCED), a tree sum of -0 and +0 is +0 in every rounding mode; row 147 (DEDUCED), an inclusive
float scan under .min or .max folds from the identity; row 162 (DEDUCED), the flags of a scan are those of the step that gave
the lane its value; row 163 (DEDUCED), every active lane presents the flags of VRED. -/
def Obligations.CrossLaneResults : Prop :=
  ∀ (h : Hdr) (f : VFmt) (s : State) (b : Begun),
    let ty := f.ty.toNat
    let aux := f.aux.toNat
    let src := fun (b : Begun) (l : Nat) => if b.c.inside l then b.c.vraw ty f.va.toNat l else 0
    let op := redOp ty aux f.rnd.toNat
    (begun (.qswap h f) h s = some b → exec (.qswap h f) s = b.crosses f (fun l => (src b (l ^^^ (aux + 1)), 0))) ∧
    (begun (.qbcast h f) h s = some b → exec (.qbcast h f) s = b.crosses f (fun l => (src b (l / 4 * 4 + f.sel.toNat), 0))) ∧
    (begun (.vshfl h f) h s = some b → exec (.vshfl h f) s = b.crosses f (fun l =>
      let d := (if f.i then f.imm.toNat else b.c.vraw ty f.vb.toNat l) % 32
      (src b (if aux = 0 then d else if aux = 1 then (if d ≤ l then l - d else l)
        else if aux = 2 then (if l + d < 32 then l + d else l) else l ^^^ d), 0))) ∧
    (begun (.vbcast h f) h s = some b → exec (.vbcast h f) s = b.crosses f (fun l =>
      (src b (if f.i then f.imm.toNat % 32 else (b.c.s (f.vb.setWidth 6) (l / 4)).toNat % 32), 0))) ∧
    (begun (.vred h f) h s = some b → exec (.vred h f) s = b.crosses f (fun _ =>
      let xs := (List.range 32).map (fun l => if b.c.act.contains l then src b l else redIdent ty aux)
      let r := redTree op 5 (xs, 0)
      (r.1.headD 0, r.2))) ∧
    (begun (.vscan h f) h s = some b → exec (.vscan h f) s = b.crosses f (fun l =>
      let out := scanOut op (f.sel.toNat % 2 = 1) (b.c.act.map (fun l => (l, src b l))) (redIdent ty aux)
        (if aux = 0 then 0 else redIdent ty aux) 0
      (out.find? (fun p => p.1 = l)).map (fun p => p.2) |>.getD (0, 0))) ∧
    (begun (.vballot h f) h s = some b → exec (.vballot h f) s = .next (b.done (b.c.fixed 6 (b.c.pass.map (fun j =>
      (j, Tgt.s j (f.vd.toNat % 64) (BitVec.ofNat 64 (maskOf (b.c.act.filter (fun l => b.c.v1 f.va.toNat l != 0)))))) ) b.s))) ∧
    (begun (.velect h f) h s = some b → exec (.velect h f) s = b.lanes 6 (fun l =>
      { tgts := [bitTgt l f.vd.toNat (!(b.c.act.any (fun k => k < l && src b k == src b l)))], flags := 0, fmt := [] })) ∧
    (begun (.vcompact h f) h s = some b → exec (.vcompact h f) s = b.lanes 6 (fun l =>
      { tgts := match (b.c.act.zip (b.c.act.filter (fun k => (b.c.m f.vc.toNat).getLsbD k))).find? (fun p => p.1 = l) with
          | none => []
          | some p => vdTgts ty f.vd.toNat l (src b p.2)
        flags := 0, fmt := [] }))

/-- BRA, BRC, BRZ, BRNZ, BRV_ANY, BRV_ALL, BRL, CALL and RET go where R116 to R118 state once their targets are checked (R44, R90,
R116, R117, R118). Model's choice: log row 123 (DEDUCED), only the targets of slices in which the guard is true and the
transfer taken are checked. -/
def Obligations.TransferResults : Prop :=
  ∀ (h : Hdr) (f : BFmt) (s : State) (b : Begun),
    let m := b.c.m f.mt.toNat
    let act := b.c.u.active b.c.fr
    let any := fun (j : Nat) => nibble (m &&& act) j != 0
    let all := fun (j : Nat) => nibble (act &&& ~~~m) j == 0
    let ended := fun (j : Nat) => f.dim.toNat < 5 && (match b.c.u.ladles.find (8 * f.q.toNat + j) with
      | none => false
      | some l => l.ends.getLsbD f.dim.toNat) == f.inv
    let goto_ := fun (p : Nat → Bool) => b.taken p (b.target f)
    (begun (.bra h f) h s = some b → b.checked (goto_ (fun _ => true)) →
      exec (.bra h f) s = b.goes (goto_ (fun _ => true)) (fun t => t)) ∧
    (begun (.brc h f) h s = some b → b.checked (goto_ (fun j => b.c.c f.cb j != f.inv)) →
      exec (.brc h f) s = b.goes (goto_ (fun j => b.c.c f.cb j != f.inv)) (fun t => t)) ∧
    (begun (.brz h f) h s = some b → b.checked (goto_ (fun _ => m == 0)) →
      exec (.brz h f) s = b.goes (goto_ (fun _ => m == 0)) (fun t => t)) ∧
    (begun (.brnz h f) h s = some b → b.checked (goto_ (fun _ => m != 0)) →
      exec (.brnz h f) s = b.goes (goto_ (fun _ => m != 0)) (fun t => t)) ∧
    (begun (.brvAny h f) h s = some b → b.checked (goto_ any) → exec (.brvAny h f) s = b.goes (goto_ any) (fun t => t)) ∧
    (begun (.brvAll h f) h s = some b → b.checked (goto_ all) → exec (.brvAll h f) s = b.goes (goto_ all) (fun t => t)) ∧
    (begun (.brl h f) h s = some b → b.checked (goto_ ended) → exec (.brl h f) s = b.goes (goto_ ended) (fun t => t)) ∧
    (begun (.call h f) h s = some b → b.checked (goto_ (fun _ => true)) →
      exec (.call h f) s = b.goes (goto_ (fun _ => true)) (fun t => b.c.fixed 1 (b.c.pass.map (fun j =>
        (j, Tgt.s j f.sl.toNat ((Pc.advance b.c.cur.at_ 1).setWidth 64)))) t)) ∧
    (begun (.ret h f) h s = some b → b.checked (b.taken (fun _ => true) (b.c.s f.sl)) →
      exec (.ret h f) s = b.goes (b.taken (fun _ => true) (b.c.s f.sl)) (fun t => t))

/-- A transfer whose target fails its check traps with the cause of the check and has no other effect (R44, R58, R116, R117, R118,
R124, R126). Model's choices: log row 123 (DEDUCED), only the targets of slices in which the guard is true and the transfer
taken are checked; row 17 (DEDUCED), a direct target that leaves the 57-bit space gives TARGET; row 159 (DEDUCED), a malformed
target gives TARGET without its line. -/
def Obligations.TransferTargetTrap : Prop :=
  (∀ (h : Hdr) (f : BFmt) (s : State) (b : Begun) (n : Nat) (v : Dword),
    let m := b.c.m f.mt.toNat
    let act := b.c.u.active b.c.fr
    let ended := fun (j : Nat) => f.dim.toNat < 5 && (match b.c.u.ladles.find (8 * f.q.toNat + j) with
      | none => false
      | some l => l.ends.getLsbD f.dim.toNat) == f.inv
    let t := (if n = 2 then b.s else b.s.forgetTarget b.c v).markTrapped b.c.who b.c.entry b.c.cur.pc (b.c.fault n 0 v)
    let traps := fun (i : Instr) (p : Nat → Bool) (target : Nat → Dword) => begun i h s = some b → (∀ o, b.c.cur.role ≠ .second o) →
      b.s.checkTargets b.c.who b.c.u.ctx ((b.taken p target).map (fun x => x.2)) = (.bad n, v) → exec i s = .next t
    traps (.bra h f) (fun _ => true) (b.target f) ∧
    traps (.brc h f) (fun j => b.c.c f.cb j != f.inv) (b.target f) ∧
    traps (.brz h f) (fun _ => m == 0) (b.target f) ∧
    traps (.brnz h f) (fun _ => m != 0) (b.target f) ∧
    traps (.brvAny h f) (fun j => nibble (m &&& act) j != 0) (b.target f) ∧
    traps (.brvAll h f) (fun j => nibble (act &&& ~~~m) j == 0) (b.target f) ∧
    traps (.brl h f) ended (b.target f) ∧
    traps (.call h f) (fun _ => true) (b.target f) ∧
    traps (.ret h f) (fun _ => true) (b.c.s f.sl) ∧
    (∀ u, b.s.issuer b.c.who = some u → u.inh = false → u.tvec ≠ 0 → bitsAt u.tvec 57 7 = 0 → (u.frag b.c.entry).held = [] → (∀ x ∈ b.s.evs, x.load = false) → n < 256 →
      ∃ x, t.issuer b.c.who = some x ∧ x.tepc = b.c.cur.pc.setWidth 64 ∧ bitsAt x.tcause 0 8 = n ∧ x.inh = true ∧ x.tval = v ∧
        (x.frag 0).pc = u.tvec.setWidth 57 ∧ x.s = u.s ∧ x.c = u.c ∧ x.m = u.m ∧ x.v = u.v ∧
        (x.saved.map (fun y => y.flights)) = some u.flights ∧ t.mem = b.s.mem)) ∧
  (∀ (s : State) (w : Who) (ctx : Nat) (t : Dword),
    (bitsAt t 57 7 ≠ 0 ∨ bitsAt t 3 3 ≠ 0 ∨ 4 < bitsAt t 0 3 → s.checkTarget w ctx t = .bad 2) ∧
    (bitsAt t 57 7 = 0 → bitsAt t 3 3 = 0 → bitsAt t 0 3 ≤ 4 →
      (s.lineAt w.place ctx (lineOf (t.setWidth 57)) = none → ∃ y, s.checkTarget w ctx t = .wait y) ∧
      (∀ l, s.lineAt w.place ctx (lineOf (t.setWidth 57)) = some l →
        s.checkTarget w ctx t = match l.bad with
          | some c => .bad c
          | none => if bitAt l.data (480 + slotOf (t.setWidth 57)) then .ok else .bad 2))) ∧
  (∀ (s : State) (w : Who) (ctx : Nat) (ts : List Dword),
    ((∃ t ∈ ts, ∃ y, s.checkTarget w ctx t = .wait y) → ∃ y, (s.checkTargets w ctx ts).1 = .wait y) ∧
    ((∀ t ∈ ts, ∀ y, s.checkTarget w ctx t ≠ .wait y) →
      ((∀ t ∈ ts, s.checkTarget w ctx t = .ok) → (s.checkTargets w ctx ts).1 = .ok) ∧
      ((∃ t ∈ ts, s.checkTarget w ctx t = .bad 1) → (∀ t ∈ ts, s.checkTarget w ctx t ≠ .bad 0) → (s.checkTargets w ctx ts).1 = .bad 1) ∧
      ((∃ t ∈ ts, s.checkTarget w ctx t = .bad 2) → (∀ t ∈ ts, s.checkTarget w ctx t ≠ .bad 0 ∧ s.checkTarget w ctx t ≠ .bad 1) →
        (s.checkTargets w ctx ts).1 = .bad 2)))

/-- NOP, YIELD, REGANG, EXIT, TRAP and TRAPRET complete as R94, R116, R120 to R122 and R125 state (R94, R99, R116, R120, R121,
R122, R125). Model's choices: log row 124 (DESIGN CHOICE), TRAPRET drops bits [63:57] of TEPC; row 144 (DEDUCED), fixed-
latency results of the slices that park land as REGANG parks them; row 16 (DEDUCED), the slot of TRAPRET.next comes from the
line held at TEPC; row 23 (DEDUCED), EXIT in a handler also takes its slices from the table set aside; rows 160 and 161
(DEDUCED), TRAPRET after an EXIT of some slices, and under a guard true in some; row 15 (DEDUCED), the step of TRAP is
complete when it traps; row 157 (DEDUCED), halts of that step stand before the handler begins. -/
def Obligations.ControlResults : Prop :=
  ∀ (h : Hdr) (f : BFmt) (g : DFmt) (s : State) (b : Begun),
    let place := fun (j : Nat) => (j, if b.c.pass.contains j then b.c.cur.at_ else b.c.cur.next)
    (begun (.nop h f) h s = some b → exec (.nop h f) s = .next (b.done b.s)) ∧
    (begun (.yield h f) h s = some b → exec (.yield h f) s = .next (b.done (if b.c.who.isSeq then b.s
      else b.s.updIssuer b.c.who (fun u => u.updFrag b.c.entry (fun f => { f with yieldLeft := 17 }))))) ∧
    (begun (.regang h f) h s = some b → exec (.regang h f) s = .next (b.moved ((b.s.updIssuer b.c.who (fun u =>
      let u := u.goTo b.c.entry (b.c.slices.map place)
      match (if b.c.fr.isDbg then some b.c.entry else u.entryOf b.c.low) with
      | none => u
      | some e => (u.landFixed b.c.pass b.c.fr.isDbg).updFrag e (fun f =>
          { f with pc := b.c.cur.at_, st := .parked, why := .barrier, wait := .regang }))).regang b.c.who))) ∧
    (begun (.exit h f) h s = some b → exec (.exit h f) s = .next (b.moved (match b.c.who with
      | .gang n k =>
        let t := (b.s.updIssuer b.c.who (fun u => u.exitSlices b.c b.c.pass)).regang b.c.who
        (match t.issuer b.c.who with
        | none => t
        | some u =>
          let t := t.regather b.c.who u.liveSlices
          if u.empty then ((t.countStep b.c.who b.c.entry).stepEnds b.c.who b.c.entry 3).removeGang n k else t)
      | .stream n k => ((b.s.countStep b.c.who b.c.entry).stepEnds b.c.who b.c.entry 3).endStream n k
      | .clusterSeq _ => b.s.endSeq b.c.who 0 0
      | .dieSeq _ => b.s.endSeq b.c.who 0 0
      | .packageSeq => b.s.endSeq b.c.who 0 0))) ∧
    (begun (.trap h f) h s = some b → exec (.trap h f) s = .next (b.traps (b.c.fault 6 0 (BitVec.ofNat 64 (f.disp.toNat % 2 ^ 16)))
      (b.s.updIssuer b.c.who (fun u =>
        let u := u.goTo b.c.entry (b.c.slices.map place)
        u.updFrag (if b.c.fr.isDbg then b.c.entry else (u.entryOf b.c.low).getD b.c.entry) (fun f => { f with pc := b.c.cur.next }))))) ∧
    (∀ v, begun (.trapret h g) h s = some b → b.c.u.saved = some v → bitAt g.imm 0 = false →
      exec (.trapret h g) s = .next (b.back v.entry ((match v.ins with
        | none => b.s.ageInserts b.c.who false
        | some id => b.s.resumeInsert b.c.who id false).updIssuer b.c.who (fun u =>
          u.trapReturn (b.c.u.tepc.setWidth 57) false)))) ∧
    (∀ v l, begun (.trapret h g) h s = some b → b.c.u.saved = some v → bitAt g.imm 0 = true → v.ins = none →
      b.s.lineAt b.c.who.place b.c.u.ctx (lineOf (b.c.u.tepc.setWidth 57)) = some l →
      exec (.trapret h g) s = .next (b.back v.entry (((b.s.ageInserts b.c.who false).updIssuer b.c.who (fun u =>
          u.trapReturn (Pc.advance (b.c.u.tepc.setWidth 57) (stepSlots l.data (b.c.u.tepc.setWidth 57))) true)).takeHeld b.c.who v.entry)))

/-- VLD, VST, VLDX, VSTX, FLD, FST, SLD, SST, VATOM, SATOM and LADLE enter their accesses in the operand log (R165, R167, R168,
R169, R171, R176, R183). Model's choice: log row 148 (DEDUCED), slices of SST and SATOM agree on their data where the low bits
that the type has are the same. -/
def Obligations.GangAccessResults : Prop :=
  ∀ (h : Hdr) (f : MFmt) (s : State) (b : Begun) (core g : Nat),
    let ty := f.ty.toNat
    let w := tyBits ty
    let lane := fun (len : Nat) (d : Nat → Nat × Nat) => b.c.act.map (fun l =>
      Acc.lane1 l len (b.c.s f.sb (l / 4) + f.disp.signExtend 64
        + (if f.x then (b.c.v1 f.vi.toNat l).signExtend 64 else BitVec.ofNat 64 (len * l))) (d l).1 (d l).2)
    let data := fun (l : Nat) => (b.c.vraw ty f.vt.toNat l % 2 ^ w, 0)
    let reg := fun (r : BitVec 6) (j : Nat) => (b.c.s r j).toNat % 2 ^ w
    let vt : BitVec 6 := f.vt.setWidth 6
    let len := if f.aop = 9 then 16 else w / 8
    b.c.who = .gang core g → b.c.u.freeLog.isSome →
    (begun (.vld h f) h s = some b →
      b.logs (exec (.vld h f) s) (.vld h f) .load f.space.toNat w false (lane (w / 8) (fun _ => (0, 0)))) ∧
    (begun (.vst h f) h s = some b → b.logs (exec (.vst h f) s) (.vst h f) .store f.space.toNat w false (lane (w / 8) data)) ∧
    (begun (.vldx h f) h s = some b →
      b.logs (exec (.vldx h f) s) (.vldx h f) .load f.space.toNat w false (lane (w / 8) (fun _ => (0, 0)))) ∧
    (begun (.vstx h f) h s = some b → b.logs (exec (.vstx h f) s) (.vstx h f) .store f.space.toNat w false (lane (w / 8) data)) ∧
    (begun (.fld h f) h s = some b →
      b.logs (exec (.fld h f) s) (.fld h f) .load f.space.toNat w false (lane (w / 8) (fun _ => (0, 0)))) ∧
    (begun (.fst h f) h s = some b → b.logs (exec (.fst h f) s) (.fst h f) .store f.space.toNat w false (lane (w / 8) data)) ∧
    (begun (.vatom h f) h s = some b →
      b.logs (exec (.vatom h f) s) (.vatom h f) .atomic f.space.toNat w false (lane len (b.c.atomArgs f))) ∧
    (begun (.sld h f) h s = some b →
      b.logs (exec (.sld h f) s) (.sld h f) .load f.space.toNat w true (b.c.sliceAccs f (w / 8) (fun _ => (0, 0)))) ∧
    (begun (.sst h f) h s = some b →
      b.logs (exec (.sst h f) s) (.sst h f) .store f.space.toNat w true (b.c.sliceAccs f (w / 8) (fun j => (reg vt j, 0)))) ∧
    (begun (.satom h f) h s = some b → b.logs (exec (.satom h f) s) (.satom h f) .atomic f.space.toNat w true
      (b.c.sliceAccs f (w / 8) (fun j => (reg vt j, if f.aop = 7 then reg (vt + 1) j else 0)))) ∧
    (begun (.ladle h f) h s = some b →
      b.logs (exec (.ladle h f) s) (.ladle h f) .ladle f.space.toNat 64 true (b.c.sliceAccs f 64 (fun _ => (0, 0))))

/-- LDRAIN and PREF complete as R180 and R190 state (R180, R190). Model's choice: log row 165 (DEDUCED), a fault of the descriptor
read goes with the binding that LDRAIN cancels. -/
def Obligations.LadleAndHintResults : Prop :=
  ∀ (h : Hdr) (f : MFmt) (s : State) (b : Begun),
    (begun (.ldrain h f) h s = some b → exec (.ldrain h f) s = .next (b.done (b.s.updIssuer b.c.who (fun u =>
      ({ u with ladles := b.c.pass.foldl (fun t j => t.drop (8 * f.q.toNat + j)) u.ladles } : Issuer).cancelBind
        f.q.toNat b.c.pass)))) ∧
    (begun (.pref h f) h s = some b → exec (.pref h f) s = .next (b.done b.s))

/-- GROW, SHRINK, PROG, CLOCK, CSRR and CSRW complete as R101, R129, R132 and R133 state (R33, R96, R101, R126, R129, R130, R132,
R133). Model's choices: log row 5 (DESIGN CHOICE), registers granted at once keep an older request of the same cycle, which
issues after them, from that cycle; row 72 (DEDUCED), PRIV comes before CSRNUM for a read-only register of the array or debug
unit; row 73 (DEDUCED), who counts as debug-privileged; row 75 (DEDUCED), GSTAT.NFRAG counts the current table. -/
def Obligations.ResourceResults : Prop :=
  ∀ (h : Hdr) (f : DFmt) (s : State) (b : Begun),
    let n := bitsAt f.imm 0 6
    (∀ core g, begun (.grow h f) h s = some b → b.c.who = .gang core g → b.c.fr.wait = .none → 0 < n →
      b.c.u.alloc + n ≤ 32 → b.s.noneOlder core b.c.who = true → 8 * n ≤ (b.s.core core).freeRegs →
      exec (.grow h f) s = .next (b.done (b.c.fixed 1 (b.c.pass.map (fun j => (j, Tgt.c j (f.sd.toNat % 16) true)))
        ((b.s.updCore core (fun c => { c with poolTaken := b.s.rankNow b.c.who })).updIssuer b.c.who
          (fun u => { u with alloc := u.alloc + n }))))) ∧
    (∀ core g, begun (.grow h f) h s = some b → b.c.who = .gang core g → b.c.fr.wait = .none → 32 < b.c.u.alloc + n → 0 < n →
      exec (.grow h f) s = .next (b.done (b.c.fixed 1 (b.c.pass.map (fun j => (j, Tgt.c j (f.sd.toNat % 16) false))) b.s))) ∧
    (begun (.shrink h f) h s = some b →
      exec (.shrink h f) s = .next (b.done (b.s.updIssuer b.c.who (fun u => u.shrunk n))) ∧
      (b.c.u.shrunk n).alloc = b.c.u.alloc - n ∧
      (b.c.u.shrunk n).v = b.c.u.v.filter (fun p => p.1 / 32 < 8 * (b.c.u.alloc - n)) ∧
      ∀ x ∈ (b.c.u.shrunk n).flights, ∀ t ∈ x.tgts, t.under (8 * (b.c.u.alloc - n)) = true) ∧
    (begun (.prog h f) h s = some b → exec (.prog h f) s = .next (b.done
      (b.s.writeProg b.c.who (if f.imm = 0 then (b.c.sl f.sa).setWidth 16 else f.imm.setWidth 16)))) ∧
    (∀ (w : Who) (v : BitVec 16) (m k : Nat) (x : Block), b.s.blockOf w = some (m, k) → b.s.block m k = some x →
      ((b.s.writeProg w v).block m k).map (fun y => y.bprog) = some (match x.bprogBy with
        | none => v
        | some (t, r) => if t = b.s.cycles ∧ r < (match w with | .gang _ g => g + 1 | _ => 0) then x.bprog else v)) ∧
    (begun (.clock h f) h s = some b →
      exec (.clock h f) s = b.putS f.sd (fun _ => BitVec.ofNat 64 (if f.imm = 0 then b.s.cycles else b.s.tb))) ∧
    (∀ v, begun (.csrr h f) h s = some b → b.s.csrRead b.c.who b.c.u f.csr.toNat b.c.low = .inr v →
      exec (.csrr h f) s = b.putS f.sd (fun j => match b.s.csrRead b.c.who b.c.u f.csr.toNat j with
        | .inl _ => 0
        | .inr x => x)) ∧
    (∀ t, begun (.csrw h f) h s = some b →
      b.s.csrWrite b.c.who b.c.u f.csr.toNat b.c.pass (fun j => b.c.s f.sa j) (b.c.sl f.sa) = .inr t →
      exec (.csrw h f) s = .next (b.done t)) ∧
    (let csr := f.csr.toNat
     let u := b.c.u
     let w := b.c.sl f.sa
     let reads := fun (k : Nat) (val : Nat → Dword) => begun (.csrr h f) h s = some b → csr = k → exec (.csrr h f) s = b.putS f.sd val
     let writes := fun (k : Nat) (g : Issuer → Issuer) => begun (.csrw h f) h s = some b → csr = k →
       exec (.csrw h f) s = .next (b.done (b.s.updIssuer b.c.who g))
     let copies := fun (k : Nat) (P : Issuer → Issuer → Prop) => begun (.csrw h f) h s = some b → csr = k → ∃ t,
       exec (.csrw h f) s = .next (b.done t) ∧ ∀ x, b.s.issuer b.c.who = some x → ∃ y, t.issuer b.c.who = some y ∧ P x y
     let traps := fun (i : Instr) (cause : Nat) => begun i h s = some b → (∀ o, b.c.cur.role ≠ .second o) →
       exec i s = .next (b.s.markTrapped b.c.who b.c.entry b.c.cur.pc (b.c.fault cause 0 0))
     reads 0x10 (fun j => (u.rdF j).setWidth 64) ∧
     reads 0x12 (fun _ => fieldAt 16 b.s.podroot.toNat ||| fieldAt 3 (b2n b.s.isRoot) ||| fieldAt 0 u.level) ∧
     reads 0x20 (fun _ => u.tvec) ∧ reads 0x21 (fun _ => u.tepc) ∧ reads 0x22 (fun _ => u.tcause) ∧ reads 0x23 (fun _ => u.tval) ∧
     reads 0x24 (fun _ => u.tmask.setWidth 64) ∧ reads 0x25 (fun j => u.tscr0.get j 0) ∧ reads 0x26 (fun j => u.tscr1.get j 0) ∧
     (∀ core g, b.c.who = .gang core g →
       reads 0x11 (fun _ => fieldAt 32 u.unfused.toNat ||| fieldAt 24 u.alloc
         ||| fieldAt 20 (u.frags.filter (fun p => p.2.st != FragSt.free)).length ||| fieldAt 16 (b2n u.whole) ||| fieldAt 6 u.blk ||| fieldAt 0 g) ∧
       writes 0x11 (fun x => { x with unfused := w.extractLsb' 32 16 })) ∧
     copies 0x10 (fun x y => y = { x with fstat := y.fstat } ∧ ∀ j, j < 8 →
       y.rdF j = if j ∈ b.c.pass then x.rdF j &&& ~~~((b.c.s f.sa j).setWidth 6) else x.rdF j) ∧
     writes 0x20 (fun x => { x with tvec := w }) ∧ writes 0x21 (fun x => { x with tepc := w }) ∧ writes 0x23 (fun x => { x with tval := w }) ∧
     writes 0x22 (fun x => { x with tcause := (x.tcause &&& ~~~0x0000FFFF000007FF) ||| (w &&& 0x0000FFFF000007FF) }) ∧
     copies 0x25 (fun x y => y = { x with tscr0 := y.tscr0 } ∧ ∀ j, j < 8 →
       y.tscr0.get j 0 = if j ∈ b.c.pass then b.c.s f.sa j else x.tscr0.get j 0) ∧
     copies 0x26 (fun x y => y = { x with tscr1 := y.tscr1 } ∧ ∀ j, j < 8 →
       y.tscr1.get j 0 = if j ∈ b.c.pass then b.c.s f.sa j else x.tscr1.get j 0) ∧
     ((csr < 0x10 ∨ 0x600 ≤ csr) → traps (.csrr h f) 8 ∧ traps (.csrw h f) 8) ∧
     ((csr = 0x12 ∨ csr = 0x24) → traps (.csrw h f) 8) ∧
     (∀ m k x, b.s.blockOf b.c.who = some (m, k) → b.s.block m k = some x →
       ((x.array = false ∧ (csr = 0x300 ∨ 0x310 ≤ csr ∧ csr ≤ 0x31F) ∨
         b.s.debugOk u = false ∧ (0x400 ≤ csr ∧ csr ≤ 0x451 ∨ csr = 0x470)) → traps (.csrr h f) 7 ∧ traps (.csrw h f) 7) ∧
       ((csr = 0x460 ∧ (bitsAt w 8 5 < 4 ∨ 24 < bitsAt w 8 5) ∨ csr = 0x461 ∧ bitsAt w 0 6 ≠ 0) → traps (.csrw h f) 10)))

/-- IDLE completes at once where it has nothing to wait for, and when its time is over, as R135 states (R135). Model's choice: log
row 114 (DEDUCED), "whose sa is zero" of R135 is read as: the value in s[sa] is zero. -/
def Obligations.IdleResults : Prop :=
  ∀ (h : Hdr) (f : DFmt) (s : State) (b : Begun),
    let ns := bitsSet (bitsAt f.imm 0 16) 16
    let bars := ns.map (fun n => b.s.barKey b.c.who 1 n)
    (begun (.idle h f) h s = some b → ns = [] → b.c.sl f.sa = 0 → b.c.who.isSeq = false → exec (.idle h f) s = .next (b.done b.s)) ∧
    (∀ t0, begun (.idle h f) h s = some b → (∀ n ∈ ns, n < b.s.barCount b.c.who) → b.c.fr.wait = .idle t0 →
      (b.s.idleOver t0 (b.c.sl f.sa).toNat = true ∨ ∃ k ∈ bars, ∃ e, b.s.arrOf k b.c.who (16 + b.c.entry) = some (.seen e)) →
      ∃ t, b.c.idleDone bars b.s = .ok t ∧ exec (.idle h f) s = .next (b.done t))

/-- BAR, BARA, BARW, FENCE, BIND and UNBIND complete as R207, R296 and R298 state (R203, R207, R296, R298). Model's choices: log
row 120 (DESIGN CHOICE), the die barriers of an issuer whose context does not own the die; row 143 (DEDUCED), FENCE, BAR and
BARA go first in a pair with a memory instruction; row 166 (DESIGN CHOICE), the end of a wait for slices whose arrivals
differ. -/
def Obligations.BarrierResults : Prop :=
  ∀ (h : Hdr) (f : LFmt) (s : State) (b : Begun),
    let k := b.s.barKey b.c.who ((resolve b.c.u.level f.lvl.toNat).getD 1) f.b.toNat
    let ends := fun (e : Bool) (t : State) =>
      Host.Outcome.next (b.done (b.c.asyncNow (fun j => [.c j f.cd.toNat e]) (t.dropArr k b.c.who b.c.pass)))
    let tells := fun (st : Nat) (t : State) => Host.Outcome.next (b.done (b.c.asyncNow (fun j =>
      [.s j f.sd.toNat (fieldAt 56 st ||| fieldAt 0 (t.ctxOf b.c.u.ctx).bindings.length)]) t))
    let arrived := (b.s.setWait b.c.who b.c.entry .arrived).arrive k b.c.who b.c.pass b.c.u.liveSlices
    (b.c.barOf f b.s = .inl k → b.c.mustRelease f b.s = false → b.s.mustHold k b.c.who b.c.pass = false →
      (begun (.bara h f) h s = some b → exec (.bara h f) s = .next (b.done (b.s.arrive k b.c.who b.c.pass b.c.u.liveSlices))) ∧
      (∀ e, begun (.bar h f) h s = some b → b.c.fr.wait ≠ .arrived → arrived.waitEnded k b.c.who b.c.pass = some e →
        exec (.bar h f) s = ends e arrived)) ∧
    (∀ e, begun (.bar h f) h s = some b → b.c.barOf f b.s = .inl k → b.c.fr.wait = .arrived →
      b.s.waitEnded k b.c.who b.c.pass = some e → exec (.bar h f) s = ends e b.s) ∧
    (∀ e, begun (.barw h f) h s = some b → b.c.barOf f b.s = .inl k → b.s.waitEnded k b.c.who b.c.pass = some e →
      exec (.barw h f) s = ends e b.s) ∧
    (begun (.fence h f) h s = some b →
      (∀ p ∈ b.c.u.entriesOf b.c.slices b.c.fr.isDbg true, (∃ a ∈ p.2.accs, a.waits = true) →
        f.ord = 1 ∧ p.2.kind = AccKind.store) →
      exec (.fence h f) s = .next (b.done b.s)) ∧
    (∀ x, begun (.bind h f) h s = some b → b.c.binding f false = some x →
      exec (.bind h f) s = (
        let bs := (b.s.ctxOf b.c.u.ctx).bindings
        if bs.contains x then tells 0 b.s
        else if 256 ≤ bs.length then tells 1 b.s
        else tells 0 (b.s.updCtx b.c.u.ctx (fun y => { y with bindings := y.bindings ++ [x] })))) ∧
    (∀ x, begun (.unbind h f) h s = some b → b.c.binding f (bitAt f.imm 0) = some x →
      exec (.unbind h f) s = (
        let gone := fun (y : Binding) => if bitAt f.imm 0 then y.obj = x.obj else y = x
        if (b.s.ctxOf b.c.u.ctx).bindings.any (fun y => decide (gone y)) then
          tells 0 (b.s.updCtx b.c.u.ctx (fun y => { y with bindings := y.bindings.filter (fun z => !(decide (gone z))) }))
        else tells 3 b.s))

/-- LAUNCH and JOIN at core level complete as R198 and R201 state (R197, R198, R199, R201, R292). Model's choice: log row 5
(DESIGN CHOICE), a launch that takes registers at once keeps an older request of the same cycle, which issues after it, from
that cycle. -/
def Obligations.CoreLaunchAndJoin : Prop :=
  ∀ (h : Hdr) (f : LFmt) (s : State) (b : Begun) (core blk : Nat) (bs : List Byte) (hd : Header),
    let n := bitsAt f.imm 0 5
    let k := b.s.core core
    let regs := 8 * (if bitsAt f.imm 8 6 = 0 then hd.regs else bitsAt f.imm 8 6)
    let big := 16 < n + (k.gangsOf blk).length ∨ Config.poolRegs < n * regs
    let fits := b.s.noneOlder core b.c.who = true ∧ n * regs ≤ k.freeRegs ∧ n ≤ k.freeGids.length
    let tells := fun (st : Nat) (gids : List Nat) (t : State) =>
      Host.Outcome.next (b.done (b.c.asyncNow (fun j => [.s j f.sd.toNat (launchStatus st gids)]) t))
    let mask := bitsAt f.imm 0 16
    let named := fun (g : Nat) => mask = 0 || mask.testBit g
    b.c.who = .stream core blk → resolve b.c.u.level f.lvl.toNat = some 1 →
    (begun (.launchCore h f) h s = some b → b.c.fr.wait = .none →
      b.s.readHeader b.c.who.die b.c.u.ctx (b.c.s f.se 0) = .ok bs → Header.ofBytes bs [0, 6] = some hd →
      (¬ big → fits → ∃ gs : List (Nat × Issuer), gs.map (fun p => p.1) = k.freeGids.take n ∧
        (∀ (e : Nat) (p : Nat × Issuer), gs[e]? = some p →
          p.2.alloc * 8 = regs ∧ p.2.blk = blk ∧ p.2.ctx = b.c.u.ctx ∧ p.2.level = 0 ∧
          p.2.frags = [(0, Frag.fresh hd.entry 0xFFFFFFFF 0xFF)] ∧
          (∀ j, j < 8 → p.2.rdS 1 j = b.c.s f.sp 0 ∧ p.2.rdS 2 j = BitVec.ofNat 64 e ∧ p.2.rdS 3 j = BitVec.ofNat 64 n ∧
            p.2.rdS 4 j = BitVec.ofNat 64 (bitsAt f.imm 16 4) ∧ (∀ r, 4 < r → p.2.rdS r j = 0) ∧
            (∀ r, r ≠ 0 → p.2.rdC r j = false ∧ p.2.rdNib r j = 0) ∧
            p.2.rdNib 0 j = (if f.sk = 0 then 0xF else (b.c.s f.sk 0).extractLsb' (4 * j) 4)) ∧
          (∀ r l, l < 32 → r < regs → p.2.rdV r l = 0) ∧ p.2.fstat = [] ∧ p.2.ladles = [] ∧ p.2.log = [] ∧ p.2.flights = [] ∧ p.2.saved = none ∧
          p.2.tvec = 0 ∧ p.2.tepc = 0 ∧ p.2.tcause = 0 ∧ p.2.tval = 0 ∧ p.2.tmask = 0 ∧ p.2.tscr0 = [] ∧ p.2.tscr1 = [] ∧ p.2.unfused = 0) ∧
        exec (.launchCore h f) s = tells 0 (k.freeGids.take n)
          ((b.s.updCore core (fun c => { c with poolTaken := b.s.rankNow b.c.who })).fork core blk gs)) ∧
      (big → exec (.launchCore h f) s = tells 2 [] b.s) ∧
      (¬ big → ¬ fits → f.nb = true → exec (.launchCore h f) s = tells 1 [] b.s)) ∧
    (∀ x, begun (.joinCore h f) h s = some b → (∀ p ∈ k.gangsOf blk, named p.2.group = false) →
      k.leaving blk named = false → b.s.block core blk = some x →
      exec (.joinCore h f) s = (
        let bad := (x.failed.filter (fun p => named p.2)).map (fun p => p.1)
        tells (if bad.isEmpty then 0 else 9) bad b.s))

/-- LAUNCH and JOIN at a stockpot, REDUCE, REDUCE at pod level, ARM and DISARM complete as R334, R350, R370, R395, R401, R451 and
R454 state (R334, R335, R349, R350, R370, R395, R401, R454). Model's choices: log row 140 (DESIGN CHOICE), REDUCE at pod level
reads sL[11:0] and takes no notice of its other bits; row 87 (DEDUCED), a JOIN at pod level whose s register has a bit above
26 set answers NOPEER. -/
def Obligations.StockpotResults : Prop :=
  ∀ (h : Hdr) (f : LFmt) (s : State) (b : Begun),
    let lvl := (resolve b.c.u.level f.lvl.toNat).getD 2
    let g := bitsAt (b.c.sl f.sk) 0 16
    let sd := f.sd.toNat
    let frag := BitVec.ofNat 8 (maskOf b.c.slices)
    let tells := fun (v : Dword) (t : State) => Host.Outcome.next (b.done (b.c.asyncNow (fun j => [.s j f.sd.toNat v]) t))
    let owes := fun (js : List Nat) => b.s.updIssuer b.c.who (fun u => { u with
      nextTag := u.nextTag + 1
      flights := u.flights ++ js.map (fun j =>
        { slice := j, dbg := b.c.fr.isDbg, kind := .status, left := none, ready := false, tag := u.nextTag + 1, tgts := [], load := none
          src := none, cap := 256 }) })
    let tag := match b.s.issuer b.c.who with
      | some u => u.nextTag + 1
      | none => 0
    let sets := fun (t : State) (x : PendIns) =>
      Host.Outcome.next (b.done { t with nextId := b.s.nextId + 1, inserts := b.s.inserts ++ [x] })
    let reduces := fun (p n tl : Nat) (podN : Option Nat) => sets (owes b.c.slices)
      { id := b.s.nextId, pot := p, ctx := b.c.u.ctx, die := b.c.who.die, src := .reduce b.c.who frag tag sd, space := 0, addr := 0
        bad := false, img := some (redImage (b.c.sl f.sk) (b.c.sl f.sp) f.op.toNat n tl redMark), key := none, words01 := none
        nb := f.nb, ns := false, level := lvl, timeout := if bitsAt f.imm 16 16 = 0 then none else some (bitsAt f.imm 16 16)
        podN := podN, seq := b.c.u.logSeq, frag := frag, dbg := b.c.fr.isDbg, old := false, spfull := false, stalled := false
        again := false, sent := none, ghost := none }
    (begun (.launchStockpot h f) h s = some b → resolve b.c.u.level f.lvl.toNat ≠ some 1 →
      exec (.launchStockpot h f) s = sets (if sd = 0 then b.s else owes b.c.pass)
        { id := b.s.nextId, pot := potOf b.c.who lvl, ctx := b.c.u.ctx, die := b.c.who.die
          src := .launch b.c.who b.c.passMask (if sd = 0 then 0 else tag) sd f.c
          space := bitsAt f.imm 0 3, addr := b.c.sl f.se, bad := false, img := none
          key := if f.sk = 0 then none else some (b.c.sl f.sk), words01 := if f.sp = 0 then none else some (b.c.sl f.sp)
          nb := f.nb, ns := f.ns, level := lvl, timeout := none, podN := none, seq := b.c.u.logSeq, frag := frag, dbg := b.c.fr.isDbg
          old := false, spfull := false, stalled := false, again := false, sent := none, ghost := none }) ∧
    (begun (.joinStockpot h f) h s = some b → resolve b.c.u.level f.lvl.toNat ≠ some 1 →
      (g = 0 ∨ 4095 < g → exec (.joinStockpot h f) s = tells (joinStatus 6 0) b.s) ∧
      (∀ e, 0 < g → g ≤ 4095 → lvl ≠ 5 → b.s.groupOver (potOf b.c.who lvl) b.c.u.ctx g = some e →
        exec (.joinStockpot h f) s = tells (joinStatus (if e = 0 then 0 else 9) e)
          (b.s.dropJoiner (potOf b.c.who lvl) b.c.u.ctx g (.issuer b.c.who b.c.entry))) ∧
      (∀ v, 0 < g → g ≤ 4095 → lvl = 5 → b.c.fr.wait = .joinDone v → exec (.joinStockpot h f) s = tells v b.s) ∧
      (0 < g → g ≤ 4095 → lvl = 5 → b.c.fr.wait = .none →
        (bitsAt (b.c.sl f.sk) 27 37 ≠ 0 ∨ 1056 < bitsAt (b.c.sl f.sk) 16 11 ∨ b.s.hasPath (bitsAt (b.c.sl f.sk) 16 11) = false) →
        exec (.joinStockpot h f) s = tells (joinStatus 7 0) b.s)) ∧
    (begun (.reduce h f) h s = some b → lvl ≠ 5 →
      exec (.reduce h f) s = reduces (potOf b.c.who lvl) (bitsAt f.imm 0 12) lvl none) ∧
    (begun (.reducePod h f) h s = some b → lvl = 5 →
      (bitsAt (b.c.sl f.sk) 0 11 ≤ 1056 → b.s.hasPath (bitsAt (b.c.sl f.sk) 0 11) = true →
        exec (.reducePod h f) s = reduces 36 (if bitsAt (b.c.sl f.se) 0 12 = 0 then bitsAt f.imm 0 12 else bitsAt (b.c.sl f.se) 0 12) 4
          (some (bitsAt f.imm 0 12))) ∧
      ((1056 < bitsAt (b.c.sl f.sk) 0 11 ∨ b.s.hasPath (bitsAt (b.c.sl f.sk) 0 11) = false) →
        exec (.reducePod h f) s = .next (b.done (({ b.c with pass := b.c.slices } : Cx).asyncNow (fun j =>
          [.s j sd (b.c.sl f.sp), .s j (sd + 1) (redStatus 7 0 0)]) b.s)))) ∧
    (∀ i, (i = Instr.armAt h f ∨ i = Instr.armTag h f) → begun i h s = some b →
      let isTag := bitAt f.imm 3
      let k := b.c.sl f.sk
      exec i s = .next (b.done ({ (if sd = 0 then b.s else owes b.c.pass) with
        nextId := b.s.nextId + 1
        pendArms := b.s.pendArms ++ [{
          id := b.s.nextId, die := b.c.who.die, ctx := b.c.u.ctx, who := some (b.c.who, b.c.passMask, if sd = 0 then 0 else tag)
          packet := none, space := bitsAt f.imm 0 3, addr := b.c.sl f.se
          arm := { ctx := b.c.u.ctx, img := redImage 0 0 0 0 0 0, level := (resolve b.c.u.level f.lvl.toNat).getD 3, isTag := isTag
                   arg := if isTag then k else b.c.sl f.sp, period := if isTag then 0 else k, persist := bitAt f.imm 4, gen := 0
                   order := 0, fired := 0, waiting := none, backlog := [] }
          nb := f.nb, sd := sd, seq := b.c.u.logSeq, frag := frag, dbg := b.c.fr.isDbg
          badArg := if isTag then decide (bitsAt k 0 32 = 0 ∨ bitsAt k 32 32 ≠ 0) else decide (1 ≤ k.toNat ∧ k.toNat ≤ 999)
          bad := false, stalled := false, gone := false }] } : State))) ∧
    (∀ d e, begun (.disarm h f) h s = some b → d = bitsAt (b.c.sl f.sk) 12 2 → e = bitsAt (b.c.sl f.sk) 0 12 →
      ((b.s.die d).arms.find e = none → exec (.disarm h f) s = tells (armStatus 8 0) b.s) ∧
      (∀ a, (b.s.die d).arms.find e = some a →
        let names := a.ctx = b.c.u.ctx ∧ a.gen = bitsAt (b.c.sl f.sk) 16 16 ∧
          bitsAt (b.c.sl f.sk) 32 32 = 0 ∧ bitsAt (b.c.sl f.sk) 14 2 = 0
        (¬ names → exec (.disarm h f) s = tells (armStatus 8 0) b.s) ∧
        (names → exec (.disarm h f) s = tells (armStatus 0 (satAt 32 a.fired))
          ({ b.s.updDie d (fun y => { y with arms := y.arms.drop e }) with
             inserts := b.s.inserts.filter (fun p => p.src != .arm d e) } : State))))

/-- COPY, MCAST and CWAIT complete as R212 to R214, R217, R363 and R367 state (R212, R213, R214, R217, R363, R365, R367, R374).
Model's choices: log row 48 (DEDUCED), a copy of no bytes completes at its issue and needs no room in its queue; row 33
(DEDUCED), a COPY claims the die SRAM at its issue. -/
def Obligations.CopyResults : Prop :=
  ∀ (h : Hdr) (f : XFmt) (s : State) (b : Begun),
    let cl := b.c.who.cluster?.getD 0
    let m := b.c.sl (f.vy.setWidth 6)
    let shape := fun (place : Place) (up : Bool) (src : Loc) (dsts : List Loc) (r w ss ds : Nat) (bars : List BarKey) =>
      { id := b.s.nextId, who := b.c.who, place := place, up := up, flying := false, ctx := b.c.u.ctx, src := src, dsts := dsts, rows := r
        width := w, sstride := ss, dstride := ds, bars := bars, done := [], failed := [], fw := false, pois := false, tids := []
        packet := none, ret := none, mask := 0, home := b.s.blockOf b.c.who, marked := [], gone := false, got := [], fwAt := 0 : Copy }
    let joins := fun (t : State) (cp : Copy) =>
      Host.Outcome.next (b.done ({ t with nextId := b.s.nextId + 1, copies := b.s.copies ++ [cp] } : State).feedCopies)
    (∀ dst dsize src ssize place up r w ss ds, begun (.copy h f) h s = some b →
      (b.c.u.level ≤ 1 → f.b.toNat < b.s.barCount b.c.who) → b.c.copyEnds f b.s = .inl (dst, dsize, src, ssize, place, up) →
      copyArgs (bitAt f.aux 0) (b.c.sl (f.vx.setWidth 6)) dst.addr dsize src.addr ssize = .inr (r, w, ss, ds) →
      b.s.notOwned b.c.u.ctx dst = false → b.s.notOwned b.c.u.ctx src = false →
      let bar := if b.c.u.level ≤ 1 then (match b.s.blockOf b.c.who with
          | some (n, k) => BarKey.block n k f.b.toNat
          | none => .package f.b.toNat)
        else if b.c.u.level = 2 then .cluster cl f.b.toNat
        else if b.c.u.level = 3 then b.s.dieBar b.c.who.die (b.s.ctxBy b.c.who) f.b.toNat
        else .package f.b.toNat
      let cp := shape place up src [dst] r w ss ds [bar]
      (w = 0 → exec (.copy h f) s = .next (b.done (b.s.creditCopy cp))) ∧
      (0 < w → b.s.queued cp.queue < 16 → exec (.copy h f) s = joins ((b.s.claimLoc b.c.u.ctx dst).claimLoc b.c.u.ctx src) cp)) ∧
    (∀ r w ss ds, begun (.mcast h f) h s = some b →
      copyArgs (bitAt f.aux 0) (b.c.sl (f.vx.setWidth 6)) (b.c.sl f.sa).toNat Config.scratchBytes (b.c.sl f.sb).toNat
        Config.clusterBytes = .inr (r, w, ss, ds) →
      bitsAt m 0 8 ≠ 0 → bitsAt m 56 8 = 0 →
      let ks := bitsSet (bitsAt m 0 8) 8
      let member := fun (k : Nat) => b.s.mcastMember b.c.u.ctx (8 * cl + k) (bitsAt m (8 + 2 * k) 2) (bitsAt m (24 + 4 * k) 4)
      let lost := ((List.range ks.length).zip ks).filterMap (fun p => if (member p.2).isNone then some (p.1, 3) else none)
      let sd := f.imm10.toNat % 64
      let st := if sd = 0 then (b.s, 0) else b.c.async .status b.s
      let cp := { shape (.cluster cl) false (.cluster cl (b.c.sl f.sb).toNat) (ks.map (fun k => .core (8 * cl + k) (b.c.sl f.sa).toNat))
          r w ss ds (ks.map (fun k => (member k).getD (.cluster cl 0))) with
        failed := lost, mask := bitsAt m 0 8, ret := some (b.c.passMask, st.2, sd) }
      ((w = 0 ∨ lost.length = ks.length) → exec (.mcast h f) s = .next (b.done (st.1.creditCopy cp))) ∧
      (w ≠ 0 → lost.length ≠ ks.length → b.s.queued cp.queue < 16 → exec (.mcast h f) s = joins st.1 cp)) ∧
    (begun (.cwait h f) h s = some b → b.s.outstanding b.c.who ≤ f.imm10.toNat →
      exec (.cwait h f) s = .next (b.done ((b.c.asyncNow (fun j => [.s j f.sa.toNat (fieldAt 32 (b.s.outstanding b.c.who)
          ||| fieldAt 17 (b2n b.c.u.cwPois) ||| fieldAt 16 (b2n b.c.u.cwFw) ||| fieldAt 0 b.c.u.cwDone)]) b.s).updIssuer b.c.who
        (fun u => { u with cwDone := 0, cwFw := false, cwPois := false }))))

/-- RLD, RST, RATOM, RCAS and RSIG enter their accesses in the operand log and complete, as R444 and R447 state (R443, R444,
R447). -/
def Obligations.RemoteResults : Prop :=
  ∀ (h : Hdr) (f : MFmt) (s : State) (b : Begun) (core g : Nat),
    let w := tyBits f.ty.toNat
    let logs := fun (o : Host.Outcome State Fault Refusal) (i : Instr) (op : Nat) (kind : AccKind) (uni : Bool) (l : List Acc) =>
      (groupBy (b.c.pass.map (fun j => (j, b.c.s f.sb j)))).length ≤
        ((List.range 16).filter (fun n => (b.c.u.log.find n).isNone)).length →
      ∃ t, b.c.remote i op f kind uni l b.s = .ok t ∧ o = .next (b.done t)
    b.c.who = .gang core g →
    (begun (.rld h f) h s = some b →
      logs (exec (.rld h f) s) (.rld h f) 0x240 .load false (b.c.remoteAccs f (w / 8) (fun _ => (0, 0)))) ∧
    (begun (.rst h f) h s = some b → logs (exec (.rst h f) s) (.rst h f) 0x241 .store false
      (b.c.remoteAccs f (w / 8) (fun l => (b.c.vraw f.ty.toNat f.vt.toNat l % 2 ^ w, 0)))) ∧
    (begun (.ratom h f) h s = some b →
      logs (exec (.ratom h f) s) (.ratom h f) 0x242 .atomic false (b.c.remoteAccs f (atomLen f) (b.c.atomArgs f))) ∧
    (begun (.rcas h f) h s = some b →
      logs (exec (.rcas h f) s) (.rcas h f) 0x243 .atomic false (b.c.remoteAccs f (atomLen f) (b.c.atomArgs f))) ∧
    (begun (.rsig h f) h s = some b → logs (exec (.rsig h f) s) (.rsig h f) 0x244 .load true
      ((groupBy (b.c.pass.map (fun j => (j, b.c.s f.sb j, (b.c.s (f.vt.setWidth 6) j).toNat)))).map (fun p =>
        { lane := 4 * p.2.headD 0, slices := p.2, ea := 0, len := 1, data := p.1.2, data2 := 0, st := .pending : Acc })))

/-- The instructions of group 11 enter the array queue and complete, MWAIT with its counts, as R222, R225 to R227, R230, R232,
R235, R236 and R240 state (R222, R225, R226, R227, R230, R232, R235, R236, R240). Model's choice: log row 127 (DEDUCED), MWAIT
enters the array queue once OUT is small enough, and counts in OUT there. -/
def Obligations.MatrixIssue : Prop :=
  ∀ (h : Hdr) (f : XFmt) (s : State) (b : Begun) (core : Nat),
    let sa := b.c.sl f.sa
    let sb := b.c.sl f.sb
    let kk := 32 * (bitsAt f.imm10 0 4 + 1)
    let kind := bitsAt f.aux 0 2
    let bar := if bitAt f.aux 3 then some f.b.toNat else none
    let tiles := fun (ty : Nat) => (⟨sa, BitVec.ofNat 64 (bitsAt b.c.u.mpitch 0 32), rowBytes ty kk, 64, 524288⟩ : Foot) ::
      (if bitAt f.aux 0 then [⟨sb, BitVec.ofNat 64 (bitsAt b.c.u.mpitch 32 32), rowBytes f.ty.toNat kk, 64, 524288⟩] else [])
    let move := fun (lvl : BitVec 3) => (⟨sa, if kind = 0 then sb else 0, if kind = 2 then 64 else 256, if kind = 0 then 64 else 1,
      spaceSize ((resolve b.c.u.level lvl.toNat).getD 0)⟩ : Foot)
    let passes := fun (g : Foot) => g.base.toNat % 16 = 0 ∧
      (g.pitch = 0 ∨ (g.pitch.toNat < 2 ^ 32 ∧ g.pitch.toNat % 16 = 0 ∧ g.rb ≤ g.pitch.toNat)) ∧
      g.base.toNat + (g.rows - 1) * (if g.pitch = 0 then g.rb else g.pitch.toNat) + g.rb ≤ g.size
    let enters := fun (i : Instr) (bar : Option Nat) (fs : List Foot) (sa sb : Dword) (va vb : List Word) =>
      begun i h s = some b → (∀ n ∈ bar, n < b.s.barCount b.c.who) → (∀ g ∈ fs, passes g) →
      ∃ (o : ArrOp) (t : State), o.who = b.c.who ∧ o.ins = i ∧ o.pc = b.c.cur.at_ ∧
        o.slices = (if b.c.who.isGang then BitVec.ofNat 8 (maskOf b.c.slices) else 0) ∧ o.sa = sa ∧ o.sb = sb ∧
        o.pitch = b.c.u.mpitch ∧ o.va = va ∧ o.vb = vb ∧ o.cycle = b.s.cycles ∧ o.step = 0 ∧ o.ended = false ∧ o.tag = b.c.u.nextTag + 1 ∧
        t = (b.s.updIssuer b.c.who (fun u => (u.pushAsync .array b.c.fr.isDbg b.c.slices false (fun _ => [])).1)).updCore core
          (fun k => { k with aq := enterQueue o k.aq }) ∧
        exec i s = .next (b.done (if i = .mwait h f then t.updIssuer b.c.who (fun u => { u with mwDone := 0 }) else t))
    (∀ (o : ArrOp) (q : List ArrOp), (∀ p ∈ q, p.cycle = o.cycle → p.started = false → arrRank p.who ≤ arrRank o.who) →
      enterQueue o q = q ++ [o]) ∧
    (b.c.who.core? = some core → b.s.holdsArray b.c.who = true → (b.s.core core).aq.length < 16 →
      enters (.mma h f) none (tiles f.ty.toNat) sa sb [] [] ∧
      enters (.mmas h f) none (tiles f.ty.toNat) sa sb (b.c.lanes64 f.ax.toNat f.vx.toNat) (b.c.lanes64 f.ay.toNat f.vy.toNat) ∧
      enters (.mmat h f) none (tiles 0) sa sb [] [] ∧
      enters (.hld h f) none [⟨sa, 0, 0, 1, 2 ^ 64⟩] sa 0 [] [] ∧
      enters (.zclr h f) none [] 0 0 [] [] ∧
      enters (.zld h f) none [move f.lfrom] sa sb [] [] ∧
      enters (.zldA h f) none [move f.lfrom] sa 0 [] [] ∧
      enters (.zldK h f) none [move f.lfrom] sa 0 [] [] ∧
      enters (.zst h f) bar [move f.lto] sa sb [] [] ∧
      enters (.zstA h f) bar [move f.lto] sa 0 (b.c.areg f.ax.toNat) [] ∧
      enters (.zstK h f) bar [move f.lto] sa 0 [] [] ∧
      enters (.zepi h f) bar [⟨sa, sb, rowBytes f.ty.toNat 64, 64, spaceSize ((resolve b.c.u.level f.lto.toNat).getD 0)⟩] sa sb
        (if bitAt f.aux 0 then b.c.lanes64 f.ax.toNat f.vx.toNat else [])
        (if bitAt f.aux 1 then b.c.lanes64 f.ay.toNat f.vy.toNat else []) ∧
      (b.s.arrOut b.c.who ≤ f.imm10.toNat →
        enters (.mwait h f) none [] (fieldAt 32 (b.s.arrOut b.c.who) ||| fieldAt 0 b.c.u.mwDone) (b.c.passMask.setWidth 64) [] []))

/-- The instructions of group 12 enter the array queue and complete, as R246 to R248 and R258 state (R222, R246, R247, R248,
R258). -/
def Obligations.FactorIssue : Prop :=
  ∀ (h : Hdr) (f : XFmt) (s : State) (b : Begun) (core : Nat),
    let x := b.c.sl f.sa
    let t := b.c.lanes64 f.ax.toNat f.vx.toNat
    let enters := fun (i : Instr) (op : Nat) (va vb : List Word) =>
      begun i h s = some b → shapeBad op f.ty.toNat (f.zd == f.za) x = none →
      ∃ (o : ArrOp) (t : State), o.who = b.c.who ∧ o.ins = i ∧ o.pc = b.c.cur.at_ ∧
        o.slices = (if b.c.who.isGang then BitVec.ofNat 8 (maskOf b.c.slices) else 0) ∧ o.sa = x ∧ o.va = va ∧ o.vb = vb ∧
        o.cycle = b.s.cycles ∧ o.step = 0 ∧ o.ended = false ∧ o.tag = b.c.u.nextTag + 1 ∧
        t = (b.s.updIssuer b.c.who (fun u => (u.pushAsync .array b.c.fr.isDbg b.c.slices false (fun _ => [])).1)).updCore core
          (fun k => { k with aq := enterQueue o k.aq }) ∧
        exec i s = .next (b.done t)
    b.c.who.core? = some core → b.s.holdsArray b.c.who = true → (b.s.core core).aq.length < 16 →
      enters (.factLu h f) 0x300 [] [] ∧
      enters (.factCh h f) 0x301 [] [] ∧
      enters (.factQr h f) 0x302 [] [] ∧
      enters (.trsm h f) 0x303 [] [] ∧
      enters (.qapply h f) 0x304 t (if b.c.who.isGang then t.drop 32 else b.c.areg (f.ax.toNat + 1)) ∧
      enters (.perm h f) 0x305 [] [] ∧
      enters (.ztr h f) 0x306 [] []

/-- SVSET, SVCLR, MARK, TRACE, DGET, DPUT, DSTEP, DRUN and DSTAT complete as R264, R274 to R278 and R282 state (R264, R274, R275,
R276, R277, R278, R282). Model's choice: log row 76 (DEDUCED), NOGANG comes before BADREG, also for a DPUT to s0. DGET and
DPUT of the other classes, and DSTAT of classes 0 and 1, are left out. -/
def Obligations.DebugResults : Prop :=
  ∀ (h : Hdr) (f : DFmt) (s : State) (b : Begun) (core : Nat),
    let r := fun (k : Nat) => b.c.sl (BitVec.ofNat 6 (f.sa.toNat + k))
    let gid := f.gid.toNat
    let num := bitsAt f.imm 20 8
    let j := bitsAt f.imm 16 3
    let cls := bitsAt f.imm 28 4
    let w := Who.gang core gid
    let tells := fun (o : Host.Outcome State Fault Refusal) (st : Nat) (v : Option Dword) (t : State) =>
      o = .next (b.done (b.c.asyncNow (fun k => [Tgt.s k f.sd.toNat (fieldAt 56 st)]
        ++ v.toList.map (fun x => Tgt.s k (f.sd.toNat + 1) x)) t))
    b.c.who.core? = some core →
    (begun (.mark h f) h s = some b → exec (.mark h f) s = .next (b.done
      (b.s.traceRec core 1 (whoByte b.c.u b.c.who) 0 0 (b.c.u.active b.c.fr) b.c.cur.at_ (f.imm.setWidth 64)))) ∧
    (begun (.trace h f) h s = some b → exec (.trace h f) s = .next (b.done
      (b.s.traceRec core 2 (whoByte b.c.u b.c.who) 0 0 (b.c.u.active b.c.fr) b.c.cur.at_
        (((b.c.sl f.sa).setWidth 48).setWidth 64 ||| fieldAt 48 (bitsAt f.imm 0 16))))) ∧
    (b.s.debugOk b.c.u = true →
      (begun (.svset h f) h s = some b → sieveBad f.sv.toNat (r 1 ++ r 0) = 0 →
        exec (.svset h f) s = .next (b.done (b.s.updProbe core (fun p =>
          { p with sieves := p.sieves.put f.sv.toNat { desc := r 1 ++ r 0, opa := r 2, opb := r 3, cnt := 0 } })))) ∧
      (begun (.svclr h f) h s = some b →
        exec (.svclr h f) s = .next (b.done (b.s.updProbe core (fun p => { p with sieves := p.sieves.map (fun v =>
          if bitAt f.imm v.1 then (v.1, { v.2 with desc := v.2.desc &&& ~~~(1#128 <<< 63) }) else v) })))) ∧
      ((b.s.core core).gangs.find gid = none →
        (begun (.dget h f) h s = some b → tells (exec (.dget h f) s) 3 none b.s) ∧
        (begun (.dput h f) h s = some b → tells (exec (.dput h f) s) 3 none b.s) ∧
        (begun (.dstat h f) h s = some b → tells (exec (.dstat h f) s) 3 none b.s)) ∧
      (∀ u, (b.s.core core).gangs.find gid = some u → b.c.who ≠ w →
        (begun (.dget h f) h s = some b → cls = 1 → u.sliceStopped j = true →
          tells (exec (.dget h f) s) 0 (some (u.rdS num j)) b.s) ∧
        (begun (.dget h f) h s = some b → cls = 1 → u.sliceStopped j = false → tells (exec (.dget h f) s) 2 none b.s) ∧
        (begun (.dput h f) h s = some b → cls = 1 → u.sliceStopped j = true → num ≠ 0 →
          b.s.pending core gid u 1 num [j] = false →
          tells (exec (.dput h f) s) 0 none (b.s.updIssuer w (fun u => u.landAll [Tgt.s j num (b.c.sl f.sa)]))) ∧
        (begun (.dput h f) h s = some b → cls = 1 → u.sliceStopped j = true → num ≠ 0 →
          b.s.pending core gid u 1 num [j] = true → tells (exec (.dput h f) s) 1 none b.s) ∧
        (begun (.dstat h f) h s = some b → bitsAt f.imm 12 4 = 2 → tells (exec (.dstat h f) s) 0 (some u.gdbg) b.s)) ∧
      (begun (.drun h f) h s = some b → ∀ st t, b.s.drun core (some b.c.who) (dbgOf f) = (st, t) →
        tells (exec (.drun h f) s) st none t) ∧
      (begun (.dstep h f) h s = some b → ∀ t, (b.c.async .status b.s).1.dstep core (some b.c.who) (dbgOf f) b.c.who
          (b.c.async .status b.s).2 f.sd.toNat b.c.passMask = .inr t → exec (.dstep h f) s = .next (b.done t)))

/-- POOL_GRANT, GROW_FAIL and IDLE_TIMEOUT do what R102, R135 and R200 state (R102, R135, R200). Model's choices: log row 46
(DEDUCED), a granted GROW that would pass 32 units answers false, and the registers are taken in the event of the grant, the
GROW completing when it issues again; row 5 (DESIGN CHOICE), what is tried when. -/
def Obligations.PoolAndWaitEvents : Prop :=
  ∀ (core : Nat) (s : State),
    let k := s.core core
    (∀ q r g u, k.poolQ = q :: r → k.fits q = true → q.who = .gang core g → k.gangs.find g = some u →
      (q.n = 0 → u.alloc + q.regs / 8 ≤ 32 → ∃ t v, exec (.poolGrant core) s = .next t ∧
        (t.core core).poolQ = k.poolQ.filter (fun x => x.id != q.id) ∧ (t.core core).gangs.find g = some v ∧
        v.alloc = u.alloc + q.regs / 8 ∧ v.frags = (u.setPool q.id (.poolDone true 0)).frags ∧ v.v = u.v ∧
        (t.core core).poolTaken = Nat.max k.poolTaken q.rank) ∧
      (q.n = 0 → 32 < u.alloc + q.regs / 8 → ∃ t v, exec (.poolGrant core) s = .next t ∧
        (t.core core).gangs.find g = some v ∧ v.alloc = u.alloc ∧ v.frags = (u.setPool q.id (.poolDone false 0)).frags)) ∧
    (∀ q r b x, k.poolQ = q :: r → k.fits q = true → q.n ≠ 0 → q.who = .stream core b → k.blocks.find b = some x →
      (x.stream.frag q.entry).wait = .pool q.id → (x.stream.frag q.entry).st = .blocked →
      ∃ t y, exec (.poolGrant core) s = .next t ∧ (t.core core).poolQ = k.poolQ ∧ (t.core core).blocks.find b = some y ∧
        (y.stream.frag q.entry).st = .eligible) ∧
    (∀ q r, k.poolQ = q :: r → k.fits q = false → (∀ p ∈ k.gangs, p.1 < 32 → p.2.growBlocked = true) →
      ∃ (x : PoolReq) (t : State), x ∈ k.poolQ ∧ (∀ y ∈ k.poolQ, y.rank ≤ x.rank) ∧
        t = (s.dropPool core x.id).updIssuer x.who (fun u => u.setPool x.id (.poolDone false 0)) ∧
        exec (.growFail core) s = .next t) ∧
    (∀ g u e n, k.gangs.find g = some u → (u.frag e).wait = .idle n → (u.frag e).st = .blocked →
      ∃ t v, exec (.idleTimeout (.gang core g)) s = .next t ∧ (t.core core).gangs.find g = some v ∧
        (v.frag e).st = .eligible ∧ (v.frag e).pc = (u.frag e).pc)

/-- CORE_CYCLE and SAMPLE do what R105, R121 and R283 state (R105, R121, R283). -/
def Obligations.CycleAndSampleEvents : Prop :=
  ∀ (core : Nat) (s : State), core < 256 →
    (∀ (issued : List (Who × Nat)) (g e : Nat) (u : Issuer), g < 32 → (s.core core).gangs.find g = some u →
      ∃ t v, exec (.coreCycle core issued) s = .next t ∧ t.mem = s.mem ∧ t.poison = s.poison ∧
        (t.core core).gangs.find g = some v ∧ v.s = u.s ∧ v.v = u.v ∧ v.flights = u.flights ∧
        (v.frag e).pc = (u.frag e).pc ∧ (v.frag e).yieldLeft = (u.frag e).yieldLeft - 1 ∧
        (v.frag e).age = (if (u.frag e).st = .eligible ∧ (Who.gang core g, e) ∉ issued then Nat.min 2047 ((u.frag e).age + 1)
          else (u.frag e).age)) ∧
    (∀ g u, bitsAt (s.core core).probe.trctl 3 5 ≠ 0 → g < 32 → (s.core core).gangs.find g = some u →
      (∀ x < 32, ((s.core core).gangs.find x).isSome = true → (s.core core).probe.lastSample.any (fun l => l < x) = true → g ≤ x) →
      ((s.core core).probe.lastSample.any (fun l => l < g) = true) →
      exec (.sample core) s = .next ((s.updProbe core (fun p => { p with lastSample := some g })).traceRec core 4
        (whoByte u (.gang core g)) 0 0 (u.active u.lowFrag) u.lowFrag.pc (BitVec.ofNat 64 u.lowFrag.reason)))

/-- ARRAY_STEP and ROW_PERFORMED do what R222, R230 to R239, R241 and R253 to R261 state (R222, R228, R230, R233, R235, R237,
R239, R253, R255, R256, R259, R261). Model's choices: log row 153 (DEDUCED), PB is not looked at where B comes from a weight
slot; row 155 (DESIGN CHOICE), the order of HFMT and MPOISON of HLD; row 154 (DESIGN CHOICE), the pieces of a row clear no
poison; row 65 (DEDUCED), HSLOT comes before poison of A, of B and of the tile, chunk by chunk; row 127 (DEDUCED), MWAIT is an
entry of the array queue. -/
def Obligations.ArrayEvents : Prop :=
  ∀ (core : Nat) (s : State), memoryCanonical s →
    let put := fun (t : State) (o : ArrOp) => t.updCore core (fun c =>
      { c with aq := c.aq.map (fun p => if p.who = o.who && p.tag = o.tag then o else p) })
    ((s.core core).arrayStopped = false → ∀ o, (s.core core).aq.find? (fun o => !o.ended) = some o →
        (o.started = true ∨ o.cycle < s.cycles) →
      (∀ h f, o.ins = .zclr h f → (∀ r ∈ (s.core core).rows, r.who = o.who → r.tag = o.tag → False) →
        exec (.arrayStep core) s = .next ((s.updCore core (fun c => (c.setTile f.zd.toNat (fun _ _ => 0)).cleanTile
          f.zd.toNat)).arrComplete core { o with started := true } [])) ∧
      (∀ h f, o.ins = .mwait h f → (∀ r ∈ (s.core core).rows, r.who = o.who → r.tag = o.tag → False) → o.flags = 0 →
        exec (.arrayStep core) s = .next ((s.arrReturn { o with started := true } ((bitsSet o.sb.toNat 8).map (fun j =>
          (j, Tgt.s j f.sa.toNat o.sa)))).arrLeave core { o with started := true })) ∧
      (s.stepOp core { o with started := true } = .hold → exec (.arrayStep core) s = .next s) ∧
      (∀ t p, s.stepOp core { o with started := true } = .more t p → exec (.arrayStep core) s = .next (put t p)) ∧
      (∀ t p ts, s.stepOp core { o with started := true } = .finished t p ts →
        ((∀ r ∈ (t.core core).rows, r.who = p.who → r.tag = p.tag → False) →
          exec (.arrayStep core) s = .next (t.arrComplete core p ts)) ∧
        ((∃ r ∈ (t.core core).rows, r.who = p.who ∧ r.tag = p.tag) →
          exec (.arrayStep core) s = .next (put t { p with ended := true }))) ∧
      (∀ t p cause v full ts, s.stepOp core { o with started := true } = .bad t p cause v full ts →
        exec (.arrayStep core) s = .next (t.arrFault core p cause v full ts))) ∧
    (∀ r, (s.core core).rows.find? (fun q => q.id = r.id) = some r → (∀ b ∈ (s.core core).blocks, b.2.treat ≠ .flush) →
      (∀ q ∈ (s.core core).rows.takeWhile (fun q => q.id ≠ r.id),
        r.loc.flat + r.bytes.length ≤ q.loc.flat ∨ q.loc.flat + q.bytes.length ≤ r.loc.flat) →
      ∃ t, exec (.rowPerformed core r.id) s = .next t ∧
        (∀ i, i < r.bytes.length → t.mem.get (r.loc.flat + i) = r.bytes.getD i 0) ∧
        (∀ a, a < r.loc.flat ∨ r.loc.flat + r.bytes.length ≤ a → t.mem.get a = s.mem.get a) ∧
        (t.core core).rows = (s.core core).rows.filter (fun q => q.id ≠ r.id)) ∧
    (∀ space a n, 0 < n →
      let k := if space = 1 then coreKey core a else clusterKey (core / 8) a
      let meets := ∃ r ∈ (s.core core).rows, r.loc.flat < k + n ∧ k < r.loc.flat + r.bytes.length
      let poisoned := ∃ g ∈ s.poison, 64 * g < k + n ∧ k < 64 * g + 64
      (meets → s.arrRead core space a n = .hold) ∧
      (¬ meets → poisoned → ∃ v, s.arrRead core space a n = .pois v) ∧
      (¬ meets → ¬ poisoned → s.arrRead core space a n = .ok ((List.range n).map (fun i => s.mem.get (k + i))))) ∧
    (∀ (o : ArrOp) (h : Hdr) (f : XFmt), o.step < 64 →
      let c := s.core core
      let i := o.step
      let ty := f.ty.toNat
      let zd := f.zd.toNat
      let za := f.za.toNat
      let kind := bitsAt f.aux 0 2
      let level := fun (l : BitVec 3) => (resolve (if o.who.isGang then 0 else 1) l.toNat).getD 1
      let el := fun (t : State) (u r j : Nat) => (t.core core).z.get (tileKey u r j) (0 : Word)
      let same := fun (t : State) (P : Nat → Nat → Prop) => ∀ u r j, u < 8 → r < 64 → j < 64 → ¬ P u r → el t u r j = el s u r j
      let goes := fun (n : Nat) (P : State → ArrOp → Prop) => ∃ t p,
        s.stepOp core o = (if n ≤ i + 1 then .finished t p [] else .more t p) ∧ p = { o with step := i + 1, flags := p.flags } ∧
          t.mem = s.mem ∧ P t p
      let ends := fun (ts : List (Nat × Tgt)) (P : State → Prop) => ∃ t, s.stepOp core o = .finished t o ts ∧ t.mem = s.mem ∧ P t
      let hands := fun (t : State) (l : BitVec 3) (a : Nat) (bs : List Byte) =>
        (t.core core).rows = c.rows ++ (List.range ((bs.length + 15) / 16)).map (fun k =>
          { id := s.nextId + k, row := s.nextId, len := bs.length, tag := o.tag, who := o.who
            loc := if level l = 1 then .core core (a + 16 * k) else .cluster (core / 8) (a + 16 * k)
            bytes := (bs.drop (16 * k)).take 16, bar := if bitAt f.aux 3 then some (s.barKey o.who 1 f.b.toNat) else none })
      let word := fun (bs : List Byte) (j : Nat) => BitVec.ofNat 32 (ofBytes ((bs.drop (4 * j)).take 4))
      (∀ op ins, (op, ins) ∈ [(0x2C0, Instr.mma h f), (0x2C1, .mmas h f), (0x2C2, .mmat h f)] → o.ins = ins →
        let kk := 32 * (bitsAt f.imm10 0 4 + 1)
        let aty := if op = 0x2C2 then 0 else ty
        let wa := rowBytes aty 32
        let wb := rowBytes ty 32
        let pa := if bitsAt o.pitch 0 32 = 0 then rowBytes aty kk else bitsAt o.pitch 0 32
        let pb := if bitsAt o.pitch 32 32 = 0 then rowBytes ty kk else bitsAt o.pitch 32 32
        let rowsA := (List.range 64).map (fun r => o.sa.toNat + r * pa + i * wa)
        let rowsB := (List.range 64).map (fun r => o.sb.toNat + r * pb + i * wb)
        let fresh := i = 0 ∧ bitAt f.aux 1 = false
        let usable := ∃ q, c.hslots.find f.h.toNat = some q ∧ q.valid = true ∧ q.format = ty ∧ kk ≤ q.kext
        (∀ ra rb : Nat → List Byte, (∀ r, r < 64 → s.arrRead core 1 (o.sa.toNat + r * pa + i * wa) wa = .ok (ra r)) →
          ((bitAt f.aux 0 = true ∧ ∀ r, r < 64 → s.arrRead core 1 (o.sb.toNat + r * pb + i * wb) wb = .ok (rb r)) ∨
           (bitAt f.aux 0 = false ∧ ∃ q bl, c.hslots.find f.h.toNat = some q ∧ q.valid = true ∧ q.format = ty ∧ kk ≤ q.kext ∧
              q.blocks = some bl ∧ ∀ r, r < 64 → rb r = bl.getD (r * (q.kext / 32) + i) [])) →
          (∀ v, c.poisonedRow zd (List.range 64) = some v → ¬ fresh → s.stepOp core o = .bad s o 0x23 v false []) ∧
          ((fresh ∨ c.poisonedRow zd (List.range 64) = none) → goes (kk / 32) (fun t p => same t (fun u _ => u = zd) ∧
            (fresh → ∀ r, r < 64 → 64 * zd + r ∉ (t.core core).zpoison) ∧
            (aty = 0 →
              p.flags = o.flags ||| (if ty = 15 ∧ (List.range 64).any (fun r => (rb r).any (fun x => tritBad x.toNat)) = true then BitVec.ofNat 6 fFMT else 0) ∧
              ∀ r j, r < 64 → j < 64 → el t zd r j = BitVec.ofInt 32 ((if fresh then 0 else (el s zd r j).toInt) +
                ((List.range 32).map (fun k => ((ra r).getD k 0).toInt *
                  (if ty = 15 then tritOf ((rb j).getD (k / 5) 0).toNat (k % 5) else ((rb j).getD k 0).toInt))).sum)) ∧
            (aty ≠ 0 → ∀ r j, r < 64 → j < 64 →
              let vals := fun (bs : List Byte) (l : List Word) (r : Nat) => (codesOf ty 32 bs).map (fun x =>
                if op = 0x2C1 then (scaleBy (decodeFp ty x) (scaleOf (bitsAt (l.getD r 0) (8 * (f.bsel.toNat + i)) 8)).1).1 else decodeFp ty x)
              let sum := chunkSum (((vals (ra r) o.va r).zip (vals (rb j) o.vb j)).map (fun x => fProd x.1 x.2))
              let res := fAdd 9 0 (decodeFp 9 (if fresh then 0 else (el s zd r j).toNat)) (decodeFp 9 sum.1)
              el t zd r j = BitVec.ofNat 32 res.1 ∧
                (o.flags ||| BitVec.ofNat 6 (res.2 ||| sum.2)) &&& p.flags = o.flags ||| BitVec.ofNat 6 (res.2 ||| sum.2))))) ∧
        (bitAt f.aux 0 = false → ¬ usable → s.stepOp core o = .bad s o 0x21 (BitVec.ofNat 64 f.h.toNat) false []) ∧
        ((bitAt f.aux 0 = true ∨ usable) → s.arrReads core 1 wa rowsA = .hold → s.stepOp core o = .hold) ∧
        (bitAt f.aux 0 = true → s.arrReads core 1 wb rowsB = .hold → s.stepOp core o = .hold) ∧
        (∀ v, usable → bitAt f.aux 0 = false → s.arrReads core 1 wa rowsA = .pois v → s.stepOp core o = .bad s o 0x23 v false [])) ∧
      (∀ ins ∈ [Instr.zld h f, .zldA h f, .zldK h f], o.ins = ins →
        let p := if o.sb = 0 then 256 else o.sb.toNat
        let got := s.arrRead core (level f.lfrom) (if kind = 1 ∨ kind = 2 then o.sa.toNat else o.sa.toNat + i * p) (if kind = 2 then 64 else 256)
        (got = .hold → s.stepOp core o = .hold) ∧
        (∀ v, got = .pois v → s.stepOp core o = .bad s o 0x23 v false []) ∧
        (∀ bs, got = .ok bs →
          (kind ≠ 1 → kind ≠ 2 → goes 64 (fun t q => q.flags = o.flags ∧ (∀ j, j < 64 → el t zd i j = word bs j) ∧
            same t (fun u r => u = zd ∧ r = i) ∧ 64 * zd + i ∉ (t.core core).zpoison)) ∧
          (kind = 1 → ends ((List.range 64).map (fun l => (0, Tgt.a l f.ax.toNat (word bs l)))) (fun t => t = s)) ∧
          (kind = 2 → ends [] (fun t => ∀ r e, e < 64 → (t.core core).kEntry r e = if r = f.k.toNat then bs.getD e 0 else c.kEntry r e)))) ∧
      (∀ ins ∈ [Instr.zst h f, .zstA h f, .zstK h f], o.ins = ins →
        let p := if o.sb = 0 then 256 else o.sb.toNat
        (kind = 1 → ends [] (fun t => hands t f.lto o.sa.toNat ((o.va.map (fun w => bytesOf w.toNat 4)).flatten))) ∧
        (kind = 2 → ends [] (fun t => hands t f.lto o.sa.toNat ((List.range 64).map (fun e => c.kEntry f.k.toNat e)))) ∧
        (kind ≠ 1 → kind ≠ 2 →
          (∀ v, c.poisonedRow za [i] = some v → s.stepOp core o = .bad s o 0x23 v false []) ∧
          (c.poisonedRow za [i] = none → goes 64 (fun t q => q.flags = o.flags ∧ same t (fun _ _ => False) ∧
            hands t f.lto (o.sa.toNat + i * p) (((List.range 64).map (fun j => bytesOf (el s za i j).toNat 4)).flatten))))) ∧
      (o.ins = .zepi h f →
        let p := if o.sb = 0 then rowBytes ty 64 else o.sb.toNat
        let int := bitAt f.imm10 2
        let rnd := bitsAt f.imm10 3 3
        let sat := bitAt f.aux 2
        let relu := bitsAt f.imm10 0 2 = 1
        let elem := fun (j : Nat) =>
          let z := el s za i j
          if int = true ∧ bitAt f.aux 0 = false ∧ bitAt f.aux 1 = false ∧ ty < 8 then
            let y : Int := if relu ∧ z.toInt < 0 then 0 else z.toInt
            if ty = 2 then (wrapW 32 y, 0) else intOut 0 sat y
          else
            let x := if int then convert 9 2 rnd false z.toNat else (z.toNat, 0)
            let y := fFma 9 0 (decodeFp 9 x.1) (decodeFp 9 (if bitAt f.aux 1 then (o.vb.getD i 0).toNat else 0x3F800000))
              (decodeFp 9 (if bitAt f.aux 0 then (o.va.getD j 0).toNat else 0x80000000))
            let v := if relu ∧ y.1.testBit 31 = true ∧ (decodeFp 9 y.1).isNaN = false then 0 else y.1
            let r := if ty = 9 then (v, 0) else convert ty 9 rnd sat v
            (r.1, x.2 ||| y.2 ||| r.2)
        (∀ v, c.poisonedRow za [i] = some v → s.stepOp core o = .bad s o 0x23 v false []) ∧
        (c.poisonedRow za [i] = none → goes 64 (fun t q => same t (fun _ _ => False) ∧
          q.flags = o.flags ||| BitVec.ofNat 6 ((List.range 64).foldl (fun x j => x ||| (elem j).2) 0) ∧
          hands t f.lto (o.sa.toNat + i * p) (bytesOf (packN (tyBits ty) ((List.range 64).map (fun j => (elem j).1))) (rowBytes ty 64))))) ∧
      (o.ins = .hld h f →
        let a := o.sa.toNat
        let loses := fun (cause : Nat) (v : Dword) => ∃ t, s.stepOp core o = .bad t o cause v false [] ∧ t.mem = s.mem ∧
          (t.core core).hslots.find f.h.toNat = none
        (Config.scratchBytes < a + 16 → loses 0x22 o.sa) ∧
        (a + 16 ≤ Config.scratchBytes →
          (s.arrRead core 1 a 16 = .hold → s.stepOp core o = .hold) ∧
          (∀ v, s.arrRead core 1 a 16 = .pois v → loses 0x23 v) ∧
          (∀ b, s.arrRead core 1 a 16 = .ok b →
            (HSlot.ofHeader b = none → loses 0x22 o.sa) ∧
            (∀ q len, HSlot.ofHeader b = some (q, len) →
              (Config.scratchBytes < a + 16 + len → loses 0x22 o.sa) ∧
              (a + 16 + len ≤ Config.scratchBytes →
                (s.arrRead core 1 (a + 16) len = .hold → s.stepOp core o = .hold) ∧
                (∀ v, s.arrRead core 1 (a + 16) len = .pois v → loses 0x23 v) ∧
                (∀ bs, s.arrRead core 1 (a + 16) len = .ok bs →
                  (HSlot.blocks { q with payload := bs } = none → loses 0x22 o.sa) ∧
                  (HSlot.blocks { q with payload := bs } ≠ none → ends [] (fun t => ∀ n,
                    (t.core core).hslots.find n = if n = f.h.toNat then some { q with payload := bs } else c.hslots.find n)))))))) ∧
      (c.zpoison = [] →
        let p := Shape.of o.sa
        let up := bitAt f.aux 1
        let unit := bitAt f.aux 2
        let trans := bitAt f.aux 3
        let d := p.row0 + i
        let col := p.col0 + i
        let w0 : Work := { z := c.z, fl := 0 }
        let get := fun (w : Work) (r j : Nat) => w.get ty zd r j
        let set := fun (w : Work) (r j : Nat) (x : Nat × Nat) => w.set ty zd r j x
        let both := fun (x : Nat × Nat) (y : Nat × Nat) => (y.1, x.2 ||| y.2)
        let r0 : FactOut := { w := w0, swaps := o.swaps, status := o.status, scol := o.scol, kset := [], tau := o.tau, stop := false }
        let first := fun (r : FactOut) (st : Nat) => if o.status = 0 then { r with status := st, scol := i } else r
        let reflects := fun (w : Work) (tau d last lo hi : Nat) (v : Work → Nat → Nat) => (span lo (hi + 1)).foldl (fun w j =>
          let hh := (span (d + 1) (last + 1)).foldl (fun x r => both x (fmaC ty (v w r) (get w r j) x.1)) (get w d j, 0)
          let m := mulC ty tau hh.1
          (span (d + 1) (last + 1)).foldl (fun w r => set w r j (fmaC ty (negC ty m.1) (v w r) (get w r j)))
            (set (w.raise (hh.2 ||| m.2)) d j (subC ty (get w d j) m.1))) w
        let ended := fun (op : Nat) (q : ArrOp) (w : Work) (ts : List (Nat × Tgt)) (v : Dword) =>
          v = (fieldAt 32 (if op ≤ 0x302 then growthOf ty q.maxIn (maxMag ty ((growthElems op true p).map (fun e => get w e.1 e.2))) else 0)
              ||| fieldAt 24 q.status ||| fieldAt 8 (q.scol % 256) ||| fieldAt 0 (q.swaps % 128)) ∧
            ts = factTgts op f q v
        let loops := fun (op : Nat) (ins : Instr) (n : Nat) (r : FactOut) => o.ins = ins → ∃ (t : State) (q : ArrOp),
          (t.core core).z = r.w.z ∧ t.mem = s.mem ∧
          (t.core core).k = r.kset.foldl (fun k e => k.put (64 * f.k.toNat + e.1) (BitVec.ofNat 8 e.2)) c.k ∧
          q = { o with
            step := if r.stop then i else i + 1, swaps := r.swaps, status := r.status, scol := r.scol, tau := r.tau
            flags := o.flags ||| BitVec.ofNat 6 r.w.fl
            maxIn := if i = 0 ∧ op ≤ 0x302 then maxMag ty ((growthElems op false p).map (fun e => get w0 e.1 e.2)) else o.maxIn } ∧
          (r.stop = false → i + 1 < n → s.stepOp core o = .more t q) ∧
          (r.stop = false → n ≤ i + 1 → ∃ ts v, ended op q r.w ts v ∧ s.stepOp core o =
            (if bitAt f.aux 0 = true ∧ r.status = 1 then .bad t q 0x25 v true ts
             else if bitAt f.aux 0 = true ∧ r.status = 3 then .bad t q 0x27 v true ts else .finished t q ts)) ∧
          (r.stop = true → ∃ ts v, ended op q r.w ts v ∧ s.stepOp core o =
            (if bitAt f.aux 0 = true then .bad t q 0x26 v false ts else .finished t q ts))
        loops 0x300 (.factLu h f) p.ncol (
          let below := span (d + 1) (p.row0 + p.nrow)
          let piv := below.foldl (fun q r => if largerC ty (get w0 r col) (get w0 q col) then r else q) d
          let w1 := if piv = d then w0 else w0.swap ty zd piv d (List.range (workWidth ty))
          let r1 := { r0 with kset := [(d, piv)], w := w1, swaps := if piv = d then o.swaps else o.swaps + 1 }
          if magC ty (get w1 d col) = 0 then first r1 1
          else
            let w2 := below.foldl (fun w r => set w r col (divC ty (get w r col) (get w1 d col))) w1
            { r1 with w := below.foldl (fun w r => (span (col + 1) (p.col0 + p.ncol)).foldl (fun w j =>
                set w r j (fmaC ty (negC ty (get w r col)) (get w d j) (get w r j))) w) w2 }) ∧
        loops 0x301 (.factCh h f) p.ncol (
          let a := get w0 d col
          let below := span (d + 1) (p.row0 + p.ncol)
          if nanC ty a = true ∨ magC ty a = 0 ∨ a.testBit (fpWidth ty - 1) = true then { first r0 2 with stop := true }
          else
            let l := sqrtC ty a
            let w2 := below.foldl (fun w r => set w r col (divC ty (get w r col) l.1)) (set w0 d col l)
            { r0 with w := below.foldl (fun w r => (span (col + 1) (p.col0 + (r - p.row0) + 1)).foldl (fun w j =>
                set w r j (fmaC ty (negC ty (get w r col)) (get w (p.row0 + (j - p.col0)) col) (get w r j))) w) w2 }) ∧
        loops 0x302 (.factQr h f) p.ncol (
          let last := p.row0 + p.nrow - 1
          let below := span (d + 1) (last + 1)
          let alpha := get w0 d col
          let ss := below.foldl (fun x r => both x (fmaC ty (get w0 r col) (get w0 r col) x.1)) (0, 0)
          if magC ty ss.1 = 0 then { r0 with w := w0.raise ss.2, tau := o.tau ++ [(i, 0)] }
          else
            let n2 := fmaC ty alpha alpha ss.1
            let nrm := sqrtC ty n2.1
            let beta := if nanC ty nrm.1 then canonNaN ty else if alpha.testBit (fpWidth ty - 1) then nrm.1 else negC ty nrm.1
            let num := subC ty beta alpha
            let tau := divC ty num.1 beta
            let den := subC ty alpha beta
            let w1 := below.foldl (fun w r => set w r col (divC ty (get w r col) den.1))
              ((w0.raise ss.2).raise (n2.2 ||| nrm.2 ||| num.2 ||| tau.2 ||| den.2))
            { r0 with
              w := (reflects w1 tau.1 d last (col + 1) (p.col0 + p.ncol - 1) (fun w r => get w r col)).put ty zd d col beta
              tau := o.tau ++ [(i, tau.1)] }) ∧
        loops 0x303 (.trsm h f) p.nrow (
          let row := if up = trans then i else p.nrow - 1 - i
          let tri := fun (w : Work) (a b : Nat) =>
            if trans then w.get ty za (p.arow + b) (p.acol + a) else w.get ty za (p.arow + a) (p.acol + b)
          let solved := if up = trans then span 0 row else span (row + 1) p.nrow
          let w := (List.range p.ncol).foldl (fun w j =>
            let x := solved.foldl (fun x l => both x (fmaC ty (negC ty (tri w row l)) (get w (p.row0 + l) (p.col0 + j)) x.1))
              (get w (p.row0 + row) (p.col0 + j), 0)
            set w (p.row0 + row) (p.col0 + j) (both x (if unit then (x.1, 0) else divC ty x.1 (tri w row row)))) w0
          if unit = false ∧ magC ty (tri w0 row row) = 0 then { first r0 3 with w := w } else { r0 with w := w }) ∧
        loops 0x304 (.qapply h f) p.ninn (
          let k := if trans then i else p.ninn - 1 - i
          let tau := if ty = 8 then (o.va.getD k 0).toNat + 2 ^ 32 * (o.vb.getD k 0).toNat else (o.va.getD k 0).toNat
          { r0 with
            w := reflects w0 tau (p.row0 + k) (p.row0 + p.nrow - 1) p.col0 (p.col0 + p.ncol - 1)
              (fun w r => w.get ty za (p.arow + (r - p.row0)) (p.acol + k)) }) ∧
        loops 0x306 (.ztr h f) p.nrow { r0 with w := (List.range p.ncol).foldl (fun w j =>
            set w (p.row0 + i) (p.col0 + j) ((List.range p.ninn).foldl (fun x l =>
              let a := w.get ty za (p.row0 + i) (p.acol + l)
              both x (fmaC ty (if up then a else negC ty a) (w.get ty za (p.arow + l) (p.col0 + j)) x.1))
              (get w (p.row0 + i) (p.col0 + j), 0))) w0 } ∧
        (o.ins = .perm h f → (∀ r, r < p.nrow → (c.kEntry f.k.toNat (p.row0 + r)).toNat < workWidth ty) →
          let w := (if trans then (List.range p.nrow).reverse else List.range p.nrow).foldl (fun (x : Work × Nat) r =>
            let a := p.row0 + r
            let b := (c.kEntry f.k.toNat a).toNat
            if b = a then x else (x.1.swap ty zd a b (span p.col0 (p.col0 + p.ncol)), x.2 + 1)) (w0, o.swaps)
          ∃ t q ts v, s.stepOp core o = .finished t q ts ∧ (t.core core).z = w.1.z ∧ t.mem = s.mem ∧
            q = { o with swaps := w.2 } ∧ ended 0x305 q w.1 ts v)))

/-- INSERT, STOCKPOT_RETRY, DISPATCH, RECORD_START, RECORD_RETIRE and BLOCK_RETIRE do what R202, R335 to R345 state (R202, R313,
R330, R335, R336, R338, R341, R343, R344, R345, R348, R349). Model's choice: log row 170 (DEDUCED), the image that an insert
has read stays what it inserts. -/
def Obligations.RecordEvents : Prop :=
  ∀ (s : State),
    (∀ (id : Nat) (p : PendIns) (i : Image) (n : Nat) (m : Rec) (w : Who) (sm : BitVec 8) (tag sd : Nat) (c : Bool),
      s.inserts.find? (fun p => p.id = id) = some p → p.src = .launch w sm tag sd c → w.isSaved = false → p.spfull = false →
      p.sent = none → p.level ≠ 5 → s.stopped = false → s.insBehind p = false →
      s.storesAhead w p.frag p.dbg p.seq = false → s.insImage p = .ok i →
      (s.pot p.pot).recs.find? (fun r => r.2.same p.ctx i && r.2.sealed.isNone) = some (n, m) →
      (s.pot p.pot).recs.find n = some m →
      ∀ x, (x = Instr.stockpotRetry id ∨ (x = Instr.insert id ∧ p.stalled = false)) →
      ∃ t, exec x s = .next t ∧ t.inserts = s.inserts.filter (fun q => q.id ≠ id) ∧ t.mem = s.mem ∧
        (t.pot p.pot).recs.find n = some { m with
          img := m.img.combine i, count := m.count + 1,
          sealed := if sealsAt m.img.limit (m.count + 1) then some .limit else none }) ∧
    (∀ (id : Nat) (p : PendIns) (i : Image) (w : Who) (sm : BitVec 8) (tag sd : Nat) (c : Bool) (u : Issuer),
      s.inserts.find? (fun p => p.id = id) = some p → p.src = .launch w sm tag sd c → w.isSaved = false → p.spfull = false →
      p.sent = none → p.level ≠ 5 → s.stopped = false → s.insBehind p = false →
      s.storesAhead w p.frag p.dbg p.seq = false → s.insImage p = .ok i → s.issuer w = some u → u.ended = false → p.frag ≠ 0 →
      (∀ r ∈ (s.pot p.pot).recs, r.2.same p.ctx i = true → r.2.sealed ≠ none ∧ (i.nospill = true → r.2.sealed ≠ some .limit)) →
      ∀ x, (x = Instr.stockpotRetry id ∨ (x = Instr.insert id ∧ p.stalled = false)) →
      (∀ k, s.freeSlot p.pot = some k →
        (i.group = 0 ∨ ((s.pot p.pot).group p.ctx i.group).isSome = true ∨ (s.pot p.pot).groupsUsed < 256) →
        ∃ t r, exec x s = .next t ∧ t.inserts = s.inserts.filter (fun q => q.id ≠ id) ∧ t.mem = s.mem ∧
          (t.pot p.pot).recs.find k = some r ∧ r.ctx = p.ctx ∧ r.img = i.created ∧ r.count = 1 ∧ r.st = .waiting ∧ r.gateErr = false ∧
          r.sealed = (if i.limit = 1 then some .limit else none) ∧ r.created = s.tb ∧ r.order = (s.pot p.pot).nextOrder ∧ r.home = p.pot ∧
          r.groups = (if i.group = 0 then [] else [(p.pot, i.group)]) ∧ (p.space ≠ 3 → r.gates = s.gatesOf p.pot p.ctx i) ∧
          (t.pot p.pot).nextOrder = (s.pot p.pot).nextOrder + 1) ∧
      (s.freeSlot p.pot = none → ∃ t, exec x s = .next t ∧ t.pots = s.pots ∧ t.mem = s.mem ∧
        (i.trapfull = true → t.inserts.find? (fun p => p.id = id) = some { p with
          spfull := true, stalled := false, again := false, img := some i }) ∧
        (i.trapfull = false → p.nb = true → t.inserts = s.inserts.filter (fun q => q.id ≠ id)) ∧
        (i.trapfull = false → p.nb = false → t.inserts.find? (fun p => p.id = id) = some { p with
          stalled := true, again := false, img := some i }))) ∧
    (∀ (p n core slot : Nat) (r : Rec), s.suspst = 0 → s.choose p = some (n, r, .block core slot) → r.packets = [] →
      (s.pot p).recs.find n = some r → ∃ t, exec (.dispatch p) s = .next t ∧
        (t.pot p).recs.find n = some { r with
          st := .taken, sealed := some (r.sealed.getD .dispatch), runner := some (.stream core slot) } ∧
        ∃ b, t.block core slot = some b ∧ b.pot = p ∧ b.slot = n ∧ b.stream.ctx = r.ctx ∧ b.stream.s = startRegs r ∧
          b.stream.frags = [] ∧ (t.core core).ctx = some r.ctx) ∧
    (∀ (p n : Nat) (w : Who) (r : Rec), s.suspst = 0 → s.choose p = some (n, r, .seq w) → r.packets = [] →
      (s.pot p).recs.find n = some r → ∃ t q, exec (.dispatch p) s = .next t ∧ t.seqs.find w = some q ∧ q.pot = p ∧ q.slot = n ∧
        q.done = none ∧ q.iss.ctx = r.ctx ∧ q.iss.s = startRegs r) ∧
    (∀ (p n q : Nat) (r : Rec), s.suspst = 0 → s.choose p = some (n, r, .pot q) → q ≠ p → r.packets = [] → (s.pot p).recs.find n = some r →
      let match_ := (s.pot q).recs.find? (fun x => x.2.same r.ctx r.img && x.2.sealed.isNone)
      let moves := fun (k : Nat) (x : Rec) => ∃ t, exec (.dispatch p) s = .next t ∧ (t.pot p).recs.find n = none ∧
        (t.pot q).recs.find k = some x ∧ t.mem = s.mem
      (∀ k m, r.sealed ≠ some .flush → match_ = some (k, m) → (s.pot q).recs.find k = some m → (m.img.limit = 0 ∨ m.count + r.count ≤ m.img.limit) →
        moves k { m with
          img := m.img.combine r.img, count := m.count + r.count, groups := m.groups ++ r.groups, packets := m.packets
          sealed := if sealsAt m.img.limit (m.count + r.count) then some .limit else none }) ∧
      (∀ k, s.freeSlot q = some k →
        ((match_ = none ∨ r.sealed = some .flush) → moves k { r with order := (s.pot q).nextOrder }) ∧
        (∀ j m, r.sealed ≠ some .flush → match_ = some (j, m) → m.img.limit ≠ 0 → m.img.limit < m.count + r.count →
          moves k { r with order := (s.pot q).nextOrder, sealed := some .limit }))) ∧
    (∀ (p n core slot : Nat) (r : Rec) (b : Block) (bs : List Byte) (h : Header), (s.pot p).recs.find n = some r → r.st = .taken →
      r.runner = some (.stream core slot) → s.suspst = 0 → core < 256 → s.stoppedAt core slot = false →
      s.readHeader (core / 64) r.ctx (s.headerAddr r.ctx r.img) = .ok bs → Header.ofBytes bs [1, 6] = some h → h.array = false →
      s.block core slot = some b → ∃ t c, exec (.recordStart p n) s = .next t ∧ t.block core slot = some c ∧
        c.stream.frags = [(0, Frag.fresh h.entry 0 1)] ∧ c.bars = h.bars ∧ c.array = h.array ∧
        (t.pot p).recs.find n = some { r with st := .running }) ∧
    (∀ (p n : Nat) (r : Rec) (w : Who) (q : Seq) (x : Nat × Nat), (s.pot p).recs.find n = some r → r.gateErr = false →
      r.result = none → r.st = .running → r.runner = some w → s.seqs.find w = some q → q.done = some x → s.stopped = false →
      ∃ t, exec (.recordRetire p n) s = .next t ∧ (t.pot p).recs.find n = none ∧ t.seqs.find w = none ∧
        (r.packets = [] → (t.pot p).retired = retireStatus (if x.1 = 9 then some (false, 0, x.2) else none))) ∧
    (∀ (p n : Nat) (r : Rec), (s.pot p).recs.find n = some r → r.gateErr = true → s.stopped = false →
      ∃ t, exec (.recordRetire p n) s = .next t ∧ (t.pot p).recs.find n = none ∧
        (r.packets = [] → t.cores = s.cores) ∧ ∀ hp g e, r.packets = [] → r.groups = [(hp, g)] → hp < 36 → (s.pot hp).group r.ctx g = some e → 1 < e.count →
          (t.pot hp).group r.ctx g = some { e with count := e.count - 1, errs := e.errs + 1 }) ∧
    (∀ (core slot : Nat) (b : Block), s.block core slot = some b → b.exited = true → (s.core core).gangsOf slot = [] →
      (s.core core).leaving slot (fun _ => true) = false → b.array = false → b.treat = .none → s.copies = [] →
      ∃ t, exec (.blockRetire core slot) s = .next t ∧ t.block core slot = none ∧ (t.pot b.pot).recs.find b.slot = none ∧
        ∀ r, (s.pot b.pot).recs.find b.slot = some r → r.packets = [] → (t.pot b.pot).retired = retireStatus b.firstDouble)

/-- REDUCE_TIMEOUT and INTERMEDIATE_FLUSH do what R371, R372 and R455 state (R371, R372, R455). -/
def Obligations.ReductionEvents : Prop :=
  ∀ (s : State),
    (∀ (p n : Nat) (r : Rec), s.stopped = false → (s.pot p).recs.find n = some r → r.img.entry = redMark → r.result = none → r.podN = none →
      (∃ t ∈ r.timeout, t ≤ s.tb) → ∃ t, exec (.reduceTimeout p n) s = .next t ∧ t.mem = s.mem ∧
        ∃ q, (t.pot p).recs.find n = some q ∧ q.result = some (r.img.words, 5, r.count) ∧ q.sealed.isSome = true) ∧
    (∀ (n : Nat) (r : Rec), s.stopped = false → (s.pot 36).recs.find n = some r → r.result = none → (∃ t ∈ r.timeout, t ≤ s.tb) → r.flushed = none →
      r.podN.isSome = true → ∃ t, exec (.intermediateFlush n) s = .next t ∧
        ∃ q, (t.pot 36).recs.find n = some q ∧ q.flushed.isSome = true ∧ q.sealed.isSome = true)

/-- LINE_FETCH, ACCESS_RETURN, LADLE_FETCH and COPY_PIECE do what R43, R167, R179, R183, R188, R215 and R453 state (R43, R44,
R167, R169, R171, R173, R179, R183, R188, R215, R405, R453). Model's choices: log row 110 (DEDUCED), a store of package memory
under another key re-keys the whole 64-byte line; row 36 (DEDUCED), what SATOM gives for the narrow types; row 169 (DEDUCED),
reads of one load in one aligned 16-byte piece are performed together. -/
def Obligations.FetchAndReturnEvents : Prop :=
  ∀ (s : State), memoryCanonical s →
    (∀ pl ctx line, (s.issuersAt pl).any (fun u => u.2.ctx = ctx) = true → line < 2 ^ 51 → s.stopped = false →
      (∀ pa, s.translate (dieOf pl) ctx (64 * line) kFetch = .ok pa → ∃ t l,
        exec (.lineFetch pl ctx line) s = .next t ∧ t.mem = s.mem ∧ t.lineAt pl ctx line = some l ∧
        l.data = BitVec.ofNat 512 (ofBytes (s.pkgRead (s.keyOf ctx) pa 64)) ∧
        l.bad = (if s.poisoned pa 64 = true ∨ lineChecks l.data = false then some 1 else none)) ∧
      (∀ c, s.translate (dieOf pl) ctx (64 * line) kFetch = .bad c → ∃ t l, exec (.lineFetch pl ctx line) s = .next t ∧
        t.mem = s.mem ∧ t.lineAt pl ctx line = some l ∧ l.bad = some c)) ∧
    (∀ core g n u e lanes (p : Acc → Nat × Option Nat), core < 256 → (s.core core).gangs.find g = some u → u.log = [(n, e)] →
      e.space ≠ 5 → (∀ a ∈ e.accs, a.st = .pending ∧ lanes.getLsbD a.lane = true ∧ s.imageHolds (.gang core g) e a = false) →
      let done := fun (P : State → Issuer → Prop) => ∃ t v, exec (.accessReturn core g n lanes) s = .next t ∧
        (t.core core).gangs.find g = some v ∧ v.s = u.s ∧ v.v = u.v ∧ v.c = u.c ∧ v.m = u.m ∧ v.fstat = u.fstat ∧ P t v
      let gets := fun (v : Issuer) (ts : List (Nat × Tgt)) => v.flights.length = u.flights.length ∧
        ∀ (i : Nat) (f : Flight), u.flights[i]? = some f → f.tag = e.tag → f.kind = .memory → f.slice < 8 → e.smask.getLsbD f.slice = true →
          ∃ f', v.flights[i]? = some f' ∧ f'.ready = true ∧ f'.slice = f.slice ∧
          f'.tgts = f.tgts ++ (ts.filterMap (fun t => if t.1 = f.slice then some t.2 else none)).filter (fun t => t.under f.cap)
      let of := fun (a : Acc) (l : List (Nat × Tgt)) => l.filter (fun t => a.slices.contains t.1)
      let put := fun (m : Nat → Byte) (a : Acc) (new : Nat → Nat) (x : Nat) =>
        if (p a).1 ≤ x ∧ x < (p a).1 + a.len then
          BitVec.ofNat 8 (new (ofBytes ((List.range a.len).map (fun i => m ((p a).1 + i)))) / 256 ^ (x - (p a).1))
        else m x
      ((∀ a ∈ e.accs, a.slices.Nodup ∧ s.addrBad core u.ctx e.space a.len a.ea = none ∧ s.locate core u.ctx e.space e.kind.code a.ea = .ok (p a)) →
        (e.kind = .store → (∀ a ∈ e.accs, (p a).2 = none) →
          done (fun t v => v.log = [] ∧ ∀ x, t.mem.get x = e.accs.foldl (fun m a => put m a (fun _ => a.data)) s.mem.get x)) ∧
        (∀ a key, e.kind = .store → e.accs = [a] → (p a).2 = some key → done (fun t v => v.log = [] ∧
          t.pkgRead key (p a).1 a.len = bytesOf a.data a.len ∧
          (∀ x, x < (p a).1 ∨ (p a).1 + a.len ≤ x → t.pkgByte key x = s.pkgByte key x) ∧
          (∀ x, (∀ i, i < a.len → ((p a).1 + i) / 64 ≠ x / 64) → t.mem.get x = s.mem.get x))) ∧
        ((e.kind = .load ∨ e.kind = .ladle) → (∀ a ∈ e.accs, s.poisoned (p a).1 a.len = false) → done (fun t v => v.log = [] ∧
          t.mem = s.mem ∧ gets v ((e.accs.map (fun a => of a (e.gives n a (ofBytes (s.readAt (p a) a.len)) 0))).flatten))) ∧
        (∀ op h f, e.kind = .atomic → e.ins.form = some (op, h, .m f) → (∀ a ∈ e.accs, (p a).2 = none ∧ s.poisoned (p a).1 a.len = false) →
          let w := tyBits f.ty.toNat
          let rmw := fun (a : Acc) (old : Nat) =>
            if f.aop = 0 then a.data
            else if f.aop = 1 then (old + a.data) % 2 ^ w
            else if f.aop = 2 then old &&& a.data
            else if f.aop = 3 then old ||| a.data
            else if f.aop = 4 then old ^^^ a.data
            else if f.aop = 5 then (if elemInt f.ty.toNat a.data < elemInt f.ty.toNat old then a.data else old)
            else if f.aop = 6 then (if elemInt f.ty.toNat old < elemInt f.ty.toNat a.data then a.data else old)
            else if f.aop = 8 then (fAdd 9 0 (decodeFp 9 old) (decodeFp 9 a.data)).1
            else (if old = a.data then a.data2 else old)
          done (fun t v => v.log = [] ∧ (∀ x, t.mem.get x = e.accs.foldl (fun m a => put m a (rmw a)) s.mem.get x) ∧
            ∀ a, e.accs = [a] → let old := ofBytes (s.mem.read (p a).1 a.len)
              gets v (of a (e.gives n a old (if f.aop = 8 then (fAdd 9 0 (decodeFp 9 old) (decodeFp 9 a.data)).2 else 0)))))) ∧
      (∀ a c, e.accs = [a] → (s.addrBad core u.ctx e.space a.len a.ea = some c ∨
          (s.addrBad core u.ctx e.space a.len a.ea = none ∧ (s.locate core u.ctx e.space e.kind.code a.ea = .bad c ∨
            (c = 0x13 ∧ e.kind ≠ .store ∧ s.locate core u.ctx e.space e.kind.code a.ea = .ok (p a) ∧ s.poisoned (p a).1 a.len = true)))) →
        done (fun t v => t.mem = s.mem ∧ v.log.find n = some { e with accs := [{ a with st := .failed c }] } ∧
          ((s.die (core / 64)).elog.length < 64 → (t.die (core / 64)).elog =
            (s.die (core / 64)).elog ++ [⟨a.ea, u.ctx, 0, 1, c, BitVec.ofNat 64 s.tb⟩])))) ∧
    (∀ core g q j ahead u l k, core < 256 → (s.core core).gangs.find g = some u → u.ladles.find (8 * q + j) = some l →
      s.stoppedAt core u.blk = false →
      l.ahead ahead = some k → l.open_ j ahead ≠ [] → ∀ val : Nat → BitVec 64,
      (∀ x ∈ l.open_ j ahead, s.fetchLane core u.ctx k x = .ok (val x)) →
      ∃ t v, exec (.ladleFetch core g j q ahead) s = .next t ∧ t.mem = s.mem ∧ (t.core core).gangs.find g = some v ∧
        v.ladles.find (8 * q + j) = some (l.gain ahead ((l.open_ j ahead).map (fun x => (x, val x))) [])) ∧
    (∀ id p m c d, s.copyOf id = some c → c.dsts[m]? = some d → c.flying = true → p < c.pieces → (m, p) ∉ c.done →
      (∀ x ∈ c.failed, x.1 ≠ m) → s.copyFrozen c m = false → (s.copyStops c m = false ∨ c.inProgress m p = true) →
      let source := fun (bs : List Byte) (pois : Bool) => (∀ peer key e a, c.src ≠ .pod peer key e a) ∧
        ((c.got.find? (fun g => g.1 = p) = none ∧ ∃ o, s.getPiece c p = .ok (bs, o) ∧ o.isSome = pois) ∨
          c.got.find? (fun g => g.1 = p) = some (p, bs, pois))
      (∀ (k : Nat × Option Nat) bs pois, s.placeOf c.die d (c.dstOff p) kWrite = .ok (some k) → source bs pois →
        (k.2 = none → ∃ t, exec (.copyPiece id p m) s = .next t ∧ (∀ i, i < bs.length → t.mem.get (k.1 + i) = bs.getD i 0) ∧
          ∀ x, x < k.1 ∨ k.1 + bs.length ≤ x → t.mem.get x = s.mem.get x) ∧
        (∀ key, k.2 = some key → ∃ t, exec (.copyPiece id p m) s = .next t ∧ t.pkgRead key k.1 bs.length = bs ∧
          (∀ x, x < k.1 ∨ k.1 + bs.length ≤ x → t.pkgByte key x = s.pkgByte key x) ∧
          ∀ x, (∀ i, i < bs.length → (k.1 + i) / 64 ≠ x / 64) → t.mem.get x = s.mem.get x)) ∧
      (∀ a bs pois, d = .host a → source bs pois → ∃ t, exec (.copyPiece id p m) s = .next t ∧ t.mem = s.mem ∧
        t.hostOut = s.hostOut ++ [(a + c.dstOff p, bs, pois)]) ∧
      (∀ peer key e a op off data, c.home = none → s.pieceSent id p = false → s.hasPath peer = true →
        ((c.src = .pod peer key e a ∧ op = 1 ∧ off = a + c.srcOff p ∧ data = [] ∧ ∃ q, s.placeOf c.die d (c.dstOff p) kWrite = .ok q) ∨
          (d = .pod peer key e a ∧ op = 2 ∧ off = a + c.dstOff p ∧ source data false)) →
        ∃ t r, exec (.copyPiece id p m) s = .next t ∧ t.mem = s.mem ∧ t.reqs = s.reqs ++ [r] ∧ r.owner = .copy id p ∧ r.msg.op = op ∧
          r.msg.dest = peer ∧ r.msg.key = key ∧ r.msg.eidx = e ∧ r.msg.offset = BitVec.ofNat 64 off ∧ r.msg.data = data))

/-- WALK, FILL, DENY and the TINV commands do what R385 to R389 state (R385, R386, R387, R389). Model's choices: log row 63
(DEDUCED), TINV completes at once; row 125 (DESIGN CHOICE), reserved bits of a FID name no entry; row 126 (DEDUCED), a FID
whose record has not been written is stale. -/
def Obligations.TranslationEvents : Prop :=
  ∀ (s : State) (d : Nat), d < 4 →
    (s.stopped = false → (s.die d).walkq = [] → (s.die d).walkers.length < 192 → ∀ ctx page kind pl line, kind ≤ 3 → page < 2 ^ 45 → (s.ctxOf ctx).st = .live → s.tlbOf d ctx (4096 * page) = none →
      let r := Requester.line pl line
      s.awaits d ctx page kind r = false →
      (∀ e, s.pageWalk ctx (4096 * page) = .page e → ∃ t, exec (.walk d ctx page kind r) s = .next t ∧
        (t.die d).tlb.head? = some e ∧ (∀ x ∈ (s.die d).tlb, x ∈ (t.die d).tlb) ∧ t.mem = s.mem) ∧
      (∀ level pois bad, s.pageWalk ctx (4096 * page) = .none level pois bad → s.waitsOn d ctx page kind r = true →
        (s.die d).faults.length < 2048 → (∀ p ∈ (s.die d).faults, (s.die d).faults.find p.1 = some p.2) → ∃ t n f, exec (.walk d ctx page kind r) s = .next t ∧ (t.die d).faults.find n = some f ∧
          f.ctx = ctx ∧ f.page = page ∧ r ∈ f.reqs)) ∧
    (∀ fid n f pl line, s.stopped = false → (s.die d).walkq = [] → s.faultOf d fid = some (n, f) → f.reqs = [.line pl line] → (s.die d).held = [] →
      (∀ e, s.pageWalk f.ctx (4096 * f.page) = .page e → ∃ t, exec (.fill d fid) s = .next t ∧ (t.die d).faults.find n = none ∧
        (t.die d).tlb.head? = some e) ∧
      (s.waitsOn d f.ctx f.page f.kind (.line pl line) = true → ∃ t l, exec (.deny d fid) s = .next t ∧
        (t.die d).faults.find n = none ∧ t.lineAt pl f.ctx line = some l ∧ l.bad = some 0x15)) ∧
    (∀ fid, s.stopped = false → s.faultOf d fid = none → (s.die d).stale.toNat < 65535 →
      ∀ i, (i = Instr.fill d fid ∨ i = Instr.deny d fid) → ∃ t, exec i s = .next t ∧ (t.die d).stale = (s.die d).stale + 1 ∧
        (t.die d).faults = (s.die d).faults) ∧
    (∀ ctx (va : BitVec 64) len,
      let drops := fun (o : Host.Outcome State Fault Refusal) (p : Tlb → Prop) =>
        ∃ t, o = .next t ∧ t.tinvDone = s.tinvDone + 1 ∧ ∀ x, x ∈ (t.die d).tlb ↔ (x ∈ (s.die d).tlb ∧ ¬ p x)
      drops (exec .tinvAll s) (fun _ => True) ∧
      drops (exec (.tinvContext ctx) s) (fun x => x.ctx = ctx) ∧
      drops (exec (.tinvRange ctx va len) s) (fun x => x.ctx = ctx ∧ x.va < va.toNat / 2 ^ len * 2 ^ len + 2 ^ len ∧
        va.toNat / 2 ^ len * 2 ^ len < x.va + 2 ^ x.size))

/-- ELPOP, PELPOP, SCCMD, SCALES_PERIOD, MIGRATION, ARM_TIME_FIRE and ARM_TAG_FIRE do what R390 to R392, R398 and R422 state
(R390, R391, R392, R398, R422). Model's choice: log row 56 (DEDUCED), a tagged message for which no arm is live is counted in
NOMATCH of die 0. -/
def Obligations.DieServiceEvents : Prop :=
  ∀ (s : State) (d : Nat), d < 4 →
    (∀ r l, (s.die d).elog = r :: l → ∃ t, exec (.elpop d) s = .next t ∧ (t.die d).elog = l ∧
      (t.die d).elHead = ((s.die d).elHead + 1) % 64 ∧ t.mem = s.mem) ∧
    (∀ r l, s.pelog = r :: l → ∃ t, exec .pelpop s = .next t ∧ t.pelog = l ∧ t.pelHead = (s.pelHead + 1) % 256 ∧ t.mem = s.mem) ∧
    (∀ v : BitVec 64, bitAt v 63 = true → bitAt v 16 = false → bitsAt v 0 4 ≠ bitsAt v 4 4 → bitsAt v 0 4 ≤ 7 → bitsAt v 4 4 ≤ 7 →
      (s.die d).cmds.toNat < 2 ^ 32 - 1 → ∃ t m, exec (.sccmd d v) s = .next t ∧ (t.die d).cmds = (s.die d).cmds + 1 ∧
        (t.die d).migr = (s.die d).migr ++ [m] ∧ m.src = bitsAt v 0 4 ∧ m.dst = bitsAt v 4 4 ∧ m.slots.length ≤ bitsAt v 8 8) ∧
    (∀ dies : Bool, (dies = true → d = 0) → s.stopped = false →
      let x := s.die d
      let top := if dies then 4 else 8
      (if dies then x.scPkgAt else x.scAt) + 1000 * scField x.sccfg 32 16 ≤ s.tb →
      let left := x.migr.map (fun (m : Migr) =>
        if m.dies = dies ∧ m.waits = true then { m with slots := m.slots.drop 1, waits := false } else m)
      let starts := fun (t : State) => exec (.scalesPeriod d dies) s = .next t ∧
        (if dies then (t.die d).scPkgAt else (t.die d).scAt) = s.tb ∧ t.mem = s.mem ∧ t.pots = s.pots
      let surplus := fun (n : Nat) => (((s.pot (scPot d dies n)).recs.filter (fun r => s.movable (scPot d dies n) r.2)).length : Int)
        - ((if dies then ((List.range 8).filter (fun c => (s.seqs.find (.clusterSeq (8 * n + c))).isNone)).length
            else 32 - s.blocksOn (coresOf (8 * d + n)) : Nat) : Int)
      let runs := bitAt x.sccfg 0 = true ∧ (dies = true → bitAt x.sccfg 1 = true)
      (¬ runs → ∃ t, starts t ∧ (t.die d).migr = left ∧ (t.die d).cmds = x.cmds) ∧
      (runs → ∀ src dst, src < top → dst < top → (∀ n < top, surplus n ≤ surplus src ∧ (surplus n = surplus src → src ≤ n)) →
        (∀ n < top, surplus dst ≤ surplus n ∧ (surplus n = surplus dst → dst ≤ n)) →
        let gap := surplus src - surplus dst
        let made := 0 < surplus src ∧ 2 * (scField x.sccfg 8 8 : Int) ≤ gap
        (¬ made → ∃ t, starts t ∧ (t.die d).migr = left ∧ (t.die d).cmds = x.cmds) ∧
        (made → ∃ t m, starts t ∧ (t.die d).migr = left ++ [m] ∧ (t.die d).cmds.toNat = Nat.min (2 ^ 32 - 1) (x.cmds.toNat + 1) ∧
          m.dies = dies ∧ m.src = src ∧ m.dst = dst ∧ m.waits = false ∧
          m.slots = (((s.inOrder (scPot d dies src) ((s.pot (scPot d dies src)).recs.filter (fun r =>
            s.movable (scPot d dies src) r.2 && s.placeable r.2.ctx (scPot d dies dst)))).reverse.take
              (Nat.min (scField x.sccfg 16 8) (gap.toNat / 2))).map (fun r => r.2.order))))) ∧
    (∀ m o rest n r, (s.die d).migr.find? (fun m => m.dies = false) = some m → m.slots = o :: rest → s.stopped = false →
      (s.pot (scPot d false m.src)).recs.find? (fun r => r.2.order = o) = some (n, r) → s.movable (scPot d false m.src) r = true →
      ((s.transfer (scPot d false m.src) n (scPot d false m.dst)).pot (scPot d false m.src)).recs.find n = none →
      (s.die d).moved.toNat < 2 ^ 32 - 1 → ∃ t, exec (.migration d false) s = .next t ∧ (t.die d).moved = (s.die d).moved + 1 ∧
        t.pots = (s.transfer (scPot d false m.src) n (scPot d false m.dst)).pots) ∧
    (∀ e a, s.stopped = false → (s.die d).arms.find e = some a → a.due s.tb = true → (∀ k < 4, ∀ x ∈ (s.die k).arms, x.2.due s.tb = true →
        a.arg < x.2.arg ∨ (a.arg = x.2.arg ∧ a.order ≤ x.2.order)) →
      (a.period = 0 → exec (.armTimeFire d e) s = .next (s.fireArm d e a a.img)) ∧
      (a.period ≠ 0 → s.tb < a.arg.toNat + a.period.toNat → a.waiting = none → exec (.armTimeFire d e) s = .next
        ((s.missArm d 0).fireArm d e { a with arg := BitVec.ofNat 64 (a.arg.toNat + a.period.toNat) } a.img))) ∧
    (s.stopped = false → ∀ ctx (tag : BitVec 32) (v : BitVec 64),
      ((∀ x < 4, ∀ a ∈ (s.die x).arms, ¬ (a.2.isTag = true ∧ a.2.ctx = ctx ∧ a.2.arg = tag.setWidth 64)) →
        (s.die 0).nomatch_.toNat < 65535 → ∃ t, exec (.armTagFire ctx tag v) s = .next t ∧
          (t.die 0).nomatch_ = (s.die 0).nomatch_ + 1 ∧ t.inserts = s.inserts) ∧
      (∀ e a, (s.die 0).arms = [(e, a)] → a.isTag = true → a.ctx = ctx → a.arg = tag.setWidth 64 →
        (a.waiting = none → exec (.armTagFire ctx tag v) s = .next (s.fireArm 0 e a { a.img with
          words := [v.setWidth 32, v.extractLsb' 32 32] ++ a.img.words.drop 2 })) ∧
        (a.waiting.isSome = true → a.persist = true → a.backlog.length < 64 → ∃ t b, exec (.armTagFire ctx tag v) s = .next t ∧
          (t.die 0).arms.find e = some b ∧ b.backlog = a.backlog ++ [v])))

/-- PREEMPT_REQUEST, QUANTUM_EXPIRY, BUDGET_EXPIRY, DEBUG_HOLD, CORE_IMAGE_SAVE, RESTORE and the ownership passes do what R310 to
R318, R325, R355 and R375 state (R310, R311, R312, R315, R318, R325, R355, R356, R375). Model's choices: log row 90 (DEDUCED),
PREEMPT_REQUEST of kind 3 is always allowed; row 91 (DESIGN CHOICE), what images hold and where they stand; row 129 (DEDUCED),
which context waits for a core and is served next. -/
def Obligations.PreemptionEvents : Prop :=
  ∀ (s : State) (core x slot : Nat) (b : Block), core < 256 →
    let c := s.core core
    let stops := fun (i : Instr) (k : Nat) => ∃ t b', exec i s = .next t ∧ (t.core core).preempt = some k ∧
      t.block core slot = some b' ∧ b'.treat = .save ∧ b'.pkind = k ∧ t.mem = s.mem
    (c.ctx = some x → c.blocks = [(slot, b)] → b.idem = false →
      (c.preempt = none → stops (.preemptRequest core 3) 3 ∧
        (s.suspst = 1 → stops (.preemptRequest core 2) 2) ∧
        ((∀ n < 256, n ≠ core → (s.core n).ctx ≠ some x) → stops (.debugHold core) 3) ∧
        (∀ y, budgetOf ((s.ctxOf b.stream.ctx).prcfgAt s.cycles) = 0 → c.since + 1000 * (s.ctxOf x).quantum ≤ s.tb →
          s.firstUrgent (core / 64) x = none → s.nextServed core x = some y → stops (.quantumExpiry core) 0) ∧
        (c.since + 1000 * (s.ctxOf x).quantum ≤ s.tb → s.firstUrgent (core / 64) x = none → s.nextServed core x = none →
          ∃ t, exec (.quantumExpiry core) s = .next t ∧ (t.core core).since = s.tb ∧ (t.core core).blocks = c.blocks)) ∧
      (b.treat = .drain → (∃ d ∈ b.deadline, d ≤ s.tb) → ∃ t b', exec (.budgetExpiry core slot) s = .next t ∧
        t.block core slot = some b' ∧ b'.treat = .save)) ∧
    (let s1 := s.finishFlush core
     let t1 := s1.updCtx x (fun y => { y with prgen := y.prgen + 1 })
     ∀ u, (s1.core core).preempt.isSome = true → (s1.core core).ctx = some x → s1.coreTreated core = true →
      t1.writeImage x (core % 64) (t1.coreSections core) (.core core (s1.limboFor core))
        (t1.poisonIn (coreKey core 0) Config.scratchBytes) = some u →
      ∃ t, exec (.coreImageSave core) s = .next t ∧ (t.core core).blocks = [] ∧ (t.core core).gangs = [] ∧
        (t.core core).ctx = none ∧ (t.core core).preempt = none ∧ t.images.length = s1.images.length + 1) ∧
    (∀ (i : SavedImg) (cl : Nat) (bars : List (Nat × Barrier)), s.images.find? (fun j => j.id = i.id) = some i →
      i.what = .cluster cl bars → (s.ctxOf i.ctx).st = .live → s.suspst = 0 → s.clusterOwner cl = none →
      (∀ j ∈ s.images, ∀ d l, j.what ≠ .die d l) → s.badPages i = [] →
      ∃ t, exec (.restore i.id core) s = .next t ∧ t.clusterOwner cl = some i.ctx ∧ (∀ j ∈ t.images, j.id ≠ i.id) ∧
        ∀ k, k < (s.sectionBytes i 7 0).length → t.mem.get (clusterKey cl 0 + k) = (s.sectionBytes i 7 0).getD k 0) ∧
    (∀ (cl o : Nat) (u : State), cl < 32 → s.clusterOwner cl = some o → s.suspst = 1 →
      (∀ n ∈ coresOf cl, (s.core n).blocks = []) → s.copies = [] →
      (let p := s.takeBars (fun k => match k with
          | .cluster n i => if n = cl then some i else none
          | _ => none)
       p.2.writeImage o (0x8000 + 8 * (cl % 8))
        [⟨7, 0, 0, 2048, some (s.mem.read (clusterKey cl 0) Config.clusterBytes)⟩, ⟨8, 0, 0, 4, none⟩] (.cluster cl p.1)
        (s.poisonIn (clusterKey cl 0) Config.clusterBytes)) = some u →
      ∃ t, exec (.clusterOwnershipPass cl) s = .next t ∧ t.clusterOwner cl = none ∧ t.images.length = s.images.length + 1) ∧
    (∀ (d o : Nat) (u : State), d < 4 → (s.die d).owner = some o → s.suspst = 1 →
      (∀ n ∈ dieCores d, (s.core n).blocks = []) → (∀ k < 8, s.clusterOwner (8 * d + k) = none) → s.copies = [] →
      (let p := s.takeBars (fun k => match k with
          | .die n i => if n = d then some i else none
          | _ => none)
       p.2.writeImage o 0xC000 [⟨9, 0, 0, 16384, some (s.mem.read (dieKey d 0) Config.dieBytes)⟩, ⟨10, 0, 0, 8, none⟩] (.die d p.1)
        (s.poisonIn (dieKey d 0) Config.dieBytes)) = some u →
      ∃ t, exec (.dieOwnershipPass d) s = .next t ∧ (t.die d).owner = none ∧ t.images.length = s.images.length + 1)

/-- REMOTE_REQUEST, responses, their timeouts and resends, REMOTE_INSERT, REMOTE_JOIN, FXREVOKE and MESSAGE_RELAY do what R435 to
R459 state (R435, R436, R441, R442, R448, R449, R450, R451, R459). Model's choices: log row 81 (DESIGN CHOICE), the fields of
Msg that carry an insert, a JOIN and their answers; row 113 (DEDUCED), an insert and a JOIN end as NOPEER only where no path
to their peer is left; row 82 (DEDUCED), only STATUS 1 to 5 count as refusals; row 142 (DEDUCED), INFO of a refused request is
the cause it raises at its requester, and 0 for BADMSG. -/
def Obligations.RemoteEvents : Prop :=
  ∀ (s : State) (m : Msg),
    let s1 := s.takeSent m
    let answers := fun (o : Host.Outcome State Fault Refusal) (st : Nat) (data : List Byte) (mem : Memory) =>
      ∃ t r, o = .next t ∧ r ∈ t.outbox ∧ r.op = 11 ∧ r.dest = m.src ∧ r.tid = m.tid ∧ r.status = st ∧ r.data = data ∧ t.mem = mem
    (m.dest = s.fabid.toNat → s.stopped = false → m.rsv = false → s.suspst = 0 →
      (∀ x r, 1 ≤ m.op → m.op ≤ 5 → s1.checkReq m = .inr x → s1.serve m x.ctx x.base = .ok r →
        answers (exec (.remoteRequest m) s) 0 r.2 r.1.mem) ∧
      (∀ st ctx, 1 ≤ m.op → m.op ≤ 6 → ((s1.checkReq m = .inl st ∧ ctx = (s.exportOf m.eidx).ctx ∧ st ≠ 8) ∨
          (m.op ≠ 6 ∧ ∃ x, s1.checkReq m = .inr x ∧ ctx = x.ctx ∧ s1.serve m x.ctx x.base = .bad st)) →
        answers (exec (.remoteRequest m) s) st [] s.mem ∧ ∃ t, exec (.remoteRequest m) s = .next t ∧
          t.refused.toNat = Nat.min (2 ^ 32 - 1) (s.refused.toNat + 1) ∧
          (s.pelog.length < 256 → t.pelog = s.pelog ++ [⟨m.offset, ctx, 14, 1, statusCause st, BitVec.ofNat 64 s.tb⟩])) ∧
      (1 ≤ m.op → m.op ≤ 5 → s1.checkReq m = .inl 8 → answers (exec (.remoteRequest m) s) 8 [] s.mem ∧
        ∃ t, exec (.remoteRequest m) s = .next t ∧ t.refused = s.refused ∧
          (s.pelog.length < 256 → t.pelog = s.pelog ++ [⟨0, 0, 14, 11, 0, BitVec.ofNat 64 s.tb⟩])) ∧
      (∀ x, 1 ≤ m.op → m.op ≤ 5 → s1.checkReq m = .inr x → s1.serve m x.ctx x.base = .wait → ∃ t, exec (.remoteRequest m) s = .next t ∧
        t.held = s.held ++ [{ id := s.nextId, msg := m, ctx := x.ctx, base := x.base }] ∧ t.outbox = s1.outbox ∧ t.mem = s.mem) ∧
      (∀ x, m.op = 6 → s1.checkReq m = .inr x → ∃ t r, exec (.remoteRequest m) s = .next t ∧ r ∈ t.outbox ∧ r.op = 11 ∧
        r.dest = m.src ∧ r.tid = m.tid ∧ r.status = 0 ∧
        let y := s1.tagMessage x.ctx (BitVec.ofNat 32 (ofBytes ((m.data.drop 8).take 4))) (BitVec.ofNat 64 (ofBytes (m.data.take 8)))
        r.data = [if y.2 then 0 else 1] ∧ t.dies = y.1.dies ∧ t.inserts = y.1.inserts) ∧
      (∀ r, m.op = 11 → s1.reqs.find? (fun r => r.tid = m.tid) = some r →
        exec (.remoteResponse m) s = .next (s1.answerReq r m) ∧
        (m.status = 6 → ∃ t, exec (.remoteResponse m) s = .next t ∧ t.inserts = s.inserts ∧ t.copies = s.copies ∧ t.cores = s.cores ∧
          t.reqs = s.reqs.map (fun x => if x.tid = r.tid then { x with retry := true } else x))) ∧
      (∀ i, m.op = 7 → i = Image.ofBytes (takePad m.data 64 0) → (s.ctxOf m.eidx).st = .live →
        s1.imageBad 36 [4] i (countOf m.data) = false → ∃ p : PendIns, p.src = .remote m.src m.tid ∧ p.img = some i ∧ p.pot = 36 ∧
          p.ctx = m.eidx ∧ p.id = s.nextId ∧
          (let t := ({ s1 with nextId := s1.nextId + 1, inserts := s1.inserts ++ [p] } : State).attemptInsert p
           t.remoteWaiting ≤ 256 → exec (.remoteInsert m) s = .next t)) ∧
      (∀ e, m.op = 8 → s1.groupOver 36 m.eidx (bitsAt m.offset 0 12) = some e →
        answers (exec (.remoteJoin m) s) 0 (bytesOf (joinStatus (if e = 0 then 0 else 9) e).toNat 8) s.mem)) ∧
    (∀ tid r, s.reqs.find? (fun r => r.tid = tid) = some r →
      (r.retry = false → (∀ n, r.owner ≠ .partial_ n) →
        (s.hasPath r.msg.dest = false ∨ (∃ a b c, r.owner = .log a b c) ∨ ∃ a b, r.owner = .copy a b) → r.sentAt + 1000000 * s.rtime.toNat ≤ s.tb →
        exec (.responseTimeout tid) s = .next (s.answerReq r { r.msg with op := 11, status := 7 })) ∧
      (r.retry = true → s.stopped = false → s.hasPath r.msg.dest = true →
        let again := fun (o : Host.Outcome State Fault Refusal) => ∃ t q, o = .next t ∧
          t.reqs = s.reqs.map (fun x => if x.tid = r.tid then { x with retry := s.asleep r.msg.dest, sentAt := s.tb } else x) ∧
          (s.asleep r.msg.dest = true → t.outbox = s.outbox) ∧ (s.asleep r.msg.dest = false →
            t.outbox = s.outbox ++ [q] ∧ q.dest = r.msg.dest ∧ q.tid = r.msg.tid ∧ q.op = r.msg.op ∧ q.data = r.msg.data)
        (r.sentAt + 1000000 ≤ s.tb → again (exec (.retryResend tid) s)) ∧
        (∀ id, r.owner = .insert id → r.sentAt + 1000 ≤ s.tb → again (exec (.remoteInsertResend tid) s)))) ∧
    (∀ e, s.fxBusy = some e → (∀ h ∈ s.held, h.msg.eidx ≠ e) → exec (.fxrevoke e) s = .next { s with fxBusy := none }) ∧
    (m.dest ≠ s.fabid.toNat → s.stopped = false → m.nonMin = false → s.minOk m.dest = true → 9 < m.op →
      ∃ t, exec (.messageRelay m) s = .next t ∧ t.outbox = s.outbox ++ [{ m with hops := m.hops + 1 }] ∧ t.mem = s.mem)

/-- REDUCTION_PARTIAL and REDUCTION_RESULT do what R455 and R456 state (R455, R456). Model's choices: log row 81 (DESIGN CHOICE),
the fields of Msg that carry the key, the words, the operator and the count; row 146 (DEDUCED), under COUNT the words of a
root count the partials whose word is not zero; row 172 (DEDUCED), a partial is known by its sender and transaction number
while its root record stands. -/
def Obligations.PodReductionEvents : Prop :=
  ∀ (s : State) (m : Msg), m.dest = s.fabid.toNat → s.stopped = false → m.rsv = false → s.suspst = 0 →
    let i := redImage m.offset (BitVec.ofNat 64 (ofBytes (m.data.take 8))) m.aop (ofBytes ((m.data.drop 8).take 4) % 4096) 4 rootMark
    (m.op = 9 → (∃ r ∈ (s.pot 36).recs, (m.src, m.tid) ∈ r.2.from_) → ∃ t a, exec (.reductionPartial m) s = .next t ∧ t.pots = s.pots ∧
      a ∈ t.outbox ∧ a.op = 11 ∧ a.dest = m.src ∧ a.tid = m.tid ∧ a.status = 0) ∧
    (∀ n r, m.op = 9 → (∀ r ∈ (s.pot 36).recs, (m.src, m.tid) ∉ r.2.from_) →
      (s.pot 36).recs.find? (fun r => r.2.same m.eidx i && r.2.sealed.isNone) = some (n, r) →
      (s.pot 36).recs.find n = some r → ∃ t q a, exec (.reductionPartial m) s = .next t ∧ (t.pot 36).recs.find n = some q ∧
        q.count = r.count + m.count ∧ q.img = r.img.combine i ∧ q.from_ = r.from_ ++ [(m.src, m.tid)] ∧
        (ofBytes ((m.data.drop 8).take 4) ≤ q.count → q.result.isSome = true) ∧
        a ∈ t.outbox ∧ a.op = 11 ∧ a.dest = m.src ∧ a.tid = m.tid ∧ a.status = 0) ∧
    (∀ n r k, m.op = 10 → (s.pot 36).recs.find? (fun r => r.2.flushed = some m.tid && r.2.result.isNone) = some (n, r) →
      (s.pot 36).recs.find n = some r → r.podN = some k → ∃ t q, exec (.reductionResult m) s = .next t ∧
        t.reqs = s.reqs.filter (fun r => r.tid ≠ m.tid) ∧
        (t.pot 36).recs.find n = some q ∧ q.result = some ([BitVec.ofNat 32 (ofBytes (m.data.take 4)),
          BitVec.ofNat 32 (ofBytes ((m.data.drop 4).take 4))], if k = m.count then 0 else 6, m.count))

/-- PORT_ENABLE, PORT_DISABLE, DETECT, LINK_UP, TRAINING_TIMEOUT, RETRAIN and FABID_WRITE do what R431 to R435 state (R427, R431,
R432, R433, R434). Model's choice: log row 141 (DEDUCED), a link that comes up through FALLBACK has one lane at 100 Gb/s
whatever the event gives, and the digest that has to agree is that of the own view so replaced. -/
def Obligations.LinkEvents : Prop :=
  ∀ (s : State) (n : Nat), n < 36 →
    let p := s.link n
    let gives := fun (o : Host.Outcome State Fault Refusal) (f : Port → Prop) => ∃ t, o = .next t ∧ f (t.link n) ∧ t.mem = s.mem
    (p.en = false → gives (exec (.portEnable n) s) (fun q => q = { p with
      en := true, fails := 0, reason := 0, st := if s.fabid = 0x7FF then 0 else 1, since := s.tb, fell := false })) ∧
    gives (exec (.portDisable n) s) (fun q => q = { p with en := false, st := 0, reason := 4 }) ∧
    (∀ found, p.st = 1 → p.since + 10000000 ≤ s.tb → gives (exec (.detect n found) s) (fun q =>
      q = { p with st := if found then 2 else 1, since := s.tb })) ∧
    (∀ v : LinkView, (p.st = 2 ∨ p.st = 5) → s.tb < p.since + 100000000 →
      (v.peer = s.fabid.toNat → gives (exec (.linkUp n v) s) (fun q => q.st = 6 ∧ q.reason = 3)) ∧
      (v.peer ≠ s.fabid.toNat → (neighbours s.fabid.toNat v.peer = false ∨ 1056 < v.peer) →
        gives (exec (.linkUp n v) s) (fun q => q.st = 6 ∧ q.reason = 2)) ∧
      (v.peer ≠ s.fabid.toNat → neighbours s.fabid.toNat v.peer = true → v.peer ≤ 1056 →
        let w := if p.st = 5 then { v with width := 0, fast := false } else v
        linkDigest s.fabid.toNat w = v.peerDigest →
        gives (exec (.linkUp n v) s) (fun q => q.st = 4 ∧ q.fails = 0 ∧ q.peer = v.peer ∧ q.width = w.width ∧ q.speed = w.fast))) ∧
    ((p.st = 2 ∨ p.st = 5) → p.since + 100000000 ≤ s.tb →
      (p.fails < 2 → gives (exec (.trainingTimeout n) s) (fun q => q.st = 5 ∧ q.fails = p.fails + 1)) ∧
      (2 ≤ p.fails → gives (exec (.trainingTimeout n) s) (fun q => q.st = 6 ∧ q.reason = 1))) ∧
    (p.st = 4 → p.retrains.toNat < 2 ^ 32 - 1 → gives (exec (.retrain n) s) (fun q => q.st = 2 ∧ q.retrains = p.retrains + 1)) ∧
    (∀ v : BitVec 64, p.en = true → p.st = 0 → v.setWidth 11 ≠ (0x7FF : BitVec 11) →
      gives (exec (.fabidWrite v) s) (fun q => q.st = 1 ∧ q.since = s.tb) ∧
      ∃ t, exec (.fabidWrite v) s = .next t ∧ t.fabid = v.setWidth 11)

/-- The packets of a queue and what the host does to queues do what R412 to R420 state (R412, R414, R415, R416, R417, R419, R420).
Model's choice: log row 88 (DEDUCED), what a packet is checked for. -/
def Obligations.QueueEvents : Prop :=
  ∀ (s : State) (q : Nat), q < 1024 →
    let x := s.queue q
    ((x.ver = 1 ∨ x.ver = 2) → 4 ≤ x.qsize → x.qsize ≤ 16 → 4 ≤ x.crsize → x.crsize ≤ 20 → (s.ctxOf x.ctx).st = .live → s.recovery = false →
      ∃ t, exec (.queueEnable q) s = .next t ∧ t.queue q = { x with en := true } ∧ t.mem = s.mem) ∧
    (x.en = true → s.suspst = 0 → ∀ i, (i = Instr.doorbell q ∨ i = Instr.wiPoll q) → ∃ t, exec i s = .next t ∧
      t.queue q = { x with wi := BitVec.ofNat 64 (s.sysWord (8 * bitsAt x.qwi 3 49)) } ∧ t.mem = s.mem) ∧
    (∀ t p, p.status = none →
      (s.accept q (fun k => k = 1) = some (t, p) → ∃ u i, exec (.packetLaunch q) s = .next u ∧ u.inserts = t.inserts ++ [i] ∧
        i.src = .packet p.seq ∧ i.pot = 36 ∧ i.ctx = p.ctx ∧ i.addr = p.word 1 ∧ u.queues = t.queues) ∧
      (s.accept q (fun k => k = 2) = some (t, p) → 0 < (p.word 3).toNat → (p.word 3).toNat % 16 = 0 → bitsAt (p.word 0) 20 2 = 0 →
        (p.word 1).toNat + (p.word 3).toNat ≤ 2 ^ 57 → (p.word 2).toNat + (p.word 3).toNat ≤ 2 ^ 57 →
        (∀ c ∈ t.copies, c.id ≠ t.nextId) → ∃ u c, exec (.packetCopy q) s = .next u ∧ c ∈ u.copies ∧ c.packet = some p.seq ∧
          c.src = .virt p.ctx 0 (p.word 2).toNat ∧ c.dsts = [.virt p.ctx 0 (p.word 1).toNat] ∧ c.width = (p.word 3).toNat ∧ c.rows = 1) ∧
      (s.accept q (fun k => k = 3) = some (t, p) → ∃ u a, exec (.packetArm q) s = .next u ∧ u.pendArms = t.pendArms ++ [a] ∧
        a.packet = some p.seq ∧ a.die = 0 ∧ a.ctx = p.ctx ∧ a.addr = p.word 1 ∧ a.arm.arg = p.word 2) ∧
      (s.accept q (fun k => k = 4) = some (t, p) → exec (.packetSignal q) s = .next (t.performSignal p.seq)) ∧
      (s.accept q (fun k => k = 5) = some (t, p) → exec (.packetFence q) s = .next (t.testFence q)) ∧
      (s.accept q (fun k => k = 15 || 5 < k) = some (t, p) → exec (.packetSkip q) s = .next (t.packetDone p.seq 0 0 0))) ∧
    (∀ suits, s.mayAccept q = true → x.kindOf (s.sysRead x.slotAddr x.slotBytes) ≠ 0 →
      suits (x.kindOf (s.sysRead x.slotAddr x.slotBytes)) = true → ∃ t p, s.accept q suits = some (t, p) ∧ p.seq = s.jwr.toNat ∧
        p.q = q ∧ p.ctx = x.ctx ∧ t.jwr = s.jwr + 1 ∧ t.packets = s.packets ++ [p] ∧ (t.queue q).ri = x.ri + 1) ∧
    (∀ p st, s.packet p.seq = some p → p.status = some st → s.stopped = false → ∃ t, exec (.completionRecord p.seq) s = .next t ∧
      t.packet p.seq = none ∧
      let y := s.queue p.q
      let ring := 4096 * bitsAt y.crbase 12 40 + 32 * (p.seq % 2 ^ y.crsize)
      let entry := 4096 * bitsAt s.jbase 12 40 + 32 * (p.seq % 2 ^ s.jsize)
      t.msi = (if p.crq = true ∧ y.msiv.testBit 15 = true then s.msi ++ [y.msiv % 2 ^ 15] else s.msi) ∧
      (memoryCanonical s → p.crq = true → ring + 32 ≤ Config.packageBytes → t.pkgRead 0 ring 32 =
        bytesOf p.seq 8 ++ bytesOf (if p.kind = 2 then p.done else 0) 8 ++ bytesOf st 1 ++ bytesOf p.cause 1 ++ bytesOf p.q 2 ++
          bytesOf p.tag 4 ++ bytesOf p.addr.toNat 8) ∧
      (memoryCanonical s → p.crq = false → entry + 32 ≤ Config.packageBytes →
        t.pkgRead 0 (entry + 10) 2 = [2, BitVec.ofNat 8 st])) ∧
    (∀ v : BitVec 64, exec (.jrdWrite v) s = .next { s with jrd := v } ∧
      (∀ ctx, ctx < 2048 → (s.ctxOf ctx).st ≠ .free → v ≤ (s.ctxOf ctx).frwi → s.unreported ctx = [] →
        exec (.frrdWrite ctx v) s = .next (s.updCtx ctx (fun c => { c with frrd := v }))))

/-- CREATE, DESTROY, RESET, REVOKE, SWITCH, SUSPEND, RESUME, their pod forms and SYSTEM_MESSAGE do what R393, R408, R425 and R426
state (R408, R425, R426, R437, R438). Model's choices: log row 94 (DEDUCED), SUSPEND in state 1 ends once drained and RESUME
in state 3 ends with no suspended image left; row 93 (DEDUCED), REVOKE faults a live context, and BUSY stands for a SWITCH
until no core that it pre-empts is still being pre-empted. -/
def Obligations.ContextCommands : Prop :=
  ∀ (s : State) (n : Nat), n < 2048 →
    let c := s.ctxOf n
    (s.ctxBusy = true → ∀ i, (i = Instr.create n ∨ i = Instr.destroy n ∨ i = Instr.reset n ∨ i = Instr.revoke n ∨ i = Instr.switch n) →
      exec i s = .next s) ∧
    (s.ctxBusy = false → (∀ d, c.st = .free → s.descriptor n s.nextKey = some d → ∃ t, exec (.create n) s = .next t ∧ t.ctxOf n = d ∧ d.st = .live ∧
      d.key = s.nextKey ∧ t.nextKey = s.nextKey + 1 ∧ t.ctxErr = false ∧ t.mem = s.mem) ∧
    ((c.st ≠ .free ∨ s.descriptor n s.nextKey = none) → exec (.create n) s = .next { s with ctxErr := true }) ∧
    (c.st = .free → ∀ i, (i = Instr.destroy n ∨ i = Instr.reset n ∨ i = Instr.revoke n ∨ i = Instr.switch n) →
      exec i s = .next { s with ctxErr := true }) ∧
    (c.st ≠ .free → (∃ t, exec (.destroy n) s = .next t ∧ (t.ctxOf n).st = .free ∧ t.ctxErr = false) ∧
      (∀ d, (s.eraseCtx n true).descriptor n (s.eraseCtx n true).nextKey = some d → ∃ t, exec (.reset n) s = .next t ∧ t.ctxOf n = d) ∧
      (∃ t, exec (.revoke n) s = .next t ∧ (t.ctxOf n).revoked = true ∧ (t.ctxOf n).st = .faulted) ∧
      (let t := s.holdContext n
       exec (.switch n) s = .next { t with
         ctxErr := false
         cores := t.cores.map (fun k => (k.1, { k.2 with
           switched := k.2.switched || (k.2.ctx = some n && k.2.preempt.isSome) })) }))) ∧
    (∀ m b, m.op = 12 → m.dest = s.fabid.toNat → m.rsv = true → s.stopped = false → ∃ t r, exec (.systemMessage ⟨m, b⟩) s = .next t ∧
      r ∈ t.outbox ∧ r.op = 11 ∧ r.dest = m.src ∧ r.tid = m.tid ∧ r.status = 8 ∧ r.rsv = false ∧ t.mem = s.mem) ∧
    (∀ m i, m.op = 12 → m.dest = s.fabid.toNat → m.rsv = false →
      (i = Instr.suspend ∨ i = Instr.podSuspend ∨ i = Instr.systemMessage ⟨m, .suspend⟩) →
      (s.suspst = 1 → s.drained = true → ∃ t, exec i s = .next t ∧ t.suspst = 2 ∧ t.stopped = true ∧ t.power = 3 ∧
        t.images.length = s.images.length + 1) ∧
      (s.suspst = 0 → (∀ k < 256, (s.core k).blocks = []) → ∃ t, exec i s = .next t ∧ t.suspst = 1 ∧ t.mem = s.mem)) ∧
    (∀ m i, m.op = 12 → m.dest = s.fabid.toNat → m.rsv = false →
      (i = Instr.resume ∨ i = Instr.podResume ∨ i = Instr.systemMessage ⟨m, .resume⟩) →
      (∀ p, s.suspst = 2 → s.images.find? (fun i => i.ctx = 0xFFFF) = some p → s.badPages p = [] →
        ∃ t, exec i s = .next t ∧ t.suspst = 3 ∧ t.stopped = false ∧ t.power = (if s.clockStep = 0 then 0 else 1) ∧ t.mem = s.mem) ∧
      (s.suspst = 3 → (∀ i ∈ s.images, i.suspended = false) → exec i s = .next { s with suspst := 0 })) ∧
    (∀ m d minok direct mid ports, m.op = 12 → m.dest = s.fabid.toNat → m.rsv = false → d ≤ 1056 → s.stopped = false → ∃ t,
      exec (.systemMessage ⟨m, .route d minok direct mid ports⟩) s = .next t ∧ t.minOk d = minok)

/-- The host link, memory errors, power, boot and the time base do what R188, R393, R406, R421, R423 and R424 state (R188, R393,
R404, R406, R410, R421, R423, R424). Model's choices: log row 98 (DEDUCED), what a read answers, and SRC 10 and KIND 1 of a
write into the reserved region; row 111 (DEDUCED), a narrower write of a host register; row 95 (DEDUCED), OFFSET is the
reference less the time base; row 130 (PRESUMED), the PTP domain and which port gives the offset; row 133 (DEDUCED), host
access in recovery; rows 100 and 138 (DEDUCED), what a package reset keeps and what leaves S2. -/
def Obligations.PackageEvents : Prop :=
  ∀ (s : State), memoryCanonical s →
    (s.stopped = false → (s.recovery = false ∨ s.linkMode = 2) →
      (∀ a n, a + n ≤ Config.reservedBase → s.poisoned a n = false →
        exec (.hostMemoryAccess (.read a n)) s = .next { s with answers := s.answers ++ [0 :: s.sysRead a n] }) ∧
      (∀ a bs, a + bs.length ≤ Config.reservedBase → (∀ l, (s.lineKey.find l = none ∨ s.lineKey.find l = some 0)) →
        ∃ t, exec (.hostMemoryAccess (.write a bs)) s = .next t ∧ (∀ i, i < bs.length → t.mem.get (a + i) = bs.getD i 0) ∧
          (∀ x, x < a ∨ a + bs.length ≤ x → t.mem.get x = s.mem.get x)) ∧
      (∀ a bs, Config.reservedBase < a + bs.length → exec (.hostMemoryAccess (.write a bs)) s = .next (
        if s.pelog.length < 256 then { s with pelog := s.pelog ++ [⟨BitVec.ofNat 64 a, 0, 10, 1, 0, BitVec.ofNat 64 s.tb⟩] }
        else { s with pelOvf := BitVec.ofNat 16 (Nat.min 65535 (s.pelOvf.toNat + 1)) })) ∧
      (∀ a (v : BitVec 64), a + 8 ≤ Config.reservedBase → s.poisoned a 8 = false → (∀ l, (s.lineKey.find l = none ∨ s.lineKey.find l = some 0)) →
        ∃ t, exec (.hostMemoryAccess (.fetchAdd a v)) s = .next t ∧ t.answers = s.answers ++ [0 :: s.sysRead a 8] ∧
          (∀ i, i < 8 → t.mem.get (a + i) = BitVec.ofNat 8 ((s.sysWord a + v.toNat) % 2 ^ 64 / 256 ^ i)) ∧
          (∀ x, x < a ∨ a + 8 ≤ x → t.mem.get x = s.mem.get x))) ∧
    (∀ k, isMemory k = true → ∃ t, exec (.uncorrectableError (.cell k)) s = .next t ∧ t.mem = s.mem ∧ k / 64 ∈ t.poison) ∧
    (∀ core tile row, core < 256 → tile < 8 → row < 64 → ∃ t, exec (.uncorrectableError (.tileRow core tile row)) s = .next t ∧
      t.mem = s.mem ∧ 64 * tile + row ∈ (t.core core).zpoison) ∧
    (∀ st n, st < 12 → (s.ecccor.get st 0).toNat + n < 2 ^ 32 → ∃ t, exec (.scrub st n) s = .next t ∧
      (t.ecccor.get st 0).toNat = (s.ecccor.get st 0).toNat + n ∧ t.mem = s.mem) ∧
    (s.power < 2 → exec (.railAlarm true) s = .next { s with clockStep := s.clockStep + 1, power := 1 } ∧
      (s.clockStep = 1 → exec (.railAlarm false) s = .next { s with clockStep := 0, power := 0 }) ∧
      ((∀ n < 256, (s.core n).blocks = []) → exec .idleGating s = .next { s with power := 2 })) ∧
    (∀ boots, ∃ t, exec (.packageReset boots) s = .next t ∧
      t = { State.reset with
        measure := t.measure, recovery := !boots, suspst := (if boots then 0 else 4)
        agenda := s.agenda, nextKey := s.nextKey, draws := s.draws, nextId := s.nextId } ∧
      t.measure.length = 8 ∧ ∀ i < 8, t.measure.get i 0 = s.measure.get i 0 + 1) ∧
    (∀ code, ∃ t a, exec (.spdmRequest code) s = .next t ∧ t.answers = s.answers ++ [a] ∧ t.mem = s.mem) ∧
    (∀ mode width, mode ≤ 2 → width ∈ [16, 8, 4] →
      exec (.hostLinkTraining mode width) s = .next { s with linkMode := mode, linkWidth := width }) ∧
    (∀ v : BitVec 64, exec (.hostRegisterWrite 0x48 ⟨8, v⟩) s = .next { s with jrd := v } ∧
      ∃ t, exec (.hostRegisterWrite 0 ⟨8, v⟩) s = .next t ∧ t.ctxbase = v &&& 0x000FFFFFFFFFF000 ∧ t.mem = s.mem) ∧
    (∀ off w, w.len ≠ 8 → (off < 0x100000 ∨ 0x110000 ≤ off) → exec (.hostRegisterWrite off w) s = .next s) ∧
    (∀ t0 : BitVec 64, bitsAt s.tbcfg 0 2 = 2 → s.stopped = false → s.tb ≤ t0.toNat → t0.toNat ≤ s.tb + 1000 →
      ∃ t, exec (.precisionTimeMeasurement t0) s = .next t ∧ t.tbOffset = BitVec.ofNat 32 (t0.toNat - s.tb) ∧ t.tbLocked = true ∧
        t.tb = s.tb) ∧
    (∀ (m : Msg) (port domain : Nat) (off : Int), m.op = 12 → m.dest = s.fabid.toNat → m.rsv = false → s.inDomain domain = true → s.followsPort port = true → -1000 ≤ off → off ≤ 1000 →
      ∃ t, exec (.systemMessage ⟨m, .ptp port domain off⟩) s = .next t ∧ t.tbOffset = BitVec.ofInt 32 off ∧ t.tbLocked = true ∧
        t.tb = s.tb)

/-- The operations of a host debug port, HCTL_CLR and LOGCTL_DROP do what R186, R285 and R477 state (R186, R264, R276, R285,
R477). Model's choice: log row 77 (DEDUCED), BADOP comes before NODBG; a word with fields that no debug instruction may have
is left out. -/
def Obligations.DebugPortEvents : Prop :=
  ∀ (s : State) (core : Nat),
    let p := (s.core core).port
    let ends := fun (o : Host.Outcome State Fault Refusal) (st : Nat) => ∃ t, o = .next t ∧ (t.core core).port.busy = false ∧
      (t.core core).port.dres.get 0 0 = fieldAt 56 st
    let ops := [(Instr.portDget core, 0x342), (.portDput core, 0x343), (.portDstep core, 0x344), (.portDrun core, 0x345),
      (.portDstat core, 0x346)]
    (p.busy = true → s.portSteps core = false →
      ((p.op < 0x342 ∨ 0x346 < p.op ∨ p.plain = false) → ends (exec (.portBadop core) s) 7) ∧
      (p.plain = true → (s.core core).ctx = none → ∀ x ∈ ops, p.op = x.2 → ends (exec x.1 s) 6) ∧
      (∀ n, p.plain = true → p.legal = true → (s.core core).ctx = some n → (s.ctxOf n).debug = true →
        ((s.core core).gangs.find p.dbg.gid = none → ∀ x ∈ ops, p.op = x.2 → (0x344 ≤ p.op → p.op ≤ 0x345 → bitAt p.dbg.imm 23 = false) →
          ends (exec x.1 s) 3) ∧
        (∀ u, (s.core core).gangs.find p.dbg.gid = some u →
          (p.op = 0x342 → ends (exec (.portDget core) s) (s.dget core none p.dbg).st ∧
            ∃ t, exec (.portDget core) s = .next t ∧ t.mem = s.mem ∧ ((s.dget core none p.dbg).st = 0 →
              (s.dget core none p.dbg).lanes = [] → (t.core core).port.dres.get 1 0 = (s.dget core none p.dbg).val)) ∧
          (p.op = 0x346 → ends (exec (.portDstat core) s) 0 ∧ ∃ t, exec (.portDstat core) s = .next t ∧ t.mem = s.mem ∧
            (t.core core).gangs = (s.core core).gangs ∧ (t.core core).port.dres.get 1 0 = (
              let item := (u.frag (bitsAt p.dbg.imm 0 4)).item
              if bitsAt p.dbg.imm 12 4 = 0 then (if bitAt p.dbg.imm 4 then item.extractLsb' 64 64 else item.setWidth 64)
              else if bitsAt p.dbg.imm 12 4 = 1 then (match u.haltPc.find (bitsAt p.dbg.imm 0 5) with
                | none => 0
                | some pc => fieldAt 63 1 ||| pc.setWidth 64)
              else u.gdbg)) ∧
          (p.op = 0x343 → p.dbg.cls = 1 → p.dbg.num ≠ 0 → u.sliceStopped p.dbg.slice = true →
            s.pending core p.dbg.gid u 1 p.dbg.num [p.dbg.slice] = false →
            ends (exec (.portDput core) s) 0 ∧ ∃ t v, exec (.portDput core) s = .next t ∧
              (t.core core).gangs.find p.dbg.gid = some v ∧ v.rdS p.dbg.num p.dbg.slice = p.darg.get 0 0) ∧
          (p.op = 0x345 → bitAt p.dbg.imm 21 = false → bitAt p.dbg.imm 22 = false → bitAt p.dbg.imm 23 = false →
            bitsAt p.dbg.imm 16 5 < 8 → (u.frag (bitsAt p.dbg.imm 16 5)).st = .halted → ends (exec (.portDrun core) s) 0 ∧
            ∃ t v, exec (.portDrun core) s = .next t ∧ t.mem = s.mem ∧ (t.core core).gangs.find p.dbg.gid = some v ∧
              (v.frag (bitsAt p.dbg.imm 16 5)).st = .eligible ∧ (v.frag (bitsAt p.dbg.imm 16 5)).stepsLeft = none ∧
              v.s = u.s ∧ v.v = u.v ∧ ∀ k, k ≠ bitsAt p.dbg.imm 16 5 → v.frag k = u.frag k) ∧
          (p.op = 0x344 → bitAt p.dbg.imm 21 = false → bitAt p.dbg.imm 22 = false → bitAt p.dbg.imm 23 = false →
            bitsAt p.dbg.imm 16 5 < 8 → (u.frag (bitsAt p.dbg.imm 16 5)).st = .halted →
            ∃ t v, exec (.portDstep core) s = .next t ∧ (t.core core).gangs.find p.dbg.gid = some v ∧
              (v.frag (bitsAt p.dbg.imm 16 5)).st = .eligible ∧
              (v.frag (bitsAt p.dbg.imm 16 5)).stepsLeft = some (bitsAt p.dbg.imm 0 16))))) ∧
    (∃ t, exec (.hctlClr core) s = .next t ∧ (t.core core).probe.histe = [] ∧ (t.core core).probe.histr = [] ∧ t.mem = s.mem) ∧
    (∀ g u, (s.core core).gangs.find g = some u → u.logFlt = true → ∃ t v, exec (.logctlDrop core g) s = .next t ∧
      (t.core core).gangs.find g = some v ∧ v.logDropped = true ∧ v.log = u.log)

/-- The words of the worked cases decode to the instructions that the spec says they spell (R41, R46, R54, R55, R78, R155, R176,
R203, R274, R444). -/
def Obligations.DecodeWords : Prop :=
  decode 0x0000145000C2000000000001 0 = .ok (.sadd ⟨false, 0⟩
    { sd := 5, sa := 5, sb := 0, cx := 0, ty := 3, aux := 0, i := true, rsv := 0, wid := 0, pos := 0, imm := 1 }) ∧
  decode 0x50E30A0B0C0D900000000000 0 = .ok (.vfma ⟨true, 3⟩
    { vd := 10, va := 11, vb := 12, vc := 13, ty := 9, aux := 0, rnd := 0, sat := false, i := false, sel := 0, imm := 0 }) ∧
  decode 0x308000E00000FFFFFFFFFFF1 0 = .ok (.brc ⟨false, 0⟩
    { sl := 0, cb := 3, inv := true, mt := 0, st := 0, q := 0, dim := 0, ind := false, rsv := 0, disp := 0x1FFFFFFFFFFE, slot := 1 }) ∧
  decode 0x60C014150016C90100000000 0 = .ok (.vquant ⟨false, 0⟩
    { vd := 20, va := 21, vb := 0, vc := 22, ty := 12, aux := 9, rnd := 0, sat := false, i := false, sel := 1, imm := 0 }) ∧
  decode 0x820008100080000000000000 0 = .ok (.ladle ⟨false, 0⟩
    { vt := 8, sb := 4, vi := 0, space := 1, q := 0, ty := 0, aop := 0, ord := 0, scope := 0, w := 0, x := false, rsv := 0, disp := 0 }) ∧
  decode 0x900014245686001C00000000 0 = .ok (.rld ⟨false, 0⟩
    { vt := 20, sb := 9, vi := 21, space := 5, q := 0, ty := 6, aop := 0, ord := 0, scope := 0, w := 3, x := true, rsv := 0, disp := 0 }) ∧
  decode 0xA140000C0000028100044000 0 = .ok (.copy ⟨false, 0⟩
    { zd := 0, za := 0, vx := 12, vy := 0, h := 0, ax := 0, ay := 0, sa := 10, sb := 1, ty := 0, bsel := 0, k := 0, b := 0, lfrom := 2, lto := 1, aux := 0, imm10 := 0 }) ∧
  decode 0xA00021001AA0000000010002 0 = .ok (.launchCore ⟨false, 0⟩
    { lvl := 1, se := 2, sk := 0, sp := 3, sd := 21, b := 0, cd := 0, op := 0, scope := 0, ord := 0, c := false, nb := false, ns := false, rsv := false, imm := 0x10002 }) ∧
  decode 0xC0C010000000039A90000800 0 = .ok (.trsm ⟨false, 0⟩
    { zd := 1, za := 0, vx := 0, vy := 0, h := 0, ax := 0, ay := 0, sa := 14, sb := 26, ty := 9, bsel := 0, k := 0, b := 0, lfrom := 0, lto := 0, aux := 2, imm10 := 0 }) ∧
  decode 0xD00001420000000000000000 0 = .ok (.svset ⟨false, 0⟩
    { sd := 0, sa := 20, sv := 2, vt := 0, gid := 0, q := 0, csr := 0, imm := 0 })

/-- Decoding the words of a well-formed instruction gives it back (R46, R48, R51, R53, R54, R55). -/
def Obligations.DecodeEncodeRoundTrip : Prop :=
  ∀ i : Instr, i.wf = true → i.form.isSome = true →
    ∃ w, (encode i = [w] ∧ ∀ x, decode w x = .ok i) ∨ (∃ x, encode i = [w, x] ∧ decode w x = .ok i)

/-- An accepted word is the word of the instruction it decodes to (R46, R51, R53, R54, R55). -/
def Obligations.EncodeDecodeRoundTrip : Prop :=
  ∀ (w x : IWord) (i : Instr), decode w x = .ok i →
    i.wf = true ∧ encode i = (if bitsAt w 86 10 = 0x010 then [w, x] else [w])

/-- Every instruction word has opcode, Y and guard in the places of R46, and the guard is invert bit and flag number (R46, R47). -/
def Obligations.WordHeader : Prop :=
  (∀ (i : Instr) (op : Nat) (h : Hdr) (b : Body), i.form = some (op, h, b) → ∃ w r, encode i = w :: r ∧
    bitsAt w 86 10 = op ∧ op = 0x40 * bitsAt w 92 4 + bitsAt w 86 6 ∧ bitAt w 85 = h.y ∧ bitsAt w 80 5 = h.g.toNat ∧
    w.extractLsb' 0 80 = b.word) ∧
  (∀ (w x : IWord) (op : Nat) (h : Hdr) (b : Body), (decodeRaw w x).form = some (op, h, b) →
    bitsAt w 86 10 = op ∧ bitAt w 85 = h.y ∧ bitsAt w 80 5 = h.g.toNat ∧ w.extractLsb' 0 80 = b.word) ∧
  (∀ (w : IWord) (who : Who) (u : Issuer) (cur : Cur) (j : Nat),
    j ∈ (Cx.of who u cur (Hdr.ofWord w).g).pass ↔
      (j ∈ (u.frag cur.entry).slices ∧ u.rdC (bitsAt w 80 4) j ≠ bitAt w 84))

/-- A step runs the decoded instruction, a pair, an event, or lets time pass (R41, R44, R45, R53, R61, R63). Model's choices: log
row 5 (DESIGN CHOICE), a step takes the head of State.agenda; row 134 (DEDUCED), every turn begins with State.refresh, which
gives the fragments their STATE. -/
def Obligations.StepRunsDecoded : Prop :=
  ∀ (s : State) (r : List Turn),
    let q := ({ s with agenda := r } : State).refresh
    (∀ w e u l, s.agenda = .issue w e :: r → ready q w e u l →
      let pc := (u.frag e).pc
      let k := slotOf pc
      let cur : Cur := { who := w, entry := e, pc := pc, at_ := pc, next := Pc.advance pc 1, role := .single, lads := none }
      (∀ i, (k < 4 → bitAt l.data (485 + k) = false) → decode (lineWord l.data k) (lineWord l.data (k + 1)) = .ok i →
        step s = exec i { q with
          ev := .none
          cur := some (if bitsAt (lineWord l.data k) 86 10 = 0x010 then { cur with next := Pc.advance pc 2 } else cur) }) ∧
      (∀ i j s1 s2, k < 4 → bitAt l.data (485 + k) = true → (k < 3 → bitAt l.data (486 + k) = false) →
        (0 < k → bitAt l.data (484 + k) = false) → decode (lineWord l.data k) 0 = .ok i → decode (lineWord l.data (k + 1)) 0 = .ok j →
        (Instr.opY i).1 ≠ 0x010 → (Instr.opY j).1 ≠ 0x010 → portOf (Instr.opY i).1 ≠ portOf (Instr.opY j).1 →
        mayBeFirst (Instr.opY i).1 = true → runsSecondFirst i j = false →
        exec i { q with ev := .none, cur := some { cur with next := Pc.advance pc 2, role := .first j } } = .next s1 →
        s1.ev = .issued →
        exec j { s1.swapWait w e with ev := .none, cur := some { cur with at_ := Pc.advance pc 1, next := Pc.advance pc 2, role := .second i, lads := s1.cur.bind Cur.lads } }
          = .next s2 → s2.ev = .issued → step s = .next s2)) ∧
    (∀ i, s.agenda = .event i :: r → step s = exec i { q with cur := none, ev := .none }) ∧
    (∀ c n, s.agenda = .pass c n :: r → step s = .next { q with cycles := s.cycles + c, tb := s.tb + n })

/-- When an instruction takes effect, and that under a false guard it has none (R47, R57, R60, R61, R62, R68). Model's choice: log
row 123 (DEDUCED), a transfer under a false guard goes on whatever its target. -/
def Obligations.EffectBegins : Prop :=
  ∀ (i : Instr) (op : Nat) (h : Hdr) (b : Body) (s : State) (cur : Cur) (u : Issuer),
    i.form = some (op, h, b) → s.cur = some cur → cur.role = .single → cur.lads = none → s.issuer cur.who = some u → h.y = false → op ≠ 0x0CB →
    decodeFault cur.who u (u.frag cur.entry) i = none →
    let f := u.frag cur.entry
    let v := if landsFixed op = true then u.landFixed f.slices f.isDbg else u
    v.ladles = [] →
    ((∃ j ∈ f.slices, v.rdC (bitsAt h.g 0 4) j ≠ bitAt h.g 4) → ∃ x, begun i h s = some x ∧ x.c = Cx.of cur.who v cur h.g ∧
      x.uses = [] ∧ x.evs = [] ∧ x.s.issuer cur.who = some v ∧ x.s.mem = s.mem) ∧
    ((∀ j ∈ f.slices, v.rdC (bitsAt h.g 0 4) j = bitAt h.g 4) → quiet s cur u → ∃ t u', exec i s = .next t ∧ t.ev = .issued ∧
      t.issuer cur.who = some u' ∧ (u'.frag cur.entry).pc = cur.next ∧ u'.s = u.s ∧ u'.c = u.c ∧ u'.m = u.m ∧ u'.v = u.v ∧
      u'.a = u.a ∧ u'.fstat = u.fstat ∧ u'.flights = [] ∧ u'.log = u.log ∧ specials u' = specials u ∧ t.mem = s.mem)

/-- ILLEGAL, LEVEL and REGS are precise: reserved opcodes and every other word that decoding refuses take the trap and nothing
else (R48, R55, R56, R57, R58, R59, R60). Model's choice: log row 122 (DESIGN CHOICE), TVAL is 0 for ILLEGAL, LEVEL and REGS.
An ILLEGAL transfer without Y, before which a bad target raises TARGET (R58), is left out. -/
def Obligations.DecodeFaultTraps : Prop :=
  ∀ (i : Instr) (s : State) (cur : Cur) (u : Issuer),
    (i.form.isSome = true ∨ ∃ w, i = .reservedOpcode w) → s.cur = some cur → s.issuer cur.who = some u → u.inh = false →
    u.tvec ≠ 0 → bitsAt u.tvec 57 7 = 0 → (u.frag cur.entry).held = [] → s.evs = [] →
    let f := u.frag cur.entry
    let traps := fun (n slot : Nat) => ∃ t v, exec i s = .next t ∧ t.issuer cur.who = some v ∧ v.tepc = cur.pc.setWidth 64 ∧
      bitsAt v.tcause 0 8 = n ∧ bitsAt v.tcause 8 3 = slot ∧ bitsAt v.tcause 32 16 = 0 ∧ v.inh = true ∧ v.tval = 0 ∧
      v.tmask = u.active f ∧ (v.frag 0).pc = u.tvec.setWidth 57 ∧ v.s = u.s ∧ v.c = u.c ∧ v.m = u.m ∧ v.v = u.v ∧ v.fstat = u.fstat ∧
      (v.saved.map (fun x => x.flights)) = some u.flights ∧ t.mem = s.mem
    (cur.role = .single → ∀ n, decodeFault cur.who u f i = some n →
      (n = 3 → (Instr.opY i).2 = true ∨ (Instr.opY i).1 < 0x0C1 ∨ 0x0C9 < (Instr.opY i).1) → traps n (slotOf cur.at_)) ∧
    (∀ w, i = .reservedOpcode w → decodeFault cur.who u f i = some 3) ∧
    (∀ o n, cur.role = .first o → cur.at_ = cur.pc → decodeFault cur.who u f i = none → decodeFault cur.who u f o = some n →
      ((Instr.opY o).1 < 0x0C1 ∨ 0x0C9 < (Instr.opY o).1) → traps n (slotOf (Pc.advance cur.pc 1)))

/-- A trap saves the PC, cause, value and mask, sets the table aside and enters the handler; DOUBLE enters none (R98, R124, R126,
R127). Model's choice: log row 118 (DESIGN CHOICE), a trap lets no other fragment make the further step that R98 allows, so
that the set-aside table keeps their PCs as at the trap. -/
def Obligations.TrapEntry : Prop :=
  ∀ (s : State) (w : Who) (u : Issuer) (e : Nat) (pc : Pc) (q : TrapReq), s.issuer w = some u →
    let f := u.frag e
    (u.inh = false → u.tvec ≠ 0 → bitsAt u.tvec 57 7 = 0 → q.epc = none → q.tmask = none → q.cause < 256 → q.slot < 8 →
      q.info < 2 ^ 16 →
      let t := s.takeTrap w e pc q
      ∃ v sv, t.issuer w = some v ∧ v.tepc = pc.setWidth 64 ∧ bitsAt v.tcause 0 8 = q.cause ∧ bitsAt v.tcause 8 3 = q.slot ∧
        bitsAt v.tcause 32 16 = q.info ∧ v.inh = true ∧ v.tval = q.tval ∧ v.tmask = u.rdM f.slices f.dbgLane 0 &&& f.lmask ∧
        v.frags.length = 1 ∧ (v.frag 0).pc = u.tvec.setWidth 57 ∧ (v.frag 0).st = .eligible ∧ (v.frag 0).smask = f.smask ∧
        (v.frag 0).lmask = f.lmask ∧ (v.frag 0).entryCheck = true ∧ v.flights = [] ∧ v.saved = some sv ∧ sv.flights = u.flights ∧
        sv.entry = e ∧ (∀ k, k ≠ e → (sv.frags.get k Frag.none).st = (u.frag k).st ∧ (sv.frags.get k Frag.none).pc = (u.frag k).pc ∧
          (sv.frags.get k Frag.none).smask = (u.frag k).smask ∧ (sv.frags.get k Frag.none).lmask = (u.frag k).lmask) ∧
        v.s = u.s ∧ v.c = u.c ∧ v.m = u.m ∧ v.v = u.v ∧ v.fstat = u.fstat ∧ v.tscr0 = u.tscr0 ∧ v.tscr1 = u.tscr1 ∧
        v.tvec = u.tvec ∧ t.mem = s.mem) ∧
    (∀ n g k, w = .gang n g → g < 32 → (s.core n).blocks.find u.blk = some k → k.firstDouble = none →
      let t := s.takeTrap w e pc q
      let ends := fun (cause : Nat) => t.issuer w = none ∧ t.mem = s.mem ∧
        ∃ b, (t.core n).blocks.find u.blk = some b ∧ b.firstDouble = some (false, g, cause)
      (u.inh = true → ends (bitsAt u.tcause 0 8)) ∧ (u.inh = false → u.tvec = 0 → ends q.cause))

/-- A return from a handler brings back the table and the results that the trap set aside, and leaves the registers of the handler
(R69, R98, R125). -/
def Obligations.TrapReturn : Prop :=
  ∀ (u : Issuer) (e : Nat) (pc at_ : Pc) (q : TrapReq) (h : Issuer), q.entry = none → q.arr = none → (∀ p ∈ u.log, p.2.old = false) →
    h.saved = (u.enter e pc q).saved → h.flights = [] → h.tcause = (u.enter e pc q).tcause → h.log = (u.enter e pc q).log →
    ∀ nxt : Bool,
    let v := h.trapReturn at_ nxt
    v.inh = false ∧ v.saved = none ∧ v.flights = u.flights ∧ v.log = u.log ∧
    (v.frag e).pc = at_ ∧ (v.frag e).smask = (u.frag e).smask ∧ (v.frag e).lmask = (u.frag e).lmask ∧ (v.frag e).st = .eligible ∧
    (∀ k, k ≠ e → (v.frag k).st = (u.frag k).st ∧ (v.frag k).pc = (u.frag k).pc ∧ (v.frag k).smask = (u.frag k).smask ∧
      (v.frag k).lmask = (u.frag k).lmask) ∧
    v.s = h.s ∧ v.c = h.c ∧ v.m = h.m ∧ v.v = h.v ∧ v.fstat = h.fstat ∧ v.tscr0 = h.tscr0 ∧ v.tscr1 = h.tscr1 ∧ v.tepc = h.tepc ∧
    v.tvec = h.tvec

/-- A marker waits for what is outstanding and then commits every result of its fragment in program order (R61, R64, R65, R67,
R184). -/
def Obligations.MarkerCommits : Prop :=
  ∀ (i : Instr) (op : Nat) (h : Hdr) (b : Body) (s : State) (cur : Cur) (u : Issuer),
    i.form = some (op, h, b) → s.cur = some cur → cur.role = .single → cur.lads = none → s.issuer cur.who = some u → h.y = true → op ≠ 0x0CB →
    decodeFault cur.who u (u.frag cur.entry) i = none →
    let f := u.frag cur.entry
    let mine := fun (x : Flight) => x.mine f.slices f.isDbg
    let settled := ∀ p ∈ u.entriesOf f.slices f.isDbg false, ∀ a ∈ p.2.accs, a.st ≠ .pending ∧ a.st.bad = false
    ((∃ p ∈ u.entriesOf f.slices f.isDbg false, ∃ a ∈ p.2.accs, a.st = .pending) ∨
        (settled ∧ s.spfullOf cur.who f.slices f.isDbg = none ∧
          ∃ x ∈ u.flights, mine x = true ∧ x.ready = false ∧ x.kind ≠ .memory) →
      ∃ t v w, exec i s = .next t ∧ t.ev = .stalled w ∧ t.issuer cur.who = some v ∧ v.flights = u.flights ∧ v.s = u.s ∧ v.v = u.v ∧
        v.c = u.c ∧ v.m = u.m ∧ v.log = u.log ∧ (v.frag cur.entry).pc = f.pc ∧ t.mem = s.mem) ∧
    (settled → (∀ p ∈ s.inserts, p.again = false) → s.spfullOf cur.who f.slices f.isDbg = none → u.arrFaults = [] →
      (∀ x ∈ u.flights, mine x = true → x.ready = true) → bindsOf (u.flights.filter mine) = [] →
      let v := u.commit f.slices f.isDbg
      v.flights = u.flights.filter (fun x => !(mine x)) ∧
      (∀ r j, r ≠ 0 → j < 8 → (∀ x ∈ u.flights, ∀ k q z, Tgt.s k q z ∈ x.tgts → k < 8) → v.rdS r j = (((u.flights.filter mine).flatMap Flight.tgts).reverse.findSome? (fun t => match t with
        | .s k q x => if k = j ∧ q = r then some x else none
        | _ => none)).getD (u.rdS r j)) ∧
      (v.ladles = [] → (∃ j ∈ f.slices, v.rdC (bitsAt h.g 0 4) j ≠ bitAt h.g 4) →
        ∃ x, begun i h s = some x ∧ x.c = Cx.of cur.who v cur h.g ∧ x.s.issuer cur.who = some v ∧ x.s.mem = s.mem))

/-- A fixed-latency result is visible from the step that its latency names on, and not before (R48, R61, R64, R65, R67, R82). -/
def Obligations.FixedResultsLand : Prop :=
  ∀ (u : Issuer) (lat j r : Nat) (sl : List Nat) (dbg : Bool), u.flights = [] → 1 ≤ lat → j < 8 → j ∈ sl →
    let after := fun (t : Tgt) (n : Nat) => (List.range n).foldl (fun (u : Issuer) _ => u.tick sl dbg) (u.pushFixed lat dbg [(j, t)])
    let lands := fun (t : Tgt) (P Q : Issuer → Prop) =>
      (∀ n, n < lat → P (after t n)) ∧ (∀ n, lat ≤ n → Q (after t n)) ∧ Q ((u.pushFixed lat dbg [(j, t)]).commit sl dbg) ∧
      (∀ other, j ∉ other → ((u.pushFixed lat dbg [(j, t)]).tick other dbg).flights = (u.pushFixed lat dbg [(j, t)]).flights ∧
        P ((u.pushFixed lat dbg [(j, t)]).tick other dbg))
    (∀ x, r ≠ 0 → lands (.s j r x) (fun v => v.rdS r j = u.rdS r j) (fun v => v.rdS r j = x)) ∧
    (∀ x, r ≠ 0 → lands (.c j r x) (fun v => v.rdC r j = u.rdC r j) (fun v => v.rdC r j = x)) ∧
    (∀ x, lands (.m j r 0xF x) (fun v => v.rdNib r j = u.rdNib r j) (fun v => v.rdNib r j = x)) ∧
    (∀ x l, l / 4 = j → r < 8 * u.alloc → lands (.v l r 0xFFFFFFFF x) (fun v => v.rdV r l = u.rdV r l) (fun v => v.rdV r l = x)) ∧
    (∀ x n, (after (.s j 0 x) n).rdS 0 j = 0 ∧ (after (.s j 0 x) n).s = u.s ∧ (after (.c j 0 (bitAt x 0)) n).rdC 0 j = true ∧
      (after (.c j 0 (bitAt x 0)) n).c = u.c)

/-- Of two results for one register that become visible at the same step, the later producer's is kept (R66). -/
def Obligations.LaterProducerKept : Prop :=
  ∀ (u : Issuer) (sl : List Nat) (dbg : Bool) (a b c : List Flight) (f g : Flight),
    u.flights = a ++ [f] ++ b ++ [g] ++ c → f.mine sl dbg = true → g.mine sl dbg = true → f.left = some 1 → g.left = some 1 →
    (∀ r j x y, j < 8 → r ≠ 0 → f.tgts = [.s j r x] → g.tgts = [.s j r y] → 
      (∀ h ∈ c, ∀ k q z, Tgt.s k q z ∈ h.tgts → k < 8 ∧ (k, q) ≠ (j, r)) → (u.tick sl dbg).rdS r j = y) ∧
    (∀ r j x y, j < 8 → r ≠ 0 → f.tgts = [.c j r x] → g.tgts = [.c j r y] → 
      (∀ h ∈ c, ∀ k q z, Tgt.c k q z ∈ h.tgts → k < 8 ∧ (k, q) ≠ (j, r)) → (u.tick sl dbg).rdC r j = y) ∧
    (∀ r j x y, j < 8 → f.tgts = [.m j r 0xF x] → g.tgts = [.m j r 0xF y] → 
      (∀ h ∈ c, ∀ k q n z, Tgt.m k q n z ∈ h.tgts → k < 8 ∧ (k, q) ≠ (j, r)) → (u.tick sl dbg).rdNib r j = y) ∧
    (∀ r l x y, l < 32 → r < 8 * u.alloc → f.tgts = [.v l r 0xFFFFFFFF x] → g.tgts = [.v l r 0xFFFFFFFF y] →
      (∀ h ∈ c, ∀ k q n z, Tgt.v k q n z ∈ h.tgts → k < 32 ∧ (k, q) ≠ (l, r)) →
      (u.tick sl dbg).rdV r l = y) ∧
    (∀ (w : Issuer) (j l r : Nat) (x y : Word), w.flights = [] → j < 8 → l / 4 = j → j ∈ sl → r < 8 * w.alloc →
      let next := fun (v : Issuer) => v.tick sl dbg
      let fma := next (next (w.pushFixed 4 dbg [(j, .v l r 0xFFFFFFFF x)]))
      (next (next (fma.pushFixed 2 dbg [(j, .v l r 0xFFFFFFFF y)]))).rdV r l = y ∧
      (next (next (fma.pushFixed 2 dbg [(j, .v l r 0xFFFFFFFF y)]))).flights = [])

/-- A mask register is eight nibbles, read and written by the slices of the fragment (R83). -/
def Obligations.MaskPerSlice : Prop :=
  (∀ (u : Issuer) (f : Frag) (r l : Nat), f.isDbg = false → l < 32 →
    (u.rdM f.slices f.dbgLane r).getLsbD l = (f.smask.getLsbD (l / 4) && (u.rdNib r (l / 4)).getLsbD (l % 4))) ∧
  (∀ (u : Issuer) (f : Frag) (r l : Nat), f.smask = 0xFF → l < 32 →
    (u.rdM f.slices f.dbgLane r).getLsbD l = (u.rdNib r (l / 4)).getLsbD (l % 4)) ∧
  (∀ (who : Who) (u : Issuer) (cur : Cur) (g : BitVec 5) (r : BitVec 6) (v : Nat → BitVec 4) (k j : Nat), j < 8 →
    let c := Cx.of who u cur g
    let w := u.landAll (c.pass.map (fun i => Tgt.m i r.toNat 0xF (v i)))
    (∀ i ∈ c.pass, i ∈ (u.frag cur.entry).slices) ∧
    w.rdNib k j = (if k = r.toNat ∧ j ∈ c.pass then v j else u.rdNib k j)) ∧
  (∀ (h : Hdr) (f : SFmt) (s : State) (b : Begun) (i : Instr), begun i h s = some b →
    i ∈ [Instr.mand h f, .mor h f, .mxor h f, .mandn h f, .mnot h f, .mmov h f, .mput h f] →
    ∃ v, exec i s = b.putM f.sd v ∧ b.c.putM f.sd v b.s = b.s.updIssuer b.c.who (fun u =>
      u.pushFixed 1 b.c.fr.isDbg (b.c.pass.map (fun j => (j, Tgt.m j f.sd.toNat 0xF (v j))))))

/-- What the instructions of groups 0 to 9, 11 and 12 leave as it was (R64, R67, R82, R108, R114, R116, R118, R137, R183, R222). -/
def Obligations.RegisterFrame : Prop :=
  ∀ (i : Instr) (op : Nat) (h : Hdr) (b : Body) (s t : State) (cur : Cur) (u : Issuer),
    i.form = some (op, h, b) → s.cur = some cur → quiet s cur u → exec i s = .next t → t.ev = .issued →
    ((op < 0x0CA ∨ op = 0x0CD ∨ (0x100 ≤ op ∧ op < 0x200)) → ∃ v, t.issuer cur.who = some v ∧
      (∀ r j, j < 8 → writesS i r = false → v.rdS r j = u.rdS r j) ∧ (∀ r j, j < 8 → writesC i r = false → v.rdC r j = u.rdC r j) ∧
      (∀ r j, j < 8 → writesM i r = false → v.rdNib r j = u.rdNib r j) ∧
      (∀ r l, l < 32 → writesV i r = false → v.rdV r l = u.rdV r l) ∧
      v.a = u.a ∧ v.fstat = u.fstat ∧ v.log = u.log ∧ specials v = specials u ∧
      (∀ f ∈ v.flights, ∀ g ∈ f.tgts, mayLand i g = true) ∧
      (∀ w, w ≠ cur.who → t.issuer w = s.issuer w) ∧
      (∀ n, t.core n = { s.core n with gangs := (t.core n).gangs, blocks := (t.core n).blocks } ∧
        ∀ k, (t.block n k).isSome = (s.block n k).isSome ∧
          ∀ x y, s.block n k = some x → t.block n k = some y → y = { x with stream := y.stream }) ∧
      (∀ w, (t.seqs.find w).isSome = (s.seqs.find w).isSome ∧
        ∀ x y, s.seqs.find w = some x → t.seqs.find w = some y → y = { x with iss := y.iss }) ∧
      t = { s with cores := t.cores, seqs := t.seqs, cur := none, ev := .issued, evs := [], svOld := [] }) ∧
    (0x200 ≤ op → op < 0x340 → op / 64 ≠ 10 → ∃ v, t.issuer cur.who = some v ∧ v.s = u.s ∧ v.c = u.c ∧ v.m = u.m ∧ v.v = u.v ∧
      v.a = u.a ∧ v.fstat = u.fstat ∧ v.tvec = u.tvec ∧ v.tepc = u.tepc ∧ v.tcause = u.tcause ∧ v.tval = u.tval ∧
      v.tmask = u.tmask ∧ v.tscr0 = u.tscr0 ∧ v.tscr1 = u.tscr1)

/-- No instruction word changes a byte of memory at its issue, but for trace records (R183, R213, R222, R237, R281, R282). -/
def Obligations.IssueKeepsMemory : Prop :=
  ∀ (i : Instr) (s t : State) (cur : Cur), (i.form.isSome = true ∨ ∃ w, i = .reservedOpcode w) → s.cur = some cur → s.svOld = [] →
    (∀ n, cur.who.core? = some n → (s.core n).probe.seenIn s.cycles = []) → (∀ h f, i ≠ .mark h f ∧ i ≠ .trace h f ∧
      ((i = .csrw h f ∨ i = .dput h f) → f.csr.toNat ≠ 0x460 ∧ f.csr.toNat ≠ 0x463)) →
    exec i s = .next t → ∀ a, t.mem.get a = s.mem.get a

/-- The canonical form of memory: reads after writes, and equal memories are equal data (R6, R164, R404, R405). -/
def Obligations.MemoryLaws : Prop :=
  (∀ (m : Memory) (k : Nat) (bs : List Byte), m.wf = true →
    (m.write k bs).wf = true ∧ (m.splice k bs).wf = true ∧
    ∀ a, (m.write k bs).get a = (if k ≤ a ∧ a < k + bs.length then bs.getD (a - k) 0 else m.get a) ∧
      (m.splice k bs).get a = (m.write k bs).get a) ∧
  (∀ m n : Memory, m.wf = true → n.wf = true → (∀ a, m.get a = n.get a) → m = n) ∧
  (∀ (s : State) (key a : Nat) (bs : List Byte), memoryCanonical s → (s.pkgStore key a bs).pkgRead key a bs.length = bs ∧
    memoryCanonical (s.pkgStore key a bs)) ∧
  (∀ (n k : Nat), ofBytes (bytesOf n k) = n % 256 ^ k ∧ (bytesOf n k).length = k ∧
    ∀ i, i < k → (bytesOf n k).getD i 0 = BitVec.ofNat 8 (n / 256 ^ i))

/-- Every step keeps the canonical form of memory (R6, R164, R404). -/
def Obligations.StepKeepsMemoryCanonical : Prop :=
  ∀ s t : State, memoryCanonical s → step s = .next t → memoryCanonical t

/-- What reset leaves (R352, R392, R402, R408, R410, R415, R460). Model's choice: log row 1 (DESIGN CHOICE), no byte of memory is
listed, so that every byte reads zero; the spec gives no contents. -/
def Obligations.ResetState : Prop :=
  let s := State.reset
  memoryCanonical s ∧ s.mem = [] ∧ s.cur = none ∧ s.stopped = false ∧ (∀ w, s.issuer w = none) ∧ (∀ n, (s.ctxOf n).st = .free) ∧
  s.hostRead 0x000 = 0 ∧ s.hostRead 0x010 = 0 ∧ s.hostRead 0x018 = 3000 ∧ s.hostRead 0x028 = 0 ∧ s.hostRead 0x030 = 0 ∧
  s.hostRead 0x038 = 10 ∧ s.hostRead 0x040 = 0 ∧ s.hostRead 0x048 = 0 ∧ s.hostRead 0x050 = 24 ∧
  (∀ n, n < 12 → s.hostRead (0x080 + 8 * n) = 0) ∧
  (∀ q k, q < 1024 → k < 8 → s.hostRead (0x100000 + 64 * q + 8 * k) = 0) ∧
  (∀ d, d < 4 → s.hostRead (0x200100 + 0x10000 * d) = 0x0000006400100401 ∧ s.hostRead (0x200108 + 0x10000 * d) = 0 ∧
    s.hostRead (0x200300 + 0x10000 * d) = 0 ∧ s.hostRead (0x200308 + 0x10000 * d) = 0 ∧ s.hostRead (0x200318 + 0x10000 * d) = 0) ∧
  (∀ p, p < 37 → (s.pot p).ageen = true ∧ (s.pot p).a = 6 ∧ (s.pot p).recs = []) ∧
  s.hostRead 0xA00000 = 0x7FF ∧ s.hostRead 0xA00008 = 0x640010 ∧ s.hostRead 0xA00010 = 0 ∧ s.hostRead 0xA00018 = 0 ∧
  s.hostRead 0xA00020 = 0 ∧ s.hostRead 0xA00028 = 0x7FF ∧
  (∀ n, n < 36 → s.hostRead (0xA01000 + 64 * n) = 1 ∧ s.hostRead (0xA01008 + 64 * n) = 0x7FF0000000000000 ∧
    s.hostRead (0xA01010 + 64 * n) = 0x020804) ∧
  (∀ d, d < 1057 → s.hostRead (0xA10000 + 8 * d) = 0x3FF8000000000000) ∧ (∀ n, n < 2048 → s.hostRead (0xA20000 + 8 * n) = 0)
end

