-- ==== Sys2Proof/Laws/Codec.lean ====
section
/-! SUPPORT. Words and fields: what a format reads of the word it writes, and what it writes of the word it reads. -/
namespace Sys2Proof.Laws

/-- A field of the lower part, of the upper part, of a pair of bit strings. -/
theorem field_low {n m s l : Nat} (a : BitVec n) (b : BitVec m) (h : s + l ≤ m) : (a ++ b).extractLsb' s l = b.extractLsb' s l :=
  BitVec.extractLsb'_append_eq_of_add_le h
theorem field_high {n m s l : Nat} (a : BitVec n) (b : BitVec m) (h : m ≤ s) :
    (a ++ b).extractLsb' s l = a.extractLsb' (s - m) l := BitVec.extractLsb'_append_eq_of_le h
theorem bit_low {n m s : Nat} (a : BitVec n) (b : BitVec m) (h : s < m) : (a ++ b).getLsbD s = b.getLsbD s := by
  simp [BitVec.getLsbD_append, h]
theorem bit_high {n m s : Nat} (a : BitVec n) (b : BitVec m) (h : m ≤ s) : (a ++ b).getLsbD s = a.getLsbD (s - m) := by
  simp [BitVec.getLsbD_append, Nat.not_lt.mpr h]
theorem bit_ofBool (b : Bool) : (BitVec.ofBool b).getLsbD 0 = b := by cases b <;> rfl

/-- A field put after what a word holds above it. -/
theorem snoc_field {n l k t s : Nat} {w : BitVec n} {a : BitVec l} (ha : a = w.extractLsb' t l) (h : t = s + k) :
    a ++ w.extractLsb' s k = w.extractLsb' s (l + k) := by
  subst ha h
  ext i hi
  simp only [BitVec.getElem_append, BitVec.getElem_extractLsb']
  split
  · rfl
  · rename_i h
    rw [show s + k + (i - k) = s + i by omega]
theorem ofBool_bit {n s : Nat} (w : BitVec n) : BitVec.ofBool (w.getLsbD s) = w.extractLsb' s 1 := by
  ext i hi
  have : i = 0 := by omega
  subst this
  simp


theorem sfmt_ofWord_pack (op : Nat) (h : Hdr) (f : SFmt) : SFmt.ofWord (packWord op h f.word) = f := by
  cases f
  simp only [SFmt.ofWord, packWord, SFmt.word, SFmt.mk.injEq]
  repeat' constructor
  all_goals
    repeat first
      | exact BitVec.extractLsb'_eq_self
      | exact bit_ofBool _
      | refine (field_low _ _ (by decide)).trans ?_
      | refine (field_high _ _ (by decide)).trans ?_
      | refine (bit_low _ _ (by decide)).trans ?_
      | refine (bit_high _ _ (by decide)).trans ?_

theorem sfmt_word_ofWord (w : IWord) : (SFmt.ofWord w).word = w.extractLsb' 0 80 := by
  simp only [SFmt.ofWord, SFmt.word, ofBool_bit]
  exact snoc_field (w := w) (l := 48) (t := 32) (s := 0) (k := 32) (snoc_field (w := w) (l := 42) (t := 38) (s := 32) (k := 6) (snoc_field (w := w) (l := 35) (t := 45) (s := 38) (k := 7) (snoc_field (w := w) (l := 31) (t := 49) (s := 45) (k := 4) (snoc_field (w := w) (l := 30) (t := 50) (s := 49) (k := 1) (snoc_field (w := w) (l := 26) (t := 54) (s := 50) (k := 4) (snoc_field (w := w) (l := 22) (t := 58) (s := 54) (k := 4) (snoc_field (w := w) (l := 18) (t := 62) (s := 58) (k := 4) (snoc_field (w := w) (l := 12) (t := 68) (s := 62) (k := 6) (snoc_field (w := w) (l := 6) (t := 74) (s := 68) (k := 6) (rfl) rfl) rfl) rfl) rfl) rfl) rfl) rfl) rfl) rfl) rfl

theorem vfmt_ofWord_pack (op : Nat) (h : Hdr) (f : VFmt) : VFmt.ofWord (packWord op h f.word) = f := by
  cases f
  simp only [VFmt.ofWord, packWord, VFmt.word, VFmt.mk.injEq]
  repeat' constructor
  all_goals
    repeat first
      | exact BitVec.extractLsb'_eq_self
      | exact bit_ofBool _
      | refine (field_low _ _ (by decide)).trans ?_
      | refine (field_high _ _ (by decide)).trans ?_
      | refine (bit_low _ _ (by decide)).trans ?_
      | refine (bit_high _ _ (by decide)).trans ?_

theorem vfmt_word_ofWord (w : IWord) : (VFmt.ofWord w).word = w.extractLsb' 0 80 := by
  simp only [VFmt.ofWord, VFmt.word, ofBool_bit]
  exact snoc_field (w := w) (l := 48) (t := 32) (s := 0) (k := 32) (snoc_field (w := w) (l := 45) (t := 35) (s := 32) (k := 3) (snoc_field (w := w) (l := 44) (t := 36) (s := 35) (k := 1) (snoc_field (w := w) (l := 43) (t := 37) (s := 36) (k := 1) (snoc_field (w := w) (l := 40) (t := 40) (s := 37) (k := 3) (snoc_field (w := w) (l := 36) (t := 44) (s := 40) (k := 4) (snoc_field (w := w) (l := 32) (t := 48) (s := 44) (k := 4) (snoc_field (w := w) (l := 24) (t := 56) (s := 48) (k := 8) (snoc_field (w := w) (l := 16) (t := 64) (s := 56) (k := 8) (snoc_field (w := w) (l := 8) (t := 72) (s := 64) (k := 8) (rfl) rfl) rfl) rfl) rfl) rfl) rfl) rfl) rfl) rfl) rfl

theorem mfmt_ofWord_pack (op : Nat) (h : Hdr) (f : MFmt) : MFmt.ofWord (packWord op h f.word) = f := by
  cases f
  simp only [MFmt.ofWord, packWord, MFmt.word, MFmt.mk.injEq]
  repeat' constructor
  all_goals
    repeat first
      | exact BitVec.extractLsb'_eq_self
      | exact bit_ofBool _
      | refine (field_low _ _ (by decide)).trans ?_
      | refine (field_high _ _ (by decide)).trans ?_
      | refine (bit_low _ _ (by decide)).trans ?_
      | refine (bit_high _ _ (by decide)).trans ?_

theorem mfmt_word_ofWord (w : IWord) : (MFmt.ofWord w).word = w.extractLsb' 0 80 := by
  simp only [MFmt.ofWord, MFmt.word, ofBool_bit]
  exact snoc_field (w := w) (l := 48) (t := 32) (s := 0) (k := 32) (snoc_field (w := w) (l := 46) (t := 34) (s := 32) (k := 2) (snoc_field (w := w) (l := 45) (t := 35) (s := 34) (k := 1) (snoc_field (w := w) (l := 41) (t := 39) (s := 35) (k := 4) (snoc_field (w := w) (l := 38) (t := 42) (s := 39) (k := 3) (snoc_field (w := w) (l := 36) (t := 44) (s := 42) (k := 2) (snoc_field (w := w) (l := 32) (t := 48) (s := 44) (k := 4) (snoc_field (w := w) (l := 28) (t := 52) (s := 48) (k := 4) (snoc_field (w := w) (l := 25) (t := 55) (s := 52) (k := 3) (snoc_field (w := w) (l := 22) (t := 58) (s := 55) (k := 3) (snoc_field (w := w) (l := 14) (t := 66) (s := 58) (k := 8) (snoc_field (w := w) (l := 8) (t := 72) (s := 66) (k := 6) (rfl) rfl) rfl) rfl) rfl) rfl) rfl) rfl) rfl) rfl) rfl) rfl) rfl

theorem bfmt_ofWord_pack (op : Nat) (h : Hdr) (f : BFmt) : BFmt.ofWord (packWord op h f.word) = f := by
  cases f
  simp only [BFmt.ofWord, packWord, BFmt.word, BFmt.mk.injEq]
  repeat' constructor
  all_goals
    repeat first
      | exact BitVec.extractLsb'_eq_self
      | exact bit_ofBool _
      | refine (field_low _ _ (by decide)).trans ?_
      | refine (field_high _ _ (by decide)).trans ?_
      | refine (bit_low _ _ (by decide)).trans ?_
      | refine (bit_high _ _ (by decide)).trans ?_

theorem bfmt_word_ofWord (w : IWord) : (BFmt.ofWord w).word = w.extractLsb' 0 80 := by
  simp only [BFmt.ofWord, BFmt.word, ofBool_bit]
  exact snoc_field (w := w) (l := 77) (t := 3) (s := 0) (k := 3) (snoc_field (w := w) (l := 32) (t := 48) (s := 3) (k := 45) (snoc_field (w := w) (l := 28) (t := 52) (s := 48) (k := 4) (snoc_field (w := w) (l := 27) (t := 53) (s := 52) (k := 1) (snoc_field (w := w) (l := 24) (t := 56) (s := 53) (k := 3) (snoc_field (w := w) (l := 21) (t := 59) (s := 56) (k := 3) (snoc_field (w := w) (l := 15) (t := 65) (s := 59) (k := 6) (snoc_field (w := w) (l := 11) (t := 69) (s := 65) (k := 4) (snoc_field (w := w) (l := 10) (t := 70) (s := 69) (k := 1) (snoc_field (w := w) (l := 6) (t := 74) (s := 70) (k := 4) (rfl) rfl) rfl) rfl) rfl) rfl) rfl) rfl) rfl) rfl) rfl

theorem xfmt_ofWord_pack (op : Nat) (h : Hdr) (f : XFmt) : XFmt.ofWord (packWord op h f.word) = f := by
  cases f
  simp only [XFmt.ofWord, packWord, XFmt.word, XFmt.mk.injEq]
  repeat' constructor
  all_goals
    repeat first
      | exact BitVec.extractLsb'_eq_self
      | refine (field_low _ _ (by decide)).trans ?_
      | refine (field_high _ _ (by decide)).trans ?_

theorem xfmt_word_ofWord (w : IWord) : (XFmt.ofWord w).word = w.extractLsb' 0 80 := by
  simp only [XFmt.ofWord, XFmt.word]
  exact snoc_field (w := w) (l := 70) (t := 10) (s := 0) (k := 10) (snoc_field (w := w) (l := 66) (t := 14) (s := 10) (k := 4) (snoc_field (w := w) (l := 63) (t := 17) (s := 14) (k := 3) (snoc_field (w := w) (l := 60) (t := 20) (s := 17) (k := 3) (snoc_field (w := w) (l := 56) (t := 24) (s := 20) (k := 4) (snoc_field (w := w) (l := 54) (t := 26) (s := 24) (k := 2) (snoc_field (w := w) (l := 52) (t := 28) (s := 26) (k := 2) (snoc_field (w := w) (l := 48) (t := 32) (s := 28) (k := 4) (snoc_field (w := w) (l := 42) (t := 38) (s := 32) (k := 6) (snoc_field (w := w) (l := 36) (t := 44) (s := 38) (k := 6) (snoc_field (w := w) (l := 32) (t := 48) (s := 44) (k := 4) (snoc_field (w := w) (l := 28) (t := 52) (s := 48) (k := 4) (snoc_field (w := w) (l := 24) (t := 56) (s := 52) (k := 4) (snoc_field (w := w) (l := 16) (t := 64) (s := 56) (k := 8) (snoc_field (w := w) (l := 8) (t := 72) (s := 64) (k := 8) (snoc_field (w := w) (l := 4) (t := 76) (s := 72) (k := 4) (rfl) rfl) rfl) rfl) rfl) rfl) rfl) rfl) rfl) rfl) rfl) rfl) rfl) rfl) rfl) rfl) rfl

theorem lfmt_ofWord_pack (op : Nat) (h : Hdr) (f : LFmt) : LFmt.ofWord (packWord op h f.word) = f := by
  cases f
  simp only [LFmt.ofWord, packWord, LFmt.word, LFmt.mk.injEq]
  repeat' constructor
  all_goals
    repeat first
      | exact BitVec.extractLsb'_eq_self
      | exact bit_ofBool _
      | refine (field_low _ _ (by decide)).trans ?_
      | refine (field_high _ _ (by decide)).trans ?_
      | refine (bit_low _ _ (by decide)).trans ?_
      | refine (bit_high _ _ (by decide)).trans ?_

theorem lfmt_word_ofWord (w : IWord) : (LFmt.ofWord w).word = w.extractLsb' 0 80 := by
  simp only [LFmt.ofWord, LFmt.word, ofBool_bit]
  exact snoc_field (w := w) (l := 48) (t := 32) (s := 0) (k := 32) (snoc_field (w := w) (l := 47) (t := 33) (s := 32) (k := 1) (snoc_field (w := w) (l := 46) (t := 34) (s := 33) (k := 1) (snoc_field (w := w) (l := 45) (t := 35) (s := 34) (k := 1) (snoc_field (w := w) (l := 44) (t := 36) (s := 35) (k := 1) (snoc_field (w := w) (l := 42) (t := 38) (s := 36) (k := 2) (snoc_field (w := w) (l := 39) (t := 41) (s := 38) (k := 3) (snoc_field (w := w) (l := 35) (t := 45) (s := 41) (k := 4) (snoc_field (w := w) (l := 31) (t := 49) (s := 45) (k := 4) (snoc_field (w := w) (l := 27) (t := 53) (s := 49) (k := 4) (snoc_field (w := w) (l := 21) (t := 59) (s := 53) (k := 6) (snoc_field (w := w) (l := 15) (t := 65) (s := 59) (k := 6) (snoc_field (w := w) (l := 9) (t := 71) (s := 65) (k := 6) (snoc_field (w := w) (l := 3) (t := 77) (s := 71) (k := 6) (rfl) rfl) rfl) rfl) rfl) rfl) rfl) rfl) rfl) rfl) rfl) rfl) rfl) rfl) rfl

theorem dfmt_ofWord_pack (op : Nat) (h : Hdr) (f : DFmt) : DFmt.ofWord (packWord op h f.word) = f := by
  cases f
  simp only [DFmt.ofWord, packWord, DFmt.word, DFmt.mk.injEq]
  repeat' constructor
  all_goals
    repeat first
      | exact BitVec.extractLsb'_eq_self
      | refine (field_low _ _ (by decide)).trans ?_
      | refine (field_high _ _ (by decide)).trans ?_

theorem dfmt_word_ofWord (w : IWord) : (DFmt.ofWord w).word = w.extractLsb' 0 80 := by
  simp only [DFmt.ofWord, DFmt.word]
  exact snoc_field (w := w) (l := 48) (t := 32) (s := 0) (k := 32) (snoc_field (w := w) (l := 32) (t := 48) (s := 32) (k := 16) (snoc_field (w := w) (l := 29) (t := 51) (s := 48) (k := 3) (snoc_field (w := w) (l := 24) (t := 56) (s := 51) (k := 5) (snoc_field (w := w) (l := 16) (t := 64) (s := 56) (k := 8) (snoc_field (w := w) (l := 12) (t := 68) (s := 64) (k := 4) (snoc_field (w := w) (l := 6) (t := 74) (s := 68) (k := 6) (rfl) rfl) rfl) rfl) rfl) rfl) rfl) rfl

/-- The header of a word that is put together, and its opcode. -/
theorem hdr_ofWord_pack (op : Nat) (h : Hdr) (b : BitVec 80) : Hdr.ofWord (packWord op h b) = h := by
  cases h
  simp only [Hdr.ofWord, packWord, Hdr.mk.injEq]
  repeat' constructor
  all_goals
    repeat first
      | exact BitVec.extractLsb'_eq_self
      | exact bit_ofBool _
      | refine (field_low _ _ (by decide)).trans ?_
      | refine (field_high _ _ (by decide)).trans ?_
      | refine (bit_low _ _ (by decide)).trans ?_
      | refine (bit_high _ _ (by decide)).trans ?_
theorem opcode_pack (op : Nat) (h : Hdr) (b : BitVec 80) (ho : op < 1024) : bitsAt (packWord op h b) 86 10 = op := by
  have e : (packWord op h b).extractLsb' 86 10 = BitVec.ofNat 10 op := by
    unfold packWord
    refine (field_high _ _ (by decide)).trans ?_
    refine (field_high _ _ (by decide)).trans ?_
    refine (field_high _ _ (by decide)).trans ?_
    exact BitVec.extractLsb'_eq_self
  rw [bitsAt, e, BitVec.toNat_ofNat, Nat.mod_eq_of_lt ho]
/-- Group and function are the parts of the opcode (R46). -/
theorem group_of_opcode (w : IWord) : bitsAt w 92 4 = bitsAt w 86 10 / 64 := by
  simp only [bitsAt, BitVec.extractLsb'_toNat, Nat.shiftRight_eq_div_pow]
  omega
theorem function_of_opcode (w : IWord) : bitsAt w 86 6 = bitsAt w 86 10 % 64 := by
  simp only [bitsAt, BitVec.extractLsb'_toNat, Nat.shiftRight_eq_div_pow]
  omega
/-- A word is its opcode, header and body. -/
theorem pack_ofWord (w : IWord) : packWord (bitsAt w 86 10) (Hdr.ofWord w) (w.extractLsb' 0 80) = w := by
  have e : BitVec.ofNat 10 (bitsAt w 86 10) = w.extractLsb' 86 10 := BitVec.ofNat_toNat _ _ |>.trans (BitVec.setWidth_eq _)
  refine Eq.trans ?_ (BitVec.extractLsb'_eq_self (x := w))
  unfold packWord Hdr.ofWord
  simp only [ofBool_bit, e]
  exact snoc_field (w := w) (l := 16) (t := 80) (s := 0) (k := 80) (snoc_field (w := w) (l := 11) (t := 85) (s := 80) (k := 5)
    (snoc_field (w := w) (l := 10) (t := 86) (s := 85) (k := 1) rfl rfl) rfl) rfl

end Sys2Proof.Laws
end

