-- ==== Sys2Proof/Laws/Issue.lean ====
section
/-! SUPPORT. The one lemma about the issue of an instruction: once its own effect has begun, what its body answers is what the
issue answers. -/
namespace Sys2Proof.Laws

open Sys2Proof.Machine Sys2Proof.Safety

/-- Reading ladle operands changes nothing of what an instruction reads but the elements themselves. -/
theorem readLadles_inl {c c' : Cx} {srcs : List (Nat × Bool)} {s : State} {e : List AccEv} {l : List (Nat × Nat)}
    (h : c.readLadles srcs s = .inl (c', e, l)) : ∃ v, c' = { c with lad := v } := by
  unfold Cx.readLadles at h
  simp only at h
  split at h <;> try contradiction
  split at h <;> try contradiction
  split at h <;> try contradiction
  simp only [Sum.inl.injEq, Prod.mk.injEq] at h
  exact ⟨_, h.1.symm⟩

/-- What a body's answer makes of an instruction that has begun. -/
theorem issue_of_begun {i : Instr} {h : Hdr} {s : State} {b : Begun} (hb : begun i h s = some b) (body : Cx → State → Res) :
    (∀ t, body b.c b.s = .ok t → issue i h body s = .next (b.done t)) ∧
    (∀ t, body b.c b.s = .moved t → issue i h body s = .next (b.moved t)) ∧
    (∀ e t, body b.c b.s = .back e t → issue i h body s = .next (b.back e t)) ∧
    (∀ x t, body b.c b.s = .after x t → issue i h body s = .next (b.traps x t)) ∧
    (∀ x t, body b.c b.s = .trap x t → (∀ o, b.c.cur.role ≠ .second o) →
      issue i h body s = .next (t.markTrapped b.c.who b.c.entry b.c.cur.pc x)) ∧
    (∀ w t, body b.c b.s = .stall w t → issue i h body s = .next (t.markStalled b.c.who b.c.entry w)) := by
  unfold begun at hb
  split at hb <;> try contradiction
  rename_i cur hcur
  split at hb <;> try contradiction
  rename_i u hu
  simp only at hb
  split at hb <;> try contradiction
  rename_i p t hp
  split at hb <;> try contradiction
  rename_i v hv
  split at hb <;> try contradiction
  rename_i hpass
  split at hb <;> try contradiction
  rename_i op h' fb hform
  have key : issue i h body s = State.close (Cx.of cur.who (cur.reads v) cur h.g) (runBody i (Cx.of cur.who (cur.reads v) cur h.g)
      body ((Cx.of cur.who (cur.reads v) cur h.g).begin (t.noteLadles cur i))) := by
    unfold issue
    rw [hcur]
    simp only [hu]
    cases hr : cur.role <;> simp only [hr] at hp
    · have e : t.noteLadles cur i = t := by simp only [State.noteLadles, hr]
      rw [e] at hv
      simp only [hp, hv, e]
    · simp only [hp, hv]
    · cases hp
      have e : s.noteLadles cur i = s := by simp only [State.noteLadles, hr]
      rw [e] at hv
      rw [hu] at hv; cases hv; simp only [e]
  generalize t.noteLadles cur i = t at key hb
  generalize cur.reads v = v at key hb hpass
  have run : runBody i (Cx.of cur.who v cur h.g) body ((Cx.of cur.who v cur h.g).begin t)
      = if v.ladles.isEmpty then body (Cx.of cur.who v cur h.g) ((Cx.of cur.who v cur h.g).begin t)
        else match (Cx.of cur.who v cur h.g).readLadles (fb.vsrcs op) ((Cx.of cur.who v cur h.g).begin t) with
        | .inr r => r
        | .inl (c', evs, uses) =>
          if uses.isEmpty then body (Cx.of cur.who v cur h.g) ((Cx.of cur.who v cur h.g).begin t)
          else match body c' ((Cx.of cur.who v cur h.g).begin t) with
          | .ok s' => .ok ((if evs.isEmpty then s' else (Cx.of cur.who v cur h.g).events evs [] s').advanceLadles cur.who uses)
          | .moved s' => .moved (s'.advanceLadles cur.who uses)
          | r => r := by
    unfold runBody
    rw [if_neg hpass, hform]
    rfl
  rw [run] at key
  split at hb
  · rename_i hl
    cases hb
    rw [if_pos hl] at key
    refine ⟨fun t' ht => ?_, fun t' ht => ?_, fun e' t' ht => ?_, fun x' t' ht => ?_, fun x' t' ht hn => ?_,
        fun x' t' ht => ?_⟩ <;> rw [ht] at key <;> rw [key] <;>
      cases hr : cur.role <;>
      first
      | exact absurd hr (hn _)
      | simp only [State.close, Begun.done, Begun.moved, Begun.back, Begun.traps, Begun.advance, Cx.of, hr, List.isEmpty_nil, if_true]
  · rename_i hl
    rw [if_neg hl] at key
    split at hb <;> try contradiction
    rename_i c' evs uses hrl
    rw [hrl] at key
    simp only at key
    obtain ⟨vl, hc'⟩ := readLadles_inl hrl
    split at hb
    · rename_i hus
      cases hb
      rw [if_pos hus] at key
      refine ⟨fun t' ht => ?_, fun t' ht => ?_, fun e' t' ht => ?_, fun x' t' ht => ?_, fun x' t' ht hn => ?_,
        fun x' t' ht => ?_⟩ <;> rw [ht] at key <;> rw [key] <;>
        cases hr : cur.role <;>
      first
      | exact absurd hr (hn _)
      | simp only [State.close, Begun.done, Begun.moved, Begun.back, Begun.traps, Begun.advance, Cx.of, hr, List.isEmpty_nil, if_true]
    · rename_i hus
      cases hb
      rw [if_neg hus] at key
      subst hc'
      refine ⟨fun t' ht => ?_, fun t' ht => ?_, fun e' t' ht => ?_, fun x' t' ht => ?_, fun x' t' ht hn => ?_,
        fun x' t' ht => ?_⟩ <;> rw [ht] at key <;> rw [key] <;>
        cases hr : cur.role <;>
      first
      | exact absurd hr (hn _)
      | (simp only [State.close, Begun.done, Begun.moved, Begun.back, Begun.traps, Begun.advance, Cx.of, hr, if_neg hus] <;> rfl)

end Sys2Proof.Laws
end

