-- ==== Sys2Proof/Laws/Tab.lean ====
section
/-! SUPPORT. Tables: what a key reads as after a value has been put or dropped. -/
namespace Sys2Proof.Laws

open Sys2Proof

variable {κ α : Type} [DecidableEq κ]

@[simp] theorem find_put (t : Tab κ α) (k : κ) (v : α) : Tab.find (Tab.put t k v) k = some v := by
  induction t with
  | nil => simp [Tab.put, Tab.find]
  | cons p r ih => obtain ⟨j, w⟩ := p; by_cases h : j = k <;> simp [Tab.put, Tab.find, h, ih]
theorem find_put_ne (t : Tab κ α) {j k : κ} (v : α) (h : j ≠ k) : Tab.find (Tab.put t k v) j = Tab.find t j := by
  induction t with
  | nil => simp [Tab.put, Tab.find, h.symm]
  | cons p r ih =>
    obtain ⟨i, w⟩ := p
    by_cases hi : i = k
    · subst hi; simp [Tab.put, Tab.find, h.symm]
    · rw [Tab.put, if_neg hi]
      by_cases hj : i = j <;> simp [Tab.find, hj, ih]
@[simp] theorem get_put (t : Tab κ α) (k : κ) (v d : α) : Tab.get (Tab.put t k v) k d = v := by
  induction t with
  | nil => simp [Tab.put, Tab.get]
  | cons p r ih => obtain ⟨j, w⟩ := p; by_cases h : j = k <;> simp [Tab.put, Tab.get, h, ih]
theorem get_put_ne (t : Tab κ α) {j k : κ} (v d : α) (h : j ≠ k) : Tab.get (Tab.put t k v) j d = Tab.get t j d := by
  induction t with
  | nil => simp [Tab.put, Tab.get, h.symm]
  | cons p r ih =>
    obtain ⟨i, w⟩ := p
    by_cases hi : i = k
    · subst hi; simp [Tab.put, Tab.get, h.symm]
    · rw [Tab.put, if_neg hi]
      by_cases hj : i = j <;> simp [Tab.get, hj, ih]
@[simp] theorem find_drop (t : Tab κ α) (k : κ) : Tab.find (Tab.drop t k) k = none := by
  induction t with
  | nil => rfl
  | cons p r ih =>
    obtain ⟨j, w⟩ := p
    by_cases h : j = k
    · simpa [Tab.drop, h] using ih
    · simp only [Tab.drop, ne_eq, decide_not, h, decide_false, Bool.not_false, List.filter_cons_of_pos, Tab.find, if_false]
      simpa [Tab.drop] using ih
theorem find_drop_ne (t : Tab κ α) {j k : κ} (h : j ≠ k) : Tab.find (Tab.drop t k) j = Tab.find t j := by
  induction t with
  | nil => rfl
  | cons p r ih =>
    obtain ⟨i, w⟩ := p
    by_cases hi : i = k
    · subst hi
      simp only [Tab.find, h.symm, if_false]
      simpa [Tab.drop] using ih
    · by_cases hj : i = j
      · subst hj
        simp [Tab.drop, Tab.find, h]
      · simp only [Tab.drop, ne_eq, decide_not, hi, decide_false, Bool.not_false, List.filter_cons_of_pos, Tab.find, hj, if_false]
        simpa [Tab.drop] using ih
theorem get_eq_find (t : Tab κ α) (k : κ) (d : α) : Tab.get t k d = (Tab.find t k).getD d := by
  induction t with
  | nil => rfl
  | cons p r ih => obtain ⟨j, w⟩ := p; by_cases h : j = k <;> simp [Tab.get, Tab.find, h, ih]
@[simp] theorem get_drop (t : Tab κ α) (k : κ) (d : α) : Tab.get (Tab.drop t k) k d = d := by simp [get_eq_find]
theorem get_drop_ne (t : Tab κ α) {j k : κ} (d : α) (h : j ≠ k) : Tab.get (Tab.drop t k) j d = Tab.get t j d := by
  simp [get_eq_find, find_drop_ne t h]

/-- A table whose values are changed one by one. -/
theorem find_map (t : Tab κ α) (k : κ) (f : α → α) : Tab.find (List.map (fun p => (p.1, f p.2)) t) k = (Tab.find t k).map f := by
  induction t with
  | nil => rfl
  | cons p r ih => obtain ⟨j, w⟩ := p; by_cases h : j = k <;> simp [Tab.find, h, ih]

end Sys2Proof.Laws
end

