-- ==== Sys2Proof/Laws/Memory.lean ====
section
/-! SUPPORT. Memory: what one byte reads as after each memory operation, and that each keeps the canonical form. -/
namespace Sys2Proof.Laws

open Sys2Proof.Machine

/-- The canonical form: addresses strictly rise, and no entry says what an unlisted byte reads as. -/
theorem wf_iff (m : Memory) : m.wf = true ↔ m.Pairwise (fun c d => c.1 < d.1) ∧ ∀ c ∈ m, c.2 ≠ Memory.unlisted := by
  induction m with
  | nil => simp [Memory.wf]
  | cons c r ih =>
    obtain ⟨k, b⟩ := c
    cases r with
    | nil => simp [Memory.wf]
    | cons d r =>
      obtain ⟨j, e⟩ := d
      simp only [Memory.wf, Bool.and_eq_true, bne_iff_ne, ne_eq, decide_eq_true_eq, ih, List.pairwise_cons, List.mem_cons,
        forall_eq_or_imp]
      constructor
      · rintro ⟨⟨h1, h2⟩, ⟨h3, h4⟩, h5, h6⟩
        exact ⟨⟨⟨h2, fun c hc => Nat.lt_trans h2 (h3 c hc)⟩, h3, h4⟩, h1, h5, h6⟩
      · rintro ⟨⟨⟨h2, _⟩, h3, h4⟩, h1, h5, h6⟩
        exact ⟨⟨h1, h2⟩, ⟨h3, h4⟩, h5, h6⟩

/-- An address that no entry lists reads as an unlisted byte. -/
theorem get_unlisted {m : Memory} {a : Nat} (h : ∀ c ∈ m, c.1 ≠ a) : m.get a = Memory.unlisted := by
  induction m with
  | nil => rfl
  | cons c r ih =>
    obtain ⟨k, b⟩ := c
    rw [Memory.get, if_neg (h (k, b) (by simp))]
    exact ih fun d hd => h d (by simp [hd])

/-- Every entry of a `put` is the new one or an old one. -/
theorem mem_put {m : Memory} {k : Nat} {b : Byte} {c : Host.Cell} (h : c ∈ m.put k b) : (c = (k, b) ∧ b ≠ Memory.unlisted) ∨ c ∈ m := by
  induction m with
  | nil =>
    unfold Memory.put at h
    split at h <;> simp_all
  | cons d r ih =>
    obtain ⟨j, e⟩ := d
    unfold Memory.put at h
    split at h
    · split at h
      · exact .inr h
      · rcases List.mem_cons.1 h with h | h
        · exact .inl ⟨h, ‹_›⟩
        · exact .inr h
    · split at h
      · split at h
        · exact .inr (by simp [h])
        · rcases List.mem_cons.1 h with h | h
          · exact .inl ⟨h, ‹_›⟩
          · exact .inr (by simp [h])
      · rcases List.mem_cons.1 h with h | h
        · exact .inr (by simp [h])
        · rcases ih h with h | h
          · exact .inl h
          · exact .inr (by simp [h])

/-- Writing one byte keeps the canonical form. -/
theorem put_wf {m : Memory} (k : Nat) (b : Byte) (h : m.wf = true) : (m.put k b).wf = true := by
  rw [wf_iff] at h ⊢
  refine ⟨?_, fun c hc => ?_⟩
  · obtain ⟨h, -⟩ := h
    induction m with
    | nil => unfold Memory.put; split <;> simp
    | cons d r ih =>
      obtain ⟨j, e⟩ := d
      have hr := List.pairwise_cons.1 h
      unfold Memory.put
      split
      · rename_i hk
        split
        · exact h
        · refine List.pairwise_cons.2 ⟨fun c hc => ?_, h⟩
          rcases List.mem_cons.1 hc with rfl | hc
          · exact hk
          · exact Nat.lt_trans hk (hr.1 c hc)
      · split
        · rename_i hk
          split
          · exact hr.2
          · exact List.pairwise_cons.2 ⟨fun c hc => hk ▸ hr.1 c hc, hr.2⟩
        · refine List.pairwise_cons.2 ⟨fun c hc => ?_, ih hr.2⟩
          rcases mem_put hc with ⟨rfl, -⟩ | hc
          · show j < k; omega
          · exact hr.1 c hc
  · rcases mem_put hc with ⟨rfl, hb⟩ | hc
    · exact hb
    · exact h.2 c hc

/-- What a byte reads as after one byte was written. -/
theorem get_put_byte {m : Memory} (k a : Nat) (b : Byte) (h : m.wf = true) : (m.put k b).get a = if a = k then b else m.get a := by
  rw [wf_iff] at h
  obtain ⟨h, -⟩ := h
  induction m with
  | nil =>
    unfold Memory.put
    split <;> split <;> simp_all [Memory.get, eq_comm]
  | cons d r ih =>
    obtain ⟨j, e⟩ := d
    have hr := List.pairwise_cons.1 h
    have low : a ≤ j → Memory.get r a = Memory.unlisted := fun hl => get_unlisted fun c hc hca => by have := hr.1 c hc; simp only at this; omega
    unfold Memory.put
    by_cases h1 : k < j
    · rw [if_pos h1]
      by_cases h2 : b = Memory.unlisted
      · rw [if_pos h2]
        by_cases h3 : a = k
        · rw [if_pos h3, Memory.get, if_neg (by omega), low (by omega), h2]
        · rw [if_neg h3]
      · rw [if_neg h2, Memory.get]
        by_cases h3 : k = a
        · rw [if_pos h3, if_pos h3.symm]
        · rw [if_neg h3, if_neg (Ne.symm h3)]
    · rw [if_neg h1]
      by_cases h2 : k = j
      · subst h2
        rw [if_pos rfl]
        by_cases h3 : b = Memory.unlisted
        · rw [if_pos h3]
          by_cases h4 : a = k
          · rw [if_pos h4, low (by omega), h3]
          · rw [if_neg h4, Memory.get, if_neg (Ne.symm h4)]
        · rw [if_neg h3, Memory.get]
          by_cases h4 : k = a
          · rw [if_pos h4, if_pos h4.symm]
          · rw [if_neg h4, if_neg (Ne.symm h4), Memory.get, if_neg h4]
      · rw [if_neg h2, Memory.get, Memory.get]
        by_cases h3 : j = a
        · rw [if_pos h3, if_pos h3, if_neg (by omega)]
        · rw [if_neg h3, if_neg h3]
          exact ih hr.2

/-- A write keeps the canonical form. -/
theorem write_wf {m : Memory} (k : Nat) (bs : List Byte) (h : m.wf = true) : (m.write k bs).wf = true := by
  induction bs generalizing m k with
  | nil => exact h
  | cons b r ih => exact ih _ (put_wf k b h)

/-- What a byte reads as after a write. -/
theorem get_write {m : Memory} (k a : Nat) (bs : List Byte) (h : m.wf = true) :
    (m.write k bs).get a = if k ≤ a ∧ a < k + bs.length then bs.getD (a - k) 0 else m.get a := by
  induction bs generalizing m k with
  | nil => rw [if_neg (by rw [List.length_nil]; omega)]; rfl
  | cons b r ih =>
    rw [Memory.write, ih _ (put_wf k b h), get_put_byte k a b h, List.length_cons]
    by_cases e : a = k
    · subst e; rw [if_neg (by omega), if_pos rfl, if_pos (by omega), Nat.sub_self]; rfl
    · rw [if_neg e]
      by_cases e2 : k + 1 ≤ a ∧ a < k + 1 + r.length
      · rw [if_pos e2, if_pos (by omega), show a - k = a - (k + 1) + 1 from by omega]; rfl
      · rw [if_neg e2, if_neg (by omega)]

/-- The bytes a write leaves alone. -/
theorem get_write_out {m : Memory} {k a : Nat} {bs : List Byte} (h : m.wf = true) (ha : a < k ∨ k + bs.length ≤ a) :
    (m.write k bs).get a = m.get a := by rw [get_write k a bs h, if_neg (by omega)]

/-- Reading back what was written. -/
theorem read_write {m : Memory} (k : Nat) (bs : List Byte) (h : m.wf = true) : (m.write k bs).read k bs.length = bs := by
  refine List.ext_getElem (by simp [Memory.read]) fun i h1 h2 => ?_
  simp only [Memory.read, List.getElem_map, List.getElem_range, get_write k _ bs h]
  rw [if_pos (by omega), Nat.add_sub_cancel_left]
  simp [h2]

theorem cells_bounds {k : Nat} {bs : List Byte} {c : Host.Cell} (h : c ∈ Memory.cells k bs) :
    k ≤ c.1 ∧ c.1 < k + bs.length ∧ c.2 ≠ Memory.unlisted := by
  induction bs generalizing k with
  | nil => simp [Memory.cells] at h
  | cons b r ih =>
    rw [List.length_cons]
    unfold Memory.cells at h
    split at h
    · have := ih h; exact ⟨by omega, by omega, this.2.2⟩
    · rcases List.mem_cons.1 h with rfl | h
      · exact ⟨Nat.le_refl _, by simp only; omega, ‹_›⟩
      · have := ih h; exact ⟨by omega, by omega, this.2.2⟩

theorem cells_rise (k : Nat) (bs : List Byte) : (Memory.cells k bs).Pairwise (fun c d => c.1 < d.1) := by
  induction bs generalizing k with
  | nil => simp [Memory.cells]
  | cons b r ih =>
    unfold Memory.cells
    split
    · exact ih _
    · exact List.pairwise_cons.2 ⟨fun c hc => by have := cells_bounds hc; simp only; omega, ih _⟩

theorem get_cells (k a : Nat) (bs : List Byte) :
    (Memory.cells k bs).get a = if k ≤ a ∧ a < k + bs.length then bs.getD (a - k) 0 else Memory.unlisted := by
  induction bs generalizing k with
  | nil => rw [if_neg (by rw [List.length_nil]; omega)]; rfl
  | cons b r ih =>
    rw [List.length_cons]
    unfold Memory.cells
    by_cases e : a = k
    · subst e
      rw [if_pos (show a ≤ a ∧ a < a + (r.length + 1) by omega), Nat.sub_self]
      split
      · rw [ih, if_neg (by omega)]; simp_all
      · simp [Memory.get]
    · have hr : (Memory.cells (k + 1) r).get a =
          if k ≤ a ∧ a < k + (r.length + 1) then (b :: r).getD (a - k) 0 else Memory.unlisted := by
        rw [ih]
        by_cases e2 : k + 1 ≤ a ∧ a < k + 1 + r.length
        · rw [if_pos e2, if_pos (by omega), show a - k = a - (k + 1) + 1 from by omega]; rfl
        · rw [if_neg e2, if_neg (by omega)]
      split
      · exact hr
      · rw [Memory.get, if_neg (Ne.symm e)]; exact hr

theorem get_append (m n : Memory) (a : Nat) : Memory.get (m ++ n) a = if ∃ c ∈ m, c.1 = a then m.get a else n.get a := by
  induction m with
  | nil => simp
  | cons c r ih =>
    obtain ⟨k, b⟩ := c
    rw [List.cons_append, Memory.get, Memory.get]
    by_cases h : k = a
    · rw [if_pos h, if_pos ⟨(k, b), by simp, h⟩, if_pos h]
    · rw [if_neg h, if_neg h, ih]
      simp [h]

theorem get_filter (m : Memory) (p : Nat → Bool) (a : Nat) :
    Memory.get (m.filter (fun c => p c.1)) a = if p a then m.get a else Memory.unlisted := by
  induction m with
  | nil => simp [Memory.get]
  | cons c r ih =>
    obtain ⟨k, b⟩ := c
    rw [List.filter_cons]
    by_cases h : p k
    · rw [if_pos h, Memory.get, Memory.get]
      by_cases e : k = a
      · rw [if_pos e, if_pos e, if_pos (e ▸ h)]
      · rw [if_neg e, if_neg e, ih]
    · rw [if_neg (by simpa using h), ih, Memory.get]
      by_cases e : k = a
      · subst e; simp [h]
      · rw [if_neg e]

/-- Replacing a run of bytes keeps the canonical form. -/
theorem splice_wf {m : Memory} (k : Nat) (bs : List Byte) (h : m.wf = true) : (m.splice k bs).wf = true := by
  rw [wf_iff] at h ⊢
  obtain ⟨h1, h2⟩ := h
  unfold Memory.splice
  refine ⟨?_, fun c hc => ?_⟩
  · simp only [List.pairwise_append, List.mem_append, List.mem_filter, decide_eq_true_eq]
    refine ⟨⟨h1.filter _, cells_rise k bs, fun c hc d hd => ?_⟩, h1.filter _, fun c hc d hd => ?_⟩
    · have := cells_bounds hd; omega
    · rcases hc with hc | hc
      · omega
      · have := cells_bounds hc; omega
  · simp only [List.mem_append, List.mem_filter, decide_eq_true_eq] at hc
    rcases hc with (hc | hc) | hc
    · exact h2 c hc.1
    · exact (cells_bounds hc).2.2
    · exact h2 c hc.1

/-- What a byte reads as after a run of bytes was replaced. -/
theorem get_splice (m : Memory) (k a : Nat) (bs : List Byte) :
    (m.splice k bs).get a = if k ≤ a ∧ a < k + bs.length then bs.getD (a - k) 0 else m.get a := by
  have fl : Memory.get (m.filter (fun c => c.1 < k)) a = if a < k then m.get a else Memory.unlisted := by
    simpa using get_filter m (fun x => decide (x < k)) a
  have fh : Memory.get (m.filter (fun c => k + bs.length ≤ c.1)) a = if k + bs.length ≤ a then m.get a else Memory.unlisted := by
    simpa using get_filter m (fun x => decide (k + bs.length ≤ x)) a
  rw [Memory.splice, List.append_assoc, get_append, get_append, fl, fh, get_cells]
  by_cases e1 : ∃ c ∈ m.filter (fun c => c.1 < k), c.1 = a
  · obtain ⟨c, hc, rfl⟩ := e1
    have hk : c.1 < k := by simpa using (List.mem_filter.1 hc).2
    rw [if_pos ⟨c, hc, rfl⟩, if_pos hk, if_neg (by omega)]
  · rw [if_neg e1]
    have lo : a < k → m.get a = Memory.unlisted := fun hk => get_unlisted fun c hc e =>
      e1 ⟨c, List.mem_filter.2 ⟨hc, by simpa [e] using hk⟩, e⟩
    by_cases e2 : ∃ c ∈ Memory.cells k bs, c.1 = a
    · obtain ⟨c, hc, rfl⟩ := e2
      have := cells_bounds hc
      rw [if_pos ⟨c, hc, rfl⟩, if_pos (by omega)]
      exact (if_pos (by omega)).symm
    · rw [if_neg e2]
      have mid : k ≤ a ∧ a < k + bs.length → bs.getD (a - k) 0 = Memory.unlisted := fun hh => by
        have := get_cells k a bs
        rw [if_pos hh, get_unlisted (fun c hc e => e2 ⟨c, hc, e⟩)] at this
        exact this.symm
      by_cases h1 : k ≤ a ∧ a < k + bs.length
      · rw [if_pos h1, if_neg (by omega), mid h1]
      · rw [if_neg h1]
        by_cases h2 : k + bs.length ≤ a
        · rw [if_pos h2]
        · rw [if_neg h2, lo (by omega)]

/-- Two memories in canonical form that read alike are equal. -/
theorem memory_ext {m n : Memory} (hm : m.wf = true) (hn : n.wf = true) (h : ∀ a, m.get a = n.get a) : m = n := by
  rw [wf_iff] at hm hn
  have inM : ∀ {l : Memory}, l.Pairwise (fun c d => c.1 < d.1) → (∀ c ∈ l, c.2 ≠ Memory.unlisted) → ∀ c : Host.Cell,
      c ∈ l ↔ l.get c.1 = c.2 ∧ c.2 ≠ Memory.unlisted := by
    intro l hl hu c
    obtain ⟨a, b⟩ := c
    induction l with
    | nil => simp [Memory.get, eq_comm]
    | cons d r ih =>
      obtain ⟨j, e⟩ := d
      have hr := List.pairwise_cons.1 hl
      have hu' := hu (j, e) (by simp)
      simp only [List.mem_cons, Prod.mk.injEq, Memory.get]
      by_cases hj : j = a
      · subst hj
        rw [if_pos rfl]
        constructor
        · rintro (⟨-, rfl⟩ | hm)
          · exact ⟨rfl, hu'⟩
          · exact absurd (hr.1 _ hm) (by simp)
        · rintro ⟨rfl, -⟩; exact .inl ⟨rfl, rfl⟩
      · rw [if_neg hj, ← ih hr.2 (fun c hc => hu c (by simp [hc]))]
        constructor
        · rintro (⟨rfl, -⟩ | hm)
          · exact absurd rfl hj
          · exact hm
        · exact .inr
  have hs : ∀ c, c ∈ m ↔ c ∈ n := fun c => by rw [inM hm.1 hm.2, inM hn.1 hn.2, h]
  have nd : ∀ {l : Memory}, l.Pairwise (fun c d => c.1 < d.1) → l.Nodup := fun hl => hl.imp fun {a b} hab e => by
    subst e; exact Nat.lt_irrefl _ hab
  refine List.Perm.eq_of_pairwise (le := fun c d => c.1 < d.1) (fun a b _ _ h1 h2 => absurd h1 (by omega)) hm.1 hn.1 ?_
  exact (List.perm_ext_iff_of_nodup (nd hm.1) (nd hn.1)).2 hs

variable (s : State)

/-- A store to a memory that is not encrypted. -/
theorem storeFlat_wf {s : State} (k : Nat) (bs : List Byte) (h : s.mem.wf = true) : (s.storeFlat k bs).mem.wf = true := write_wf k bs h
theorem get_storeFlat {s : State} (k a : Nat) (bs : List Byte) (h : s.mem.wf = true) :
    (s.storeFlat k bs).mem.get a = if k ≤ a ∧ a < k + bs.length then bs.getD (a - k) 0 else s.mem.get a := get_write k a bs h

theorem rekey_wf {s : State} (key line : Nat) (h : s.mem.wf = true) : (s.rekey key line).mem.wf = true := by
  unfold State.rekey
  split
  · split
    · exact h
    · dsimp only; generalize s.pkgRead key (64 * line) 64 = bs; exact write_wf _ bs h
  · exact h

theorem rekeys_wf {s : State} (key : Nat) (ls : List Nat) (h : s.mem.wf = true) :
    (ls.foldl (fun s l => s.rekey key l) s).mem.wf = true := by
  induction ls generalizing s with
  | nil => exact h
  | cons l r ih => exact ih (rekey_wf key l h)

/-- A store to package memory. -/
theorem pkgStore_wf {s : State} (key a : Nat) (bs : List Byte) (h : s.mem.wf = true) : (s.pkgStore key a bs).mem.wf = true :=
  storeFlat_wf _ _ (rekeys_wf _ _ h)
theorem sysStore_wf {s : State} (a : Nat) (bs : List Byte) (h : s.mem.wf = true) : (s.sysStore a bs).mem.wf = true :=
  pkgStore_wf _ _ _ h

/-- A line of package memory is under the key it was last rekeyed to. -/
theorem lineKey_rekey (key line : Nat) : (s.rekey key line).lineKey.find line = some key := by
  unfold State.rekey
  split
  · split
    · simp_all
    · simp
  · simp
theorem lineKey_rekey_ne (key : Nat) {line l : Nat} (h : l ≠ line) : (s.rekey key line).lineKey.find l = s.lineKey.find l := by
  unfold State.rekey
  split
  · split
    · rfl
    · exact find_put_ne _ _ h
  · exact find_put_ne _ _ h

theorem lineKey_rekeys (key : Nat) (ls : List Nat) (l : Nat) :
    (ls.foldl (fun s l => s.rekey key l) s).lineKey.find l = if l ∈ ls then some key else s.lineKey.find l := by
  induction ls generalizing s with
  | nil => simp
  | cons x r ih =>
    rw [List.foldl_cons, ih]
    by_cases h : l ∈ r
    · simp [h]
    · rw [if_neg h]
      by_cases e : l = x
      · subst e; simp [lineKey_rekey]
      · simp [h, e, lineKey_rekey_ne s key e]

/-- What was stored under a key reads back under that key. -/
theorem pkgRead_pkgStore {s : State} (key a : Nat) (bs : List Byte) (h : s.mem.wf = true) :
    (s.pkgStore key a bs).pkgRead key a bs.length = bs := by
  refine List.ext_getElem (by simp [State.pkgRead]) fun i h1 h2 => ?_
  have hl : (s.pkgStore key a bs).lineKey.find ((a + i) / 64) = some key := by
    show (((granulesOf a bs.length).foldl (fun s l => s.rekey key l) s)).lineKey.find _ = _
    rw [lineKey_rekeys, if_pos]
    unfold granulesOf
    rw [if_neg (by omega), List.mem_map]
    exact ⟨(a + i) / 64 - a / 64, List.mem_range.2 (by omega), by omega⟩
  simp only [State.pkgRead, List.getElem_map, List.getElem_range, State.pkgByte, hl, if_true]
  rw [State.pkgStore, get_storeFlat _ _ _ (rekeys_wf _ _ h), if_pos (by omega), Nat.add_sub_cancel_left]
  simp [h2]

/-- The little-endian bytes of a number (R6). -/
@[simp] theorem length_bytesOf (x k : Nat) : (bytesOf x k).length = k := by
  induction k generalizing x with
  | zero => rfl
  | succ k ih => rw [bytesOf, List.length_cons, ih]
theorem ofBytes_bytesOf (x k : Nat) : ofBytes (bytesOf x k) = x % 256 ^ k := by
  induction k generalizing x with
  | zero => simp [bytesOf, ofBytes, Nat.mod_one]
  | succ k ih =>
    rw [bytesOf, ofBytes, ih, BitVec.toNat_ofNat, show 256 ^ (k + 1) = 256 * 256 ^ k from by rw [Nat.pow_succ, Nat.mul_comm], Nat.mod_mul]
theorem getD_bytesOf (x k i : Nat) (h : i < k) : (bytesOf x k).getD i 0 = BitVec.ofNat 8 (x / 256 ^ i) := by
  induction k generalizing x i with
  | zero => omega
  | succ k ih =>
    cases i with
    | zero => simp [bytesOf]
    | succ i =>
      rw [bytesOf, List.getD_cons_succ, ih _ _ (by omega), Nat.div_div_eq_div_mul, Nat.pow_succ, Nat.mul_comm]
/-- A run of the bytes of package memory is the read of that run. -/
theorem slice_pkgRead (t : State) (key k m a n : Nat) (h : a + n ≤ m) :
    ((t.pkgRead key k m).drop a).take n = t.pkgRead key (k + a) n := by
  refine List.ext_getElem (by simp [State.pkgRead]; omega) fun i h1 h2 => ?_
  simp [State.pkgRead, Nat.add_assoc]

end Sys2Proof.Laws
end

