-- ==== Sys2Proof/Laws/State.lean ====
section
/-! SUPPORT. What the updates of the state leave: one lemma for each field that an update does not name, and what a named part reads
as after its update. -/
namespace Sys2Proof.Laws

open Sys2Proof Sys2Proof.Machine

variable (s : State)

/-- What an update of an issuer leaves: all that an update of one core or of the sequencers leaves. -/
theorem updIssuer_cases (w : Who) (f : Issuer → Issuer) : (s.updIssuer w f = s) ∨ (∃ n g, s.updIssuer w f = s.updCore n g) ∨
    ∃ t, s.updIssuer w f = { s with seqs := t } := by
  have q : ∀ w, s.updSeq w f = s ∨ ∃ t, s.updSeq w f = { s with seqs := t } := by
    intro w
    unfold State.updSeq
    split
    · exact .inl rfl
    · exact .inr ⟨_, rfl⟩
  cases w <;> simp only [State.updIssuer]
  · split
    · exact .inl rfl
    · exact .inr (.inl ⟨_, _, rfl⟩)
  · split
    · exact .inl rfl
    · exact .inr (.inl ⟨_, _, rfl⟩)
  all_goals exact (q _).imp_right .inr

@[simp] theorem updCore_mem (n : Nat) (f : Core → Core) : (s.updCore n f).mem = s.mem := rfl
@[simp] theorem updCore_poison (n : Nat) (f : Core → Core) : (s.updCore n f).poison = s.poison := rfl
@[simp] theorem updCore_lineKey (n : Nat) (f : Core → Core) : (s.updCore n f).lineKey = s.lineKey := rfl
@[simp] theorem updCore_cycles (n : Nat) (f : Core → Core) : (s.updCore n f).cycles = s.cycles := rfl
@[simp] theorem updCore_tb (n : Nat) (f : Core → Core) : (s.updCore n f).tb = s.tb := rfl
@[simp] theorem updCore_tbcfg (n : Nat) (f : Core → Core) : (s.updCore n f).tbcfg = s.tbcfg := rfl
@[simp] theorem updCore_tbOffset (n : Nat) (f : Core → Core) : (s.updCore n f).tbOffset = s.tbOffset := rfl
@[simp] theorem updCore_tbLocked (n : Nat) (f : Core → Core) : (s.updCore n f).tbLocked = s.tbLocked := rfl
@[simp] theorem updCore_masters (n : Nat) (f : Core → Core) : (s.updCore n f).masters = s.masters := rfl
@[simp] theorem updCore_clusters (n : Nat) (f : Core → Core) : (s.updCore n f).clusters = s.clusters := rfl
@[simp] theorem updCore_dies (n : Nat) (f : Core → Core) : (s.updCore n f).dies = s.dies := rfl
@[simp] theorem updCore_seqs (n : Nat) (f : Core → Core) : (s.updCore n f).seqs = s.seqs := rfl
@[simp] theorem updCore_bars (n : Nat) (f : Core → Core) : (s.updCore n f).bars = s.bars := rfl
@[simp] theorem updCore_lines (n : Nat) (f : Core → Core) : (s.updCore n f).lines = s.lines := rfl
@[simp] theorem updCore_copies (n : Nat) (f : Core → Core) : (s.updCore n f).copies = s.copies := rfl
@[simp] theorem updCore_pots (n : Nat) (f : Core → Core) : (s.updCore n f).pots = s.pots := rfl
@[simp] theorem updCore_inserts (n : Nat) (f : Core → Core) : (s.updCore n f).inserts = s.inserts := rfl
@[simp] theorem updCore_pendArms (n : Nat) (f : Core → Core) : (s.updCore n f).pendArms = s.pendArms := rfl
@[simp] theorem updCore_images (n : Nat) (f : Core → Core) : (s.updCore n f).images = s.images := rfl
@[simp] theorem updCore_ctxs (n : Nat) (f : Core → Core) : (s.updCore n f).ctxs = s.ctxs := rfl
@[simp] theorem updCore_nextKey (n : Nat) (f : Core → Core) : (s.updCore n f).nextKey = s.nextKey := rfl
@[simp] theorem updCore_ctxbase (n : Nat) (f : Core → Core) : (s.updCore n f).ctxbase = s.ctxbase := rfl
@[simp] theorem updCore_ctxErr (n : Nat) (f : Core → Core) : (s.updCore n f).ctxErr = s.ctxErr := rfl
@[simp] theorem updCore_pwrcap (n : Nat) (f : Core → Core) : (s.updCore n f).pwrcap = s.pwrcap := rfl
@[simp] theorem updCore_suspst (n : Nat) (f : Core → Core) : (s.updCore n f).suspst = s.suspst := rfl
@[simp] theorem updCore_suspends (n : Nat) (f : Core → Core) : (s.updCore n f).suspends = s.suspends := rfl
@[simp] theorem updCore_suspendAt (n : Nat) (f : Core → Core) : (s.updCore n f).suspendAt = s.suspendAt := rfl
@[simp] theorem updCore_stopped (n : Nat) (f : Core → Core) : (s.updCore n f).stopped = s.stopped := rfl
@[simp] theorem updCore_jbase (n : Nat) (f : Core → Core) : (s.updCore n f).jbase = s.jbase := rfl
@[simp] theorem updCore_jsize (n : Nat) (f : Core → Core) : (s.updCore n f).jsize = s.jsize := rfl
@[simp] theorem updCore_jwr (n : Nat) (f : Core → Core) : (s.updCore n f).jwr = s.jwr := rfl
@[simp] theorem updCore_jrd (n : Nat) (f : Core → Core) : (s.updCore n f).jrd = s.jrd := rfl
@[simp] theorem updCore_scrub (n : Nat) (f : Core → Core) : (s.updCore n f).scrub = s.scrub := rfl
@[simp] theorem updCore_ecccor (n : Nat) (f : Core → Core) : (s.updCore n f).ecccor = s.ecccor := rfl
@[simp] theorem updCore_tinvDone (n : Nat) (f : Core → Core) : (s.updCore n f).tinvDone = s.tinvDone := rfl
@[simp] theorem updCore_queues (n : Nat) (f : Core → Core) : (s.updCore n f).queues = s.queues := rfl
@[simp] theorem updCore_packets (n : Nat) (f : Core → Core) : (s.updCore n f).packets = s.packets := rfl
@[simp] theorem updCore_stops (n : Nat) (f : Core → Core) : (s.updCore n f).stops = s.stops := rfl
@[simp] theorem updCore_pelog (n : Nat) (f : Core → Core) : (s.updCore n f).pelog = s.pelog := rfl
@[simp] theorem updCore_pelHead (n : Nat) (f : Core → Core) : (s.updCore n f).pelHead = s.pelHead := rfl
@[simp] theorem updCore_pelOvf (n : Nat) (f : Core → Core) : (s.updCore n f).pelOvf = s.pelOvf := rfl
@[simp] theorem updCore_measure (n : Nat) (f : Core → Core) : (s.updCore n f).measure = s.measure := rfl
@[simp] theorem updCore_recovery (n : Nat) (f : Core → Core) : (s.updCore n f).recovery = s.recovery := rfl
@[simp] theorem updCore_power (n : Nat) (f : Core → Core) : (s.updCore n f).power = s.power := rfl
@[simp] theorem updCore_clockStep (n : Nat) (f : Core → Core) : (s.updCore n f).clockStep = s.clockStep := rfl
@[simp] theorem updCore_linkMode (n : Nat) (f : Core → Core) : (s.updCore n f).linkMode = s.linkMode := rfl
@[simp] theorem updCore_linkWidth (n : Nat) (f : Core → Core) : (s.updCore n f).linkWidth = s.linkWidth := rfl
@[simp] theorem updCore_answers (n : Nat) (f : Core → Core) : (s.updCore n f).answers = s.answers := rfl
@[simp] theorem updCore_hostOut (n : Nat) (f : Core → Core) : (s.updCore n f).hostOut = s.hostOut := rfl
@[simp] theorem updCore_msi (n : Nat) (f : Core → Core) : (s.updCore n f).msi = s.msi := rfl
@[simp] theorem updCore_fabid (n : Nat) (f : Core → Core) : (s.updCore n f).fabid = s.fabid := rfl
@[simp] theorem updCore_rtime (n : Nat) (f : Core → Core) : (s.updCore n f).rtime = s.rtime := rfl
@[simp] theorem updCore_adapt (n : Nat) (f : Core → Core) : (s.updCore n f).adapt = s.adapt := rfl
@[simp] theorem updCore_expbase (n : Nat) (f : Core → Core) : (s.updCore n f).expbase = s.expbase := rfl
@[simp] theorem updCore_refused (n : Nat) (f : Core → Core) : (s.updCore n f).refused = s.refused := rfl
@[simp] theorem updCore_retried (n : Nat) (f : Core → Core) : (s.updCore n f).retried = s.retried := rfl
@[simp] theorem updCore_podroot (n : Nat) (f : Core → Core) : (s.updCore n f).podroot = s.podroot := rfl
@[simp] theorem updCore_fxBusy (n : Nat) (f : Core → Core) : (s.updCore n f).fxBusy = s.fxBusy := rfl
@[simp] theorem updCore_ports (n : Nat) (f : Core → Core) : (s.updCore n f).ports = s.ports := rfl
@[simp] theorem updCore_rtent (n : Nat) (f : Core → Core) : (s.updCore n f).rtent = s.rtent := rfl
@[simp] theorem updCore_impbase (n : Nat) (f : Core → Core) : (s.updCore n f).impbase = s.impbase := rfl
@[simp] theorem updCore_outbox (n : Nat) (f : Core → Core) : (s.updCore n f).outbox = s.outbox := rfl
@[simp] theorem updCore_reqs (n : Nat) (f : Core → Core) : (s.updCore n f).reqs = s.reqs := rfl
@[simp] theorem updCore_nextTid (n : Nat) (f : Core → Core) : (s.updCore n f).nextTid = s.nextTid := rfl
@[simp] theorem updCore_held (n : Nat) (f : Core → Core) : (s.updCore n f).held = s.held := rfl
@[simp] theorem updCore_agenda (n : Nat) (f : Core → Core) : (s.updCore n f).agenda = s.agenda := rfl
@[simp] theorem updCore_cur (n : Nat) (f : Core → Core) : (s.updCore n f).cur = s.cur := rfl
@[simp] theorem updCore_ev (n : Nat) (f : Core → Core) : (s.updCore n f).ev = s.ev := rfl
@[simp] theorem updCore_evs (n : Nat) (f : Core → Core) : (s.updCore n f).evs = s.evs := rfl
@[simp] theorem updCore_svOld (n : Nat) (f : Core → Core) : (s.updCore n f).svOld = s.svOld := rfl
@[simp] theorem updCore_nextId (n : Nat) (f : Core → Core) : (s.updCore n f).nextId = s.nextId := rfl
@[simp] theorem updCore_draws (n : Nat) (f : Core → Core) : (s.updCore n f).draws = s.draws := rfl

@[simp] theorem updDie_mem (n : Nat) (f : Die → Die) : (s.updDie n f).mem = s.mem := rfl
@[simp] theorem updDie_poison (n : Nat) (f : Die → Die) : (s.updDie n f).poison = s.poison := rfl
@[simp] theorem updDie_lineKey (n : Nat) (f : Die → Die) : (s.updDie n f).lineKey = s.lineKey := rfl
@[simp] theorem updDie_cycles (n : Nat) (f : Die → Die) : (s.updDie n f).cycles = s.cycles := rfl
@[simp] theorem updDie_tb (n : Nat) (f : Die → Die) : (s.updDie n f).tb = s.tb := rfl
@[simp] theorem updDie_tbcfg (n : Nat) (f : Die → Die) : (s.updDie n f).tbcfg = s.tbcfg := rfl
@[simp] theorem updDie_tbOffset (n : Nat) (f : Die → Die) : (s.updDie n f).tbOffset = s.tbOffset := rfl
@[simp] theorem updDie_tbLocked (n : Nat) (f : Die → Die) : (s.updDie n f).tbLocked = s.tbLocked := rfl
@[simp] theorem updDie_masters (n : Nat) (f : Die → Die) : (s.updDie n f).masters = s.masters := rfl
@[simp] theorem updDie_cores (n : Nat) (f : Die → Die) : (s.updDie n f).cores = s.cores := rfl
@[simp] theorem updDie_clusters (n : Nat) (f : Die → Die) : (s.updDie n f).clusters = s.clusters := rfl
@[simp] theorem updDie_seqs (n : Nat) (f : Die → Die) : (s.updDie n f).seqs = s.seqs := rfl
@[simp] theorem updDie_bars (n : Nat) (f : Die → Die) : (s.updDie n f).bars = s.bars := rfl
@[simp] theorem updDie_lines (n : Nat) (f : Die → Die) : (s.updDie n f).lines = s.lines := rfl
@[simp] theorem updDie_copies (n : Nat) (f : Die → Die) : (s.updDie n f).copies = s.copies := rfl
@[simp] theorem updDie_pots (n : Nat) (f : Die → Die) : (s.updDie n f).pots = s.pots := rfl
@[simp] theorem updDie_inserts (n : Nat) (f : Die → Die) : (s.updDie n f).inserts = s.inserts := rfl
@[simp] theorem updDie_pendArms (n : Nat) (f : Die → Die) : (s.updDie n f).pendArms = s.pendArms := rfl
@[simp] theorem updDie_images (n : Nat) (f : Die → Die) : (s.updDie n f).images = s.images := rfl
@[simp] theorem updDie_ctxs (n : Nat) (f : Die → Die) : (s.updDie n f).ctxs = s.ctxs := rfl
@[simp] theorem updDie_nextKey (n : Nat) (f : Die → Die) : (s.updDie n f).nextKey = s.nextKey := rfl
@[simp] theorem updDie_ctxbase (n : Nat) (f : Die → Die) : (s.updDie n f).ctxbase = s.ctxbase := rfl
@[simp] theorem updDie_ctxErr (n : Nat) (f : Die → Die) : (s.updDie n f).ctxErr = s.ctxErr := rfl
@[simp] theorem updDie_pwrcap (n : Nat) (f : Die → Die) : (s.updDie n f).pwrcap = s.pwrcap := rfl
@[simp] theorem updDie_suspst (n : Nat) (f : Die → Die) : (s.updDie n f).suspst = s.suspst := rfl
@[simp] theorem updDie_suspends (n : Nat) (f : Die → Die) : (s.updDie n f).suspends = s.suspends := rfl
@[simp] theorem updDie_suspendAt (n : Nat) (f : Die → Die) : (s.updDie n f).suspendAt = s.suspendAt := rfl
@[simp] theorem updDie_stopped (n : Nat) (f : Die → Die) : (s.updDie n f).stopped = s.stopped := rfl
@[simp] theorem updDie_jbase (n : Nat) (f : Die → Die) : (s.updDie n f).jbase = s.jbase := rfl
@[simp] theorem updDie_jsize (n : Nat) (f : Die → Die) : (s.updDie n f).jsize = s.jsize := rfl
@[simp] theorem updDie_jwr (n : Nat) (f : Die → Die) : (s.updDie n f).jwr = s.jwr := rfl
@[simp] theorem updDie_jrd (n : Nat) (f : Die → Die) : (s.updDie n f).jrd = s.jrd := rfl
@[simp] theorem updDie_scrub (n : Nat) (f : Die → Die) : (s.updDie n f).scrub = s.scrub := rfl
@[simp] theorem updDie_ecccor (n : Nat) (f : Die → Die) : (s.updDie n f).ecccor = s.ecccor := rfl
@[simp] theorem updDie_tinvDone (n : Nat) (f : Die → Die) : (s.updDie n f).tinvDone = s.tinvDone := rfl
@[simp] theorem updDie_queues (n : Nat) (f : Die → Die) : (s.updDie n f).queues = s.queues := rfl
@[simp] theorem updDie_packets (n : Nat) (f : Die → Die) : (s.updDie n f).packets = s.packets := rfl
@[simp] theorem updDie_stops (n : Nat) (f : Die → Die) : (s.updDie n f).stops = s.stops := rfl
@[simp] theorem updDie_pelog (n : Nat) (f : Die → Die) : (s.updDie n f).pelog = s.pelog := rfl
@[simp] theorem updDie_pelHead (n : Nat) (f : Die → Die) : (s.updDie n f).pelHead = s.pelHead := rfl
@[simp] theorem updDie_pelOvf (n : Nat) (f : Die → Die) : (s.updDie n f).pelOvf = s.pelOvf := rfl
@[simp] theorem updDie_measure (n : Nat) (f : Die → Die) : (s.updDie n f).measure = s.measure := rfl
@[simp] theorem updDie_recovery (n : Nat) (f : Die → Die) : (s.updDie n f).recovery = s.recovery := rfl
@[simp] theorem updDie_power (n : Nat) (f : Die → Die) : (s.updDie n f).power = s.power := rfl
@[simp] theorem updDie_clockStep (n : Nat) (f : Die → Die) : (s.updDie n f).clockStep = s.clockStep := rfl
@[simp] theorem updDie_linkMode (n : Nat) (f : Die → Die) : (s.updDie n f).linkMode = s.linkMode := rfl
@[simp] theorem updDie_linkWidth (n : Nat) (f : Die → Die) : (s.updDie n f).linkWidth = s.linkWidth := rfl
@[simp] theorem updDie_answers (n : Nat) (f : Die → Die) : (s.updDie n f).answers = s.answers := rfl
@[simp] theorem updDie_hostOut (n : Nat) (f : Die → Die) : (s.updDie n f).hostOut = s.hostOut := rfl
@[simp] theorem updDie_msi (n : Nat) (f : Die → Die) : (s.updDie n f).msi = s.msi := rfl
@[simp] theorem updDie_fabid (n : Nat) (f : Die → Die) : (s.updDie n f).fabid = s.fabid := rfl
@[simp] theorem updDie_rtime (n : Nat) (f : Die → Die) : (s.updDie n f).rtime = s.rtime := rfl
@[simp] theorem updDie_adapt (n : Nat) (f : Die → Die) : (s.updDie n f).adapt = s.adapt := rfl
@[simp] theorem updDie_expbase (n : Nat) (f : Die → Die) : (s.updDie n f).expbase = s.expbase := rfl
@[simp] theorem updDie_refused (n : Nat) (f : Die → Die) : (s.updDie n f).refused = s.refused := rfl
@[simp] theorem updDie_retried (n : Nat) (f : Die → Die) : (s.updDie n f).retried = s.retried := rfl
@[simp] theorem updDie_podroot (n : Nat) (f : Die → Die) : (s.updDie n f).podroot = s.podroot := rfl
@[simp] theorem updDie_fxBusy (n : Nat) (f : Die → Die) : (s.updDie n f).fxBusy = s.fxBusy := rfl
@[simp] theorem updDie_ports (n : Nat) (f : Die → Die) : (s.updDie n f).ports = s.ports := rfl
@[simp] theorem updDie_rtent (n : Nat) (f : Die → Die) : (s.updDie n f).rtent = s.rtent := rfl
@[simp] theorem updDie_impbase (n : Nat) (f : Die → Die) : (s.updDie n f).impbase = s.impbase := rfl
@[simp] theorem updDie_outbox (n : Nat) (f : Die → Die) : (s.updDie n f).outbox = s.outbox := rfl
@[simp] theorem updDie_reqs (n : Nat) (f : Die → Die) : (s.updDie n f).reqs = s.reqs := rfl
@[simp] theorem updDie_nextTid (n : Nat) (f : Die → Die) : (s.updDie n f).nextTid = s.nextTid := rfl
@[simp] theorem updDie_held (n : Nat) (f : Die → Die) : (s.updDie n f).held = s.held := rfl
@[simp] theorem updDie_agenda (n : Nat) (f : Die → Die) : (s.updDie n f).agenda = s.agenda := rfl
@[simp] theorem updDie_cur (n : Nat) (f : Die → Die) : (s.updDie n f).cur = s.cur := rfl
@[simp] theorem updDie_ev (n : Nat) (f : Die → Die) : (s.updDie n f).ev = s.ev := rfl
@[simp] theorem updDie_evs (n : Nat) (f : Die → Die) : (s.updDie n f).evs = s.evs := rfl
@[simp] theorem updDie_svOld (n : Nat) (f : Die → Die) : (s.updDie n f).svOld = s.svOld := rfl
@[simp] theorem updDie_nextId (n : Nat) (f : Die → Die) : (s.updDie n f).nextId = s.nextId := rfl
@[simp] theorem updDie_draws (n : Nat) (f : Die → Die) : (s.updDie n f).draws = s.draws := rfl

@[simp] theorem updCtx_mem (n : Nat) (f : Ctx → Ctx) : (s.updCtx n f).mem = s.mem := rfl
@[simp] theorem updCtx_poison (n : Nat) (f : Ctx → Ctx) : (s.updCtx n f).poison = s.poison := rfl
@[simp] theorem updCtx_lineKey (n : Nat) (f : Ctx → Ctx) : (s.updCtx n f).lineKey = s.lineKey := rfl
@[simp] theorem updCtx_cycles (n : Nat) (f : Ctx → Ctx) : (s.updCtx n f).cycles = s.cycles := rfl
@[simp] theorem updCtx_tb (n : Nat) (f : Ctx → Ctx) : (s.updCtx n f).tb = s.tb := rfl
@[simp] theorem updCtx_tbcfg (n : Nat) (f : Ctx → Ctx) : (s.updCtx n f).tbcfg = s.tbcfg := rfl
@[simp] theorem updCtx_tbOffset (n : Nat) (f : Ctx → Ctx) : (s.updCtx n f).tbOffset = s.tbOffset := rfl
@[simp] theorem updCtx_tbLocked (n : Nat) (f : Ctx → Ctx) : (s.updCtx n f).tbLocked = s.tbLocked := rfl
@[simp] theorem updCtx_masters (n : Nat) (f : Ctx → Ctx) : (s.updCtx n f).masters = s.masters := rfl
@[simp] theorem updCtx_cores (n : Nat) (f : Ctx → Ctx) : (s.updCtx n f).cores = s.cores := rfl
@[simp] theorem updCtx_clusters (n : Nat) (f : Ctx → Ctx) : (s.updCtx n f).clusters = s.clusters := rfl
@[simp] theorem updCtx_dies (n : Nat) (f : Ctx → Ctx) : (s.updCtx n f).dies = s.dies := rfl
@[simp] theorem updCtx_seqs (n : Nat) (f : Ctx → Ctx) : (s.updCtx n f).seqs = s.seqs := rfl
@[simp] theorem updCtx_bars (n : Nat) (f : Ctx → Ctx) : (s.updCtx n f).bars = s.bars := rfl
@[simp] theorem updCtx_lines (n : Nat) (f : Ctx → Ctx) : (s.updCtx n f).lines = s.lines := rfl
@[simp] theorem updCtx_copies (n : Nat) (f : Ctx → Ctx) : (s.updCtx n f).copies = s.copies := rfl
@[simp] theorem updCtx_pots (n : Nat) (f : Ctx → Ctx) : (s.updCtx n f).pots = s.pots := rfl
@[simp] theorem updCtx_inserts (n : Nat) (f : Ctx → Ctx) : (s.updCtx n f).inserts = s.inserts := rfl
@[simp] theorem updCtx_pendArms (n : Nat) (f : Ctx → Ctx) : (s.updCtx n f).pendArms = s.pendArms := rfl
@[simp] theorem updCtx_images (n : Nat) (f : Ctx → Ctx) : (s.updCtx n f).images = s.images := rfl
@[simp] theorem updCtx_nextKey (n : Nat) (f : Ctx → Ctx) : (s.updCtx n f).nextKey = s.nextKey := rfl
@[simp] theorem updCtx_ctxbase (n : Nat) (f : Ctx → Ctx) : (s.updCtx n f).ctxbase = s.ctxbase := rfl
@[simp] theorem updCtx_ctxErr (n : Nat) (f : Ctx → Ctx) : (s.updCtx n f).ctxErr = s.ctxErr := rfl
@[simp] theorem updCtx_pwrcap (n : Nat) (f : Ctx → Ctx) : (s.updCtx n f).pwrcap = s.pwrcap := rfl
@[simp] theorem updCtx_suspst (n : Nat) (f : Ctx → Ctx) : (s.updCtx n f).suspst = s.suspst := rfl
@[simp] theorem updCtx_suspends (n : Nat) (f : Ctx → Ctx) : (s.updCtx n f).suspends = s.suspends := rfl
@[simp] theorem updCtx_suspendAt (n : Nat) (f : Ctx → Ctx) : (s.updCtx n f).suspendAt = s.suspendAt := rfl
@[simp] theorem updCtx_stopped (n : Nat) (f : Ctx → Ctx) : (s.updCtx n f).stopped = s.stopped := rfl
@[simp] theorem updCtx_jbase (n : Nat) (f : Ctx → Ctx) : (s.updCtx n f).jbase = s.jbase := rfl
@[simp] theorem updCtx_jsize (n : Nat) (f : Ctx → Ctx) : (s.updCtx n f).jsize = s.jsize := rfl
@[simp] theorem updCtx_jwr (n : Nat) (f : Ctx → Ctx) : (s.updCtx n f).jwr = s.jwr := rfl
@[simp] theorem updCtx_jrd (n : Nat) (f : Ctx → Ctx) : (s.updCtx n f).jrd = s.jrd := rfl
@[simp] theorem updCtx_scrub (n : Nat) (f : Ctx → Ctx) : (s.updCtx n f).scrub = s.scrub := rfl
@[simp] theorem updCtx_ecccor (n : Nat) (f : Ctx → Ctx) : (s.updCtx n f).ecccor = s.ecccor := rfl
@[simp] theorem updCtx_tinvDone (n : Nat) (f : Ctx → Ctx) : (s.updCtx n f).tinvDone = s.tinvDone := rfl
@[simp] theorem updCtx_queues (n : Nat) (f : Ctx → Ctx) : (s.updCtx n f).queues = s.queues := rfl
@[simp] theorem updCtx_packets (n : Nat) (f : Ctx → Ctx) : (s.updCtx n f).packets = s.packets := rfl
@[simp] theorem updCtx_stops (n : Nat) (f : Ctx → Ctx) : (s.updCtx n f).stops = s.stops := rfl
@[simp] theorem updCtx_pelog (n : Nat) (f : Ctx → Ctx) : (s.updCtx n f).pelog = s.pelog := rfl
@[simp] theorem updCtx_pelHead (n : Nat) (f : Ctx → Ctx) : (s.updCtx n f).pelHead = s.pelHead := rfl
@[simp] theorem updCtx_pelOvf (n : Nat) (f : Ctx → Ctx) : (s.updCtx n f).pelOvf = s.pelOvf := rfl
@[simp] theorem updCtx_measure (n : Nat) (f : Ctx → Ctx) : (s.updCtx n f).measure = s.measure := rfl
@[simp] theorem updCtx_recovery (n : Nat) (f : Ctx → Ctx) : (s.updCtx n f).recovery = s.recovery := rfl
@[simp] theorem updCtx_power (n : Nat) (f : Ctx → Ctx) : (s.updCtx n f).power = s.power := rfl
@[simp] theorem updCtx_clockStep (n : Nat) (f : Ctx → Ctx) : (s.updCtx n f).clockStep = s.clockStep := rfl
@[simp] theorem updCtx_linkMode (n : Nat) (f : Ctx → Ctx) : (s.updCtx n f).linkMode = s.linkMode := rfl
@[simp] theorem updCtx_linkWidth (n : Nat) (f : Ctx → Ctx) : (s.updCtx n f).linkWidth = s.linkWidth := rfl
@[simp] theorem updCtx_answers (n : Nat) (f : Ctx → Ctx) : (s.updCtx n f).answers = s.answers := rfl
@[simp] theorem updCtx_hostOut (n : Nat) (f : Ctx → Ctx) : (s.updCtx n f).hostOut = s.hostOut := rfl
@[simp] theorem updCtx_msi (n : Nat) (f : Ctx → Ctx) : (s.updCtx n f).msi = s.msi := rfl
@[simp] theorem updCtx_fabid (n : Nat) (f : Ctx → Ctx) : (s.updCtx n f).fabid = s.fabid := rfl
@[simp] theorem updCtx_rtime (n : Nat) (f : Ctx → Ctx) : (s.updCtx n f).rtime = s.rtime := rfl
@[simp] theorem updCtx_adapt (n : Nat) (f : Ctx → Ctx) : (s.updCtx n f).adapt = s.adapt := rfl
@[simp] theorem updCtx_expbase (n : Nat) (f : Ctx → Ctx) : (s.updCtx n f).expbase = s.expbase := rfl
@[simp] theorem updCtx_refused (n : Nat) (f : Ctx → Ctx) : (s.updCtx n f).refused = s.refused := rfl
@[simp] theorem updCtx_retried (n : Nat) (f : Ctx → Ctx) : (s.updCtx n f).retried = s.retried := rfl
@[simp] theorem updCtx_podroot (n : Nat) (f : Ctx → Ctx) : (s.updCtx n f).podroot = s.podroot := rfl
@[simp] theorem updCtx_fxBusy (n : Nat) (f : Ctx → Ctx) : (s.updCtx n f).fxBusy = s.fxBusy := rfl
@[simp] theorem updCtx_ports (n : Nat) (f : Ctx → Ctx) : (s.updCtx n f).ports = s.ports := rfl
@[simp] theorem updCtx_rtent (n : Nat) (f : Ctx → Ctx) : (s.updCtx n f).rtent = s.rtent := rfl
@[simp] theorem updCtx_impbase (n : Nat) (f : Ctx → Ctx) : (s.updCtx n f).impbase = s.impbase := rfl
@[simp] theorem updCtx_outbox (n : Nat) (f : Ctx → Ctx) : (s.updCtx n f).outbox = s.outbox := rfl
@[simp] theorem updCtx_reqs (n : Nat) (f : Ctx → Ctx) : (s.updCtx n f).reqs = s.reqs := rfl
@[simp] theorem updCtx_nextTid (n : Nat) (f : Ctx → Ctx) : (s.updCtx n f).nextTid = s.nextTid := rfl
@[simp] theorem updCtx_held (n : Nat) (f : Ctx → Ctx) : (s.updCtx n f).held = s.held := rfl
@[simp] theorem updCtx_agenda (n : Nat) (f : Ctx → Ctx) : (s.updCtx n f).agenda = s.agenda := rfl
@[simp] theorem updCtx_cur (n : Nat) (f : Ctx → Ctx) : (s.updCtx n f).cur = s.cur := rfl
@[simp] theorem updCtx_ev (n : Nat) (f : Ctx → Ctx) : (s.updCtx n f).ev = s.ev := rfl
@[simp] theorem updCtx_evs (n : Nat) (f : Ctx → Ctx) : (s.updCtx n f).evs = s.evs := rfl
@[simp] theorem updCtx_svOld (n : Nat) (f : Ctx → Ctx) : (s.updCtx n f).svOld = s.svOld := rfl
@[simp] theorem updCtx_nextId (n : Nat) (f : Ctx → Ctx) : (s.updCtx n f).nextId = s.nextId := rfl
@[simp] theorem updCtx_draws (n : Nat) (f : Ctx → Ctx) : (s.updCtx n f).draws = s.draws := rfl

@[simp] theorem updPot_mem (n : Nat) (f : Pot → Pot) : (s.updPot n f).mem = s.mem := rfl
@[simp] theorem updPot_poison (n : Nat) (f : Pot → Pot) : (s.updPot n f).poison = s.poison := rfl
@[simp] theorem updPot_lineKey (n : Nat) (f : Pot → Pot) : (s.updPot n f).lineKey = s.lineKey := rfl
@[simp] theorem updPot_cycles (n : Nat) (f : Pot → Pot) : (s.updPot n f).cycles = s.cycles := rfl
@[simp] theorem updPot_tb (n : Nat) (f : Pot → Pot) : (s.updPot n f).tb = s.tb := rfl
@[simp] theorem updPot_tbcfg (n : Nat) (f : Pot → Pot) : (s.updPot n f).tbcfg = s.tbcfg := rfl
@[simp] theorem updPot_tbOffset (n : Nat) (f : Pot → Pot) : (s.updPot n f).tbOffset = s.tbOffset := rfl
@[simp] theorem updPot_tbLocked (n : Nat) (f : Pot → Pot) : (s.updPot n f).tbLocked = s.tbLocked := rfl
@[simp] theorem updPot_masters (n : Nat) (f : Pot → Pot) : (s.updPot n f).masters = s.masters := rfl
@[simp] theorem updPot_cores (n : Nat) (f : Pot → Pot) : (s.updPot n f).cores = s.cores := rfl
@[simp] theorem updPot_clusters (n : Nat) (f : Pot → Pot) : (s.updPot n f).clusters = s.clusters := rfl
@[simp] theorem updPot_dies (n : Nat) (f : Pot → Pot) : (s.updPot n f).dies = s.dies := rfl
@[simp] theorem updPot_seqs (n : Nat) (f : Pot → Pot) : (s.updPot n f).seqs = s.seqs := rfl
@[simp] theorem updPot_bars (n : Nat) (f : Pot → Pot) : (s.updPot n f).bars = s.bars := rfl
@[simp] theorem updPot_lines (n : Nat) (f : Pot → Pot) : (s.updPot n f).lines = s.lines := rfl
@[simp] theorem updPot_copies (n : Nat) (f : Pot → Pot) : (s.updPot n f).copies = s.copies := rfl
@[simp] theorem updPot_inserts (n : Nat) (f : Pot → Pot) : (s.updPot n f).inserts = s.inserts := rfl
@[simp] theorem updPot_pendArms (n : Nat) (f : Pot → Pot) : (s.updPot n f).pendArms = s.pendArms := rfl
@[simp] theorem updPot_images (n : Nat) (f : Pot → Pot) : (s.updPot n f).images = s.images := rfl
@[simp] theorem updPot_ctxs (n : Nat) (f : Pot → Pot) : (s.updPot n f).ctxs = s.ctxs := rfl
@[simp] theorem updPot_nextKey (n : Nat) (f : Pot → Pot) : (s.updPot n f).nextKey = s.nextKey := rfl
@[simp] theorem updPot_ctxbase (n : Nat) (f : Pot → Pot) : (s.updPot n f).ctxbase = s.ctxbase := rfl
@[simp] theorem updPot_ctxErr (n : Nat) (f : Pot → Pot) : (s.updPot n f).ctxErr = s.ctxErr := rfl
@[simp] theorem updPot_pwrcap (n : Nat) (f : Pot → Pot) : (s.updPot n f).pwrcap = s.pwrcap := rfl
@[simp] theorem updPot_suspst (n : Nat) (f : Pot → Pot) : (s.updPot n f).suspst = s.suspst := rfl
@[simp] theorem updPot_suspends (n : Nat) (f : Pot → Pot) : (s.updPot n f).suspends = s.suspends := rfl
@[simp] theorem updPot_suspendAt (n : Nat) (f : Pot → Pot) : (s.updPot n f).suspendAt = s.suspendAt := rfl
@[simp] theorem updPot_stopped (n : Nat) (f : Pot → Pot) : (s.updPot n f).stopped = s.stopped := rfl
@[simp] theorem updPot_jbase (n : Nat) (f : Pot → Pot) : (s.updPot n f).jbase = s.jbase := rfl
@[simp] theorem updPot_jsize (n : Nat) (f : Pot → Pot) : (s.updPot n f).jsize = s.jsize := rfl
@[simp] theorem updPot_jwr (n : Nat) (f : Pot → Pot) : (s.updPot n f).jwr = s.jwr := rfl
@[simp] theorem updPot_jrd (n : Nat) (f : Pot → Pot) : (s.updPot n f).jrd = s.jrd := rfl
@[simp] theorem updPot_scrub (n : Nat) (f : Pot → Pot) : (s.updPot n f).scrub = s.scrub := rfl
@[simp] theorem updPot_ecccor (n : Nat) (f : Pot → Pot) : (s.updPot n f).ecccor = s.ecccor := rfl
@[simp] theorem updPot_tinvDone (n : Nat) (f : Pot → Pot) : (s.updPot n f).tinvDone = s.tinvDone := rfl
@[simp] theorem updPot_queues (n : Nat) (f : Pot → Pot) : (s.updPot n f).queues = s.queues := rfl
@[simp] theorem updPot_packets (n : Nat) (f : Pot → Pot) : (s.updPot n f).packets = s.packets := rfl
@[simp] theorem updPot_stops (n : Nat) (f : Pot → Pot) : (s.updPot n f).stops = s.stops := rfl
@[simp] theorem updPot_pelog (n : Nat) (f : Pot → Pot) : (s.updPot n f).pelog = s.pelog := rfl
@[simp] theorem updPot_pelHead (n : Nat) (f : Pot → Pot) : (s.updPot n f).pelHead = s.pelHead := rfl
@[simp] theorem updPot_pelOvf (n : Nat) (f : Pot → Pot) : (s.updPot n f).pelOvf = s.pelOvf := rfl
@[simp] theorem updPot_measure (n : Nat) (f : Pot → Pot) : (s.updPot n f).measure = s.measure := rfl
@[simp] theorem updPot_recovery (n : Nat) (f : Pot → Pot) : (s.updPot n f).recovery = s.recovery := rfl
@[simp] theorem updPot_power (n : Nat) (f : Pot → Pot) : (s.updPot n f).power = s.power := rfl
@[simp] theorem updPot_clockStep (n : Nat) (f : Pot → Pot) : (s.updPot n f).clockStep = s.clockStep := rfl
@[simp] theorem updPot_linkMode (n : Nat) (f : Pot → Pot) : (s.updPot n f).linkMode = s.linkMode := rfl
@[simp] theorem updPot_linkWidth (n : Nat) (f : Pot → Pot) : (s.updPot n f).linkWidth = s.linkWidth := rfl
@[simp] theorem updPot_answers (n : Nat) (f : Pot → Pot) : (s.updPot n f).answers = s.answers := rfl
@[simp] theorem updPot_hostOut (n : Nat) (f : Pot → Pot) : (s.updPot n f).hostOut = s.hostOut := rfl
@[simp] theorem updPot_msi (n : Nat) (f : Pot → Pot) : (s.updPot n f).msi = s.msi := rfl
@[simp] theorem updPot_fabid (n : Nat) (f : Pot → Pot) : (s.updPot n f).fabid = s.fabid := rfl
@[simp] theorem updPot_rtime (n : Nat) (f : Pot → Pot) : (s.updPot n f).rtime = s.rtime := rfl
@[simp] theorem updPot_adapt (n : Nat) (f : Pot → Pot) : (s.updPot n f).adapt = s.adapt := rfl
@[simp] theorem updPot_expbase (n : Nat) (f : Pot → Pot) : (s.updPot n f).expbase = s.expbase := rfl
@[simp] theorem updPot_refused (n : Nat) (f : Pot → Pot) : (s.updPot n f).refused = s.refused := rfl
@[simp] theorem updPot_retried (n : Nat) (f : Pot → Pot) : (s.updPot n f).retried = s.retried := rfl
@[simp] theorem updPot_podroot (n : Nat) (f : Pot → Pot) : (s.updPot n f).podroot = s.podroot := rfl
@[simp] theorem updPot_fxBusy (n : Nat) (f : Pot → Pot) : (s.updPot n f).fxBusy = s.fxBusy := rfl
@[simp] theorem updPot_ports (n : Nat) (f : Pot → Pot) : (s.updPot n f).ports = s.ports := rfl
@[simp] theorem updPot_rtent (n : Nat) (f : Pot → Pot) : (s.updPot n f).rtent = s.rtent := rfl
@[simp] theorem updPot_impbase (n : Nat) (f : Pot → Pot) : (s.updPot n f).impbase = s.impbase := rfl
@[simp] theorem updPot_outbox (n : Nat) (f : Pot → Pot) : (s.updPot n f).outbox = s.outbox := rfl
@[simp] theorem updPot_reqs (n : Nat) (f : Pot → Pot) : (s.updPot n f).reqs = s.reqs := rfl
@[simp] theorem updPot_nextTid (n : Nat) (f : Pot → Pot) : (s.updPot n f).nextTid = s.nextTid := rfl
@[simp] theorem updPot_held (n : Nat) (f : Pot → Pot) : (s.updPot n f).held = s.held := rfl
@[simp] theorem updPot_agenda (n : Nat) (f : Pot → Pot) : (s.updPot n f).agenda = s.agenda := rfl
@[simp] theorem updPot_cur (n : Nat) (f : Pot → Pot) : (s.updPot n f).cur = s.cur := rfl
@[simp] theorem updPot_ev (n : Nat) (f : Pot → Pot) : (s.updPot n f).ev = s.ev := rfl
@[simp] theorem updPot_evs (n : Nat) (f : Pot → Pot) : (s.updPot n f).evs = s.evs := rfl
@[simp] theorem updPot_svOld (n : Nat) (f : Pot → Pot) : (s.updPot n f).svOld = s.svOld := rfl
@[simp] theorem updPot_nextId (n : Nat) (f : Pot → Pot) : (s.updPot n f).nextId = s.nextId := rfl
@[simp] theorem updPot_draws (n : Nat) (f : Pot → Pot) : (s.updPot n f).draws = s.draws := rfl

@[simp] theorem clearPoison_mem (k n : Nat) : (s.clearPoison k n).mem = s.mem := rfl
@[simp] theorem clearPoison_lineKey (k n : Nat) : (s.clearPoison k n).lineKey = s.lineKey := rfl
@[simp] theorem clearPoison_cycles (k n : Nat) : (s.clearPoison k n).cycles = s.cycles := rfl
@[simp] theorem clearPoison_tb (k n : Nat) : (s.clearPoison k n).tb = s.tb := rfl
@[simp] theorem clearPoison_tbcfg (k n : Nat) : (s.clearPoison k n).tbcfg = s.tbcfg := rfl
@[simp] theorem clearPoison_tbOffset (k n : Nat) : (s.clearPoison k n).tbOffset = s.tbOffset := rfl
@[simp] theorem clearPoison_tbLocked (k n : Nat) : (s.clearPoison k n).tbLocked = s.tbLocked := rfl
@[simp] theorem clearPoison_masters (k n : Nat) : (s.clearPoison k n).masters = s.masters := rfl
@[simp] theorem clearPoison_cores (k n : Nat) : (s.clearPoison k n).cores = s.cores := rfl
@[simp] theorem clearPoison_clusters (k n : Nat) : (s.clearPoison k n).clusters = s.clusters := rfl
@[simp] theorem clearPoison_dies (k n : Nat) : (s.clearPoison k n).dies = s.dies := rfl
@[simp] theorem clearPoison_seqs (k n : Nat) : (s.clearPoison k n).seqs = s.seqs := rfl
@[simp] theorem clearPoison_bars (k n : Nat) : (s.clearPoison k n).bars = s.bars := rfl
@[simp] theorem clearPoison_lines (k n : Nat) : (s.clearPoison k n).lines = s.lines := rfl
@[simp] theorem clearPoison_copies (k n : Nat) : (s.clearPoison k n).copies = s.copies := rfl
@[simp] theorem clearPoison_pots (k n : Nat) : (s.clearPoison k n).pots = s.pots := rfl
@[simp] theorem clearPoison_inserts (k n : Nat) : (s.clearPoison k n).inserts = s.inserts := rfl
@[simp] theorem clearPoison_pendArms (k n : Nat) : (s.clearPoison k n).pendArms = s.pendArms := rfl
@[simp] theorem clearPoison_images (k n : Nat) : (s.clearPoison k n).images = s.images := rfl
@[simp] theorem clearPoison_ctxs (k n : Nat) : (s.clearPoison k n).ctxs = s.ctxs := rfl
@[simp] theorem clearPoison_nextKey (k n : Nat) : (s.clearPoison k n).nextKey = s.nextKey := rfl
@[simp] theorem clearPoison_ctxbase (k n : Nat) : (s.clearPoison k n).ctxbase = s.ctxbase := rfl
@[simp] theorem clearPoison_ctxErr (k n : Nat) : (s.clearPoison k n).ctxErr = s.ctxErr := rfl
@[simp] theorem clearPoison_pwrcap (k n : Nat) : (s.clearPoison k n).pwrcap = s.pwrcap := rfl
@[simp] theorem clearPoison_suspst (k n : Nat) : (s.clearPoison k n).suspst = s.suspst := rfl
@[simp] theorem clearPoison_suspends (k n : Nat) : (s.clearPoison k n).suspends = s.suspends := rfl
@[simp] theorem clearPoison_suspendAt (k n : Nat) : (s.clearPoison k n).suspendAt = s.suspendAt := rfl
@[simp] theorem clearPoison_stopped (k n : Nat) : (s.clearPoison k n).stopped = s.stopped := rfl
@[simp] theorem clearPoison_jbase (k n : Nat) : (s.clearPoison k n).jbase = s.jbase := rfl
@[simp] theorem clearPoison_jsize (k n : Nat) : (s.clearPoison k n).jsize = s.jsize := rfl
@[simp] theorem clearPoison_jwr (k n : Nat) : (s.clearPoison k n).jwr = s.jwr := rfl
@[simp] theorem clearPoison_jrd (k n : Nat) : (s.clearPoison k n).jrd = s.jrd := rfl
@[simp] theorem clearPoison_scrub (k n : Nat) : (s.clearPoison k n).scrub = s.scrub := rfl
@[simp] theorem clearPoison_ecccor (k n : Nat) : (s.clearPoison k n).ecccor = s.ecccor := rfl
@[simp] theorem clearPoison_tinvDone (k n : Nat) : (s.clearPoison k n).tinvDone = s.tinvDone := rfl
@[simp] theorem clearPoison_queues (k n : Nat) : (s.clearPoison k n).queues = s.queues := rfl
@[simp] theorem clearPoison_packets (k n : Nat) : (s.clearPoison k n).packets = s.packets := rfl
@[simp] theorem clearPoison_stops (k n : Nat) : (s.clearPoison k n).stops = s.stops := rfl
@[simp] theorem clearPoison_pelog (k n : Nat) : (s.clearPoison k n).pelog = s.pelog := rfl
@[simp] theorem clearPoison_pelHead (k n : Nat) : (s.clearPoison k n).pelHead = s.pelHead := rfl
@[simp] theorem clearPoison_pelOvf (k n : Nat) : (s.clearPoison k n).pelOvf = s.pelOvf := rfl
@[simp] theorem clearPoison_measure (k n : Nat) : (s.clearPoison k n).measure = s.measure := rfl
@[simp] theorem clearPoison_recovery (k n : Nat) : (s.clearPoison k n).recovery = s.recovery := rfl
@[simp] theorem clearPoison_power (k n : Nat) : (s.clearPoison k n).power = s.power := rfl
@[simp] theorem clearPoison_clockStep (k n : Nat) : (s.clearPoison k n).clockStep = s.clockStep := rfl
@[simp] theorem clearPoison_linkMode (k n : Nat) : (s.clearPoison k n).linkMode = s.linkMode := rfl
@[simp] theorem clearPoison_linkWidth (k n : Nat) : (s.clearPoison k n).linkWidth = s.linkWidth := rfl
@[simp] theorem clearPoison_answers (k n : Nat) : (s.clearPoison k n).answers = s.answers := rfl
@[simp] theorem clearPoison_hostOut (k n : Nat) : (s.clearPoison k n).hostOut = s.hostOut := rfl
@[simp] theorem clearPoison_msi (k n : Nat) : (s.clearPoison k n).msi = s.msi := rfl
@[simp] theorem clearPoison_fabid (k n : Nat) : (s.clearPoison k n).fabid = s.fabid := rfl
@[simp] theorem clearPoison_rtime (k n : Nat) : (s.clearPoison k n).rtime = s.rtime := rfl
@[simp] theorem clearPoison_adapt (k n : Nat) : (s.clearPoison k n).adapt = s.adapt := rfl
@[simp] theorem clearPoison_expbase (k n : Nat) : (s.clearPoison k n).expbase = s.expbase := rfl
@[simp] theorem clearPoison_refused (k n : Nat) : (s.clearPoison k n).refused = s.refused := rfl
@[simp] theorem clearPoison_retried (k n : Nat) : (s.clearPoison k n).retried = s.retried := rfl
@[simp] theorem clearPoison_podroot (k n : Nat) : (s.clearPoison k n).podroot = s.podroot := rfl
@[simp] theorem clearPoison_fxBusy (k n : Nat) : (s.clearPoison k n).fxBusy = s.fxBusy := rfl
@[simp] theorem clearPoison_ports (k n : Nat) : (s.clearPoison k n).ports = s.ports := rfl
@[simp] theorem clearPoison_rtent (k n : Nat) : (s.clearPoison k n).rtent = s.rtent := rfl
@[simp] theorem clearPoison_impbase (k n : Nat) : (s.clearPoison k n).impbase = s.impbase := rfl
@[simp] theorem clearPoison_outbox (k n : Nat) : (s.clearPoison k n).outbox = s.outbox := rfl
@[simp] theorem clearPoison_reqs (k n : Nat) : (s.clearPoison k n).reqs = s.reqs := rfl
@[simp] theorem clearPoison_nextTid (k n : Nat) : (s.clearPoison k n).nextTid = s.nextTid := rfl
@[simp] theorem clearPoison_held (k n : Nat) : (s.clearPoison k n).held = s.held := rfl
@[simp] theorem clearPoison_agenda (k n : Nat) : (s.clearPoison k n).agenda = s.agenda := rfl
@[simp] theorem clearPoison_cur (k n : Nat) : (s.clearPoison k n).cur = s.cur := rfl
@[simp] theorem clearPoison_ev (k n : Nat) : (s.clearPoison k n).ev = s.ev := rfl
@[simp] theorem clearPoison_evs (k n : Nat) : (s.clearPoison k n).evs = s.evs := rfl
@[simp] theorem clearPoison_svOld (k n : Nat) : (s.clearPoison k n).svOld = s.svOld := rfl
@[simp] theorem clearPoison_nextId (k n : Nat) : (s.clearPoison k n).nextId = s.nextId := rfl
@[simp] theorem clearPoison_draws (k n : Nat) : (s.clearPoison k n).draws = s.draws := rfl

@[simp] theorem storeFlat_lineKey (k : Nat) (bs : List Byte) : (s.storeFlat k bs).lineKey = s.lineKey := rfl
@[simp] theorem storeFlat_cycles (k : Nat) (bs : List Byte) : (s.storeFlat k bs).cycles = s.cycles := rfl
@[simp] theorem storeFlat_tb (k : Nat) (bs : List Byte) : (s.storeFlat k bs).tb = s.tb := rfl
@[simp] theorem storeFlat_tbcfg (k : Nat) (bs : List Byte) : (s.storeFlat k bs).tbcfg = s.tbcfg := rfl
@[simp] theorem storeFlat_tbOffset (k : Nat) (bs : List Byte) : (s.storeFlat k bs).tbOffset = s.tbOffset := rfl
@[simp] theorem storeFlat_tbLocked (k : Nat) (bs : List Byte) : (s.storeFlat k bs).tbLocked = s.tbLocked := rfl
@[simp] theorem storeFlat_masters (k : Nat) (bs : List Byte) : (s.storeFlat k bs).masters = s.masters := rfl
@[simp] theorem storeFlat_cores (k : Nat) (bs : List Byte) : (s.storeFlat k bs).cores = s.cores := rfl
@[simp] theorem storeFlat_clusters (k : Nat) (bs : List Byte) : (s.storeFlat k bs).clusters = s.clusters := rfl
@[simp] theorem storeFlat_dies (k : Nat) (bs : List Byte) : (s.storeFlat k bs).dies = s.dies := rfl
@[simp] theorem storeFlat_seqs (k : Nat) (bs : List Byte) : (s.storeFlat k bs).seqs = s.seqs := rfl
@[simp] theorem storeFlat_bars (k : Nat) (bs : List Byte) : (s.storeFlat k bs).bars = s.bars := rfl
@[simp] theorem storeFlat_lines (k : Nat) (bs : List Byte) : (s.storeFlat k bs).lines = s.lines := rfl
@[simp] theorem storeFlat_copies (k : Nat) (bs : List Byte) : (s.storeFlat k bs).copies = s.copies := rfl
@[simp] theorem storeFlat_pots (k : Nat) (bs : List Byte) : (s.storeFlat k bs).pots = s.pots := rfl
@[simp] theorem storeFlat_inserts (k : Nat) (bs : List Byte) : (s.storeFlat k bs).inserts = s.inserts := rfl
@[simp] theorem storeFlat_pendArms (k : Nat) (bs : List Byte) : (s.storeFlat k bs).pendArms = s.pendArms := rfl
@[simp] theorem storeFlat_images (k : Nat) (bs : List Byte) : (s.storeFlat k bs).images = s.images := rfl
@[simp] theorem storeFlat_ctxs (k : Nat) (bs : List Byte) : (s.storeFlat k bs).ctxs = s.ctxs := rfl
@[simp] theorem storeFlat_nextKey (k : Nat) (bs : List Byte) : (s.storeFlat k bs).nextKey = s.nextKey := rfl
@[simp] theorem storeFlat_ctxbase (k : Nat) (bs : List Byte) : (s.storeFlat k bs).ctxbase = s.ctxbase := rfl
@[simp] theorem storeFlat_ctxErr (k : Nat) (bs : List Byte) : (s.storeFlat k bs).ctxErr = s.ctxErr := rfl
@[simp] theorem storeFlat_pwrcap (k : Nat) (bs : List Byte) : (s.storeFlat k bs).pwrcap = s.pwrcap := rfl
@[simp] theorem storeFlat_suspst (k : Nat) (bs : List Byte) : (s.storeFlat k bs).suspst = s.suspst := rfl
@[simp] theorem storeFlat_suspends (k : Nat) (bs : List Byte) : (s.storeFlat k bs).suspends = s.suspends := rfl
@[simp] theorem storeFlat_suspendAt (k : Nat) (bs : List Byte) : (s.storeFlat k bs).suspendAt = s.suspendAt := rfl
@[simp] theorem storeFlat_stopped (k : Nat) (bs : List Byte) : (s.storeFlat k bs).stopped = s.stopped := rfl
@[simp] theorem storeFlat_jbase (k : Nat) (bs : List Byte) : (s.storeFlat k bs).jbase = s.jbase := rfl
@[simp] theorem storeFlat_jsize (k : Nat) (bs : List Byte) : (s.storeFlat k bs).jsize = s.jsize := rfl
@[simp] theorem storeFlat_jwr (k : Nat) (bs : List Byte) : (s.storeFlat k bs).jwr = s.jwr := rfl
@[simp] theorem storeFlat_jrd (k : Nat) (bs : List Byte) : (s.storeFlat k bs).jrd = s.jrd := rfl
@[simp] theorem storeFlat_scrub (k : Nat) (bs : List Byte) : (s.storeFlat k bs).scrub = s.scrub := rfl
@[simp] theorem storeFlat_ecccor (k : Nat) (bs : List Byte) : (s.storeFlat k bs).ecccor = s.ecccor := rfl
@[simp] theorem storeFlat_tinvDone (k : Nat) (bs : List Byte) : (s.storeFlat k bs).tinvDone = s.tinvDone := rfl
@[simp] theorem storeFlat_queues (k : Nat) (bs : List Byte) : (s.storeFlat k bs).queues = s.queues := rfl
@[simp] theorem storeFlat_packets (k : Nat) (bs : List Byte) : (s.storeFlat k bs).packets = s.packets := rfl
@[simp] theorem storeFlat_stops (k : Nat) (bs : List Byte) : (s.storeFlat k bs).stops = s.stops := rfl
@[simp] theorem storeFlat_pelog (k : Nat) (bs : List Byte) : (s.storeFlat k bs).pelog = s.pelog := rfl
@[simp] theorem storeFlat_pelHead (k : Nat) (bs : List Byte) : (s.storeFlat k bs).pelHead = s.pelHead := rfl
@[simp] theorem storeFlat_pelOvf (k : Nat) (bs : List Byte) : (s.storeFlat k bs).pelOvf = s.pelOvf := rfl
@[simp] theorem storeFlat_measure (k : Nat) (bs : List Byte) : (s.storeFlat k bs).measure = s.measure := rfl
@[simp] theorem storeFlat_recovery (k : Nat) (bs : List Byte) : (s.storeFlat k bs).recovery = s.recovery := rfl
@[simp] theorem storeFlat_power (k : Nat) (bs : List Byte) : (s.storeFlat k bs).power = s.power := rfl
@[simp] theorem storeFlat_clockStep (k : Nat) (bs : List Byte) : (s.storeFlat k bs).clockStep = s.clockStep := rfl
@[simp] theorem storeFlat_linkMode (k : Nat) (bs : List Byte) : (s.storeFlat k bs).linkMode = s.linkMode := rfl
@[simp] theorem storeFlat_linkWidth (k : Nat) (bs : List Byte) : (s.storeFlat k bs).linkWidth = s.linkWidth := rfl
@[simp] theorem storeFlat_answers (k : Nat) (bs : List Byte) : (s.storeFlat k bs).answers = s.answers := rfl
@[simp] theorem storeFlat_hostOut (k : Nat) (bs : List Byte) : (s.storeFlat k bs).hostOut = s.hostOut := rfl
@[simp] theorem storeFlat_msi (k : Nat) (bs : List Byte) : (s.storeFlat k bs).msi = s.msi := rfl
@[simp] theorem storeFlat_fabid (k : Nat) (bs : List Byte) : (s.storeFlat k bs).fabid = s.fabid := rfl
@[simp] theorem storeFlat_rtime (k : Nat) (bs : List Byte) : (s.storeFlat k bs).rtime = s.rtime := rfl
@[simp] theorem storeFlat_adapt (k : Nat) (bs : List Byte) : (s.storeFlat k bs).adapt = s.adapt := rfl
@[simp] theorem storeFlat_expbase (k : Nat) (bs : List Byte) : (s.storeFlat k bs).expbase = s.expbase := rfl
@[simp] theorem storeFlat_refused (k : Nat) (bs : List Byte) : (s.storeFlat k bs).refused = s.refused := rfl
@[simp] theorem storeFlat_retried (k : Nat) (bs : List Byte) : (s.storeFlat k bs).retried = s.retried := rfl
@[simp] theorem storeFlat_podroot (k : Nat) (bs : List Byte) : (s.storeFlat k bs).podroot = s.podroot := rfl
@[simp] theorem storeFlat_fxBusy (k : Nat) (bs : List Byte) : (s.storeFlat k bs).fxBusy = s.fxBusy := rfl
@[simp] theorem storeFlat_ports (k : Nat) (bs : List Byte) : (s.storeFlat k bs).ports = s.ports := rfl
@[simp] theorem storeFlat_rtent (k : Nat) (bs : List Byte) : (s.storeFlat k bs).rtent = s.rtent := rfl
@[simp] theorem storeFlat_impbase (k : Nat) (bs : List Byte) : (s.storeFlat k bs).impbase = s.impbase := rfl
@[simp] theorem storeFlat_outbox (k : Nat) (bs : List Byte) : (s.storeFlat k bs).outbox = s.outbox := rfl
@[simp] theorem storeFlat_reqs (k : Nat) (bs : List Byte) : (s.storeFlat k bs).reqs = s.reqs := rfl
@[simp] theorem storeFlat_nextTid (k : Nat) (bs : List Byte) : (s.storeFlat k bs).nextTid = s.nextTid := rfl
@[simp] theorem storeFlat_held (k : Nat) (bs : List Byte) : (s.storeFlat k bs).held = s.held := rfl
@[simp] theorem storeFlat_agenda (k : Nat) (bs : List Byte) : (s.storeFlat k bs).agenda = s.agenda := rfl
@[simp] theorem storeFlat_cur (k : Nat) (bs : List Byte) : (s.storeFlat k bs).cur = s.cur := rfl
@[simp] theorem storeFlat_ev (k : Nat) (bs : List Byte) : (s.storeFlat k bs).ev = s.ev := rfl
@[simp] theorem storeFlat_evs (k : Nat) (bs : List Byte) : (s.storeFlat k bs).evs = s.evs := rfl
@[simp] theorem storeFlat_svOld (k : Nat) (bs : List Byte) : (s.storeFlat k bs).svOld = s.svOld := rfl
@[simp] theorem storeFlat_nextId (k : Nat) (bs : List Byte) : (s.storeFlat k bs).nextId = s.nextId := rfl
@[simp] theorem storeFlat_draws (k : Nat) (bs : List Byte) : (s.storeFlat k bs).draws = s.draws := rfl

@[simp] theorem setPoison_mem (g : Nat) : (s.setPoison g).mem = s.mem := by unfold State.setPoison; split <;> rfl
@[simp] theorem setPoison_lineKey (g : Nat) : (s.setPoison g).lineKey = s.lineKey := by unfold State.setPoison; split <;> rfl
@[simp] theorem setPoison_cycles (g : Nat) : (s.setPoison g).cycles = s.cycles := by unfold State.setPoison; split <;> rfl
@[simp] theorem setPoison_tb (g : Nat) : (s.setPoison g).tb = s.tb := by unfold State.setPoison; split <;> rfl
@[simp] theorem setPoison_tbcfg (g : Nat) : (s.setPoison g).tbcfg = s.tbcfg := by unfold State.setPoison; split <;> rfl
@[simp] theorem setPoison_tbOffset (g : Nat) : (s.setPoison g).tbOffset = s.tbOffset := by unfold State.setPoison; split <;> rfl
@[simp] theorem setPoison_tbLocked (g : Nat) : (s.setPoison g).tbLocked = s.tbLocked := by unfold State.setPoison; split <;> rfl
@[simp] theorem setPoison_masters (g : Nat) : (s.setPoison g).masters = s.masters := by unfold State.setPoison; split <;> rfl
@[simp] theorem setPoison_cores (g : Nat) : (s.setPoison g).cores = s.cores := by unfold State.setPoison; split <;> rfl
@[simp] theorem setPoison_clusters (g : Nat) : (s.setPoison g).clusters = s.clusters := by unfold State.setPoison; split <;> rfl
@[simp] theorem setPoison_dies (g : Nat) : (s.setPoison g).dies = s.dies := by unfold State.setPoison; split <;> rfl
@[simp] theorem setPoison_seqs (g : Nat) : (s.setPoison g).seqs = s.seqs := by unfold State.setPoison; split <;> rfl
@[simp] theorem setPoison_bars (g : Nat) : (s.setPoison g).bars = s.bars := by unfold State.setPoison; split <;> rfl
@[simp] theorem setPoison_lines (g : Nat) : (s.setPoison g).lines = s.lines := by unfold State.setPoison; split <;> rfl
@[simp] theorem setPoison_copies (g : Nat) : (s.setPoison g).copies = s.copies := by unfold State.setPoison; split <;> rfl
@[simp] theorem setPoison_pots (g : Nat) : (s.setPoison g).pots = s.pots := by unfold State.setPoison; split <;> rfl
@[simp] theorem setPoison_inserts (g : Nat) : (s.setPoison g).inserts = s.inserts := by unfold State.setPoison; split <;> rfl
@[simp] theorem setPoison_pendArms (g : Nat) : (s.setPoison g).pendArms = s.pendArms := by unfold State.setPoison; split <;> rfl
@[simp] theorem setPoison_images (g : Nat) : (s.setPoison g).images = s.images := by unfold State.setPoison; split <;> rfl
@[simp] theorem setPoison_ctxs (g : Nat) : (s.setPoison g).ctxs = s.ctxs := by unfold State.setPoison; split <;> rfl
@[simp] theorem setPoison_nextKey (g : Nat) : (s.setPoison g).nextKey = s.nextKey := by unfold State.setPoison; split <;> rfl
@[simp] theorem setPoison_ctxbase (g : Nat) : (s.setPoison g).ctxbase = s.ctxbase := by unfold State.setPoison; split <;> rfl
@[simp] theorem setPoison_ctxErr (g : Nat) : (s.setPoison g).ctxErr = s.ctxErr := by unfold State.setPoison; split <;> rfl
@[simp] theorem setPoison_pwrcap (g : Nat) : (s.setPoison g).pwrcap = s.pwrcap := by unfold State.setPoison; split <;> rfl
@[simp] theorem setPoison_suspst (g : Nat) : (s.setPoison g).suspst = s.suspst := by unfold State.setPoison; split <;> rfl
@[simp] theorem setPoison_suspends (g : Nat) : (s.setPoison g).suspends = s.suspends := by unfold State.setPoison; split <;> rfl
@[simp] theorem setPoison_suspendAt (g : Nat) : (s.setPoison g).suspendAt = s.suspendAt := by unfold State.setPoison; split <;> rfl
@[simp] theorem setPoison_stopped (g : Nat) : (s.setPoison g).stopped = s.stopped := by unfold State.setPoison; split <;> rfl
@[simp] theorem setPoison_jbase (g : Nat) : (s.setPoison g).jbase = s.jbase := by unfold State.setPoison; split <;> rfl
@[simp] theorem setPoison_jsize (g : Nat) : (s.setPoison g).jsize = s.jsize := by unfold State.setPoison; split <;> rfl
@[simp] theorem setPoison_jwr (g : Nat) : (s.setPoison g).jwr = s.jwr := by unfold State.setPoison; split <;> rfl
@[simp] theorem setPoison_jrd (g : Nat) : (s.setPoison g).jrd = s.jrd := by unfold State.setPoison; split <;> rfl
@[simp] theorem setPoison_scrub (g : Nat) : (s.setPoison g).scrub = s.scrub := by unfold State.setPoison; split <;> rfl
@[simp] theorem setPoison_ecccor (g : Nat) : (s.setPoison g).ecccor = s.ecccor := by unfold State.setPoison; split <;> rfl
@[simp] theorem setPoison_tinvDone (g : Nat) : (s.setPoison g).tinvDone = s.tinvDone := by unfold State.setPoison; split <;> rfl
@[simp] theorem setPoison_queues (g : Nat) : (s.setPoison g).queues = s.queues := by unfold State.setPoison; split <;> rfl
@[simp] theorem setPoison_packets (g : Nat) : (s.setPoison g).packets = s.packets := by unfold State.setPoison; split <;> rfl
@[simp] theorem setPoison_stops (g : Nat) : (s.setPoison g).stops = s.stops := by unfold State.setPoison; split <;> rfl
@[simp] theorem setPoison_pelog (g : Nat) : (s.setPoison g).pelog = s.pelog := by unfold State.setPoison; split <;> rfl
@[simp] theorem setPoison_pelHead (g : Nat) : (s.setPoison g).pelHead = s.pelHead := by unfold State.setPoison; split <;> rfl
@[simp] theorem setPoison_pelOvf (g : Nat) : (s.setPoison g).pelOvf = s.pelOvf := by unfold State.setPoison; split <;> rfl
@[simp] theorem setPoison_measure (g : Nat) : (s.setPoison g).measure = s.measure := by unfold State.setPoison; split <;> rfl
@[simp] theorem setPoison_recovery (g : Nat) : (s.setPoison g).recovery = s.recovery := by unfold State.setPoison; split <;> rfl
@[simp] theorem setPoison_power (g : Nat) : (s.setPoison g).power = s.power := by unfold State.setPoison; split <;> rfl
@[simp] theorem setPoison_clockStep (g : Nat) : (s.setPoison g).clockStep = s.clockStep := by unfold State.setPoison; split <;> rfl
@[simp] theorem setPoison_linkMode (g : Nat) : (s.setPoison g).linkMode = s.linkMode := by unfold State.setPoison; split <;> rfl
@[simp] theorem setPoison_linkWidth (g : Nat) : (s.setPoison g).linkWidth = s.linkWidth := by unfold State.setPoison; split <;> rfl
@[simp] theorem setPoison_answers (g : Nat) : (s.setPoison g).answers = s.answers := by unfold State.setPoison; split <;> rfl
@[simp] theorem setPoison_hostOut (g : Nat) : (s.setPoison g).hostOut = s.hostOut := by unfold State.setPoison; split <;> rfl
@[simp] theorem setPoison_msi (g : Nat) : (s.setPoison g).msi = s.msi := by unfold State.setPoison; split <;> rfl
@[simp] theorem setPoison_fabid (g : Nat) : (s.setPoison g).fabid = s.fabid := by unfold State.setPoison; split <;> rfl
@[simp] theorem setPoison_rtime (g : Nat) : (s.setPoison g).rtime = s.rtime := by unfold State.setPoison; split <;> rfl
@[simp] theorem setPoison_adapt (g : Nat) : (s.setPoison g).adapt = s.adapt := by unfold State.setPoison; split <;> rfl
@[simp] theorem setPoison_expbase (g : Nat) : (s.setPoison g).expbase = s.expbase := by unfold State.setPoison; split <;> rfl
@[simp] theorem setPoison_refused (g : Nat) : (s.setPoison g).refused = s.refused := by unfold State.setPoison; split <;> rfl
@[simp] theorem setPoison_retried (g : Nat) : (s.setPoison g).retried = s.retried := by unfold State.setPoison; split <;> rfl
@[simp] theorem setPoison_podroot (g : Nat) : (s.setPoison g).podroot = s.podroot := by unfold State.setPoison; split <;> rfl
@[simp] theorem setPoison_fxBusy (g : Nat) : (s.setPoison g).fxBusy = s.fxBusy := by unfold State.setPoison; split <;> rfl
@[simp] theorem setPoison_ports (g : Nat) : (s.setPoison g).ports = s.ports := by unfold State.setPoison; split <;> rfl
@[simp] theorem setPoison_rtent (g : Nat) : (s.setPoison g).rtent = s.rtent := by unfold State.setPoison; split <;> rfl
@[simp] theorem setPoison_impbase (g : Nat) : (s.setPoison g).impbase = s.impbase := by unfold State.setPoison; split <;> rfl
@[simp] theorem setPoison_outbox (g : Nat) : (s.setPoison g).outbox = s.outbox := by unfold State.setPoison; split <;> rfl
@[simp] theorem setPoison_reqs (g : Nat) : (s.setPoison g).reqs = s.reqs := by unfold State.setPoison; split <;> rfl
@[simp] theorem setPoison_nextTid (g : Nat) : (s.setPoison g).nextTid = s.nextTid := by unfold State.setPoison; split <;> rfl
@[simp] theorem setPoison_held (g : Nat) : (s.setPoison g).held = s.held := by unfold State.setPoison; split <;> rfl
@[simp] theorem setPoison_agenda (g : Nat) : (s.setPoison g).agenda = s.agenda := by unfold State.setPoison; split <;> rfl
@[simp] theorem setPoison_cur (g : Nat) : (s.setPoison g).cur = s.cur := by unfold State.setPoison; split <;> rfl
@[simp] theorem setPoison_ev (g : Nat) : (s.setPoison g).ev = s.ev := by unfold State.setPoison; split <;> rfl
@[simp] theorem setPoison_evs (g : Nat) : (s.setPoison g).evs = s.evs := by unfold State.setPoison; split <;> rfl
@[simp] theorem setPoison_svOld (g : Nat) : (s.setPoison g).svOld = s.svOld := by unfold State.setPoison; split <;> rfl
@[simp] theorem setPoison_nextId (g : Nat) : (s.setPoison g).nextId = s.nextId := by unfold State.setPoison; split <;> rfl
@[simp] theorem setPoison_draws (g : Nat) : (s.setPoison g).draws = s.draws := by unfold State.setPoison; split <;> rfl

@[simp] theorem updSeq_mem (w : Who) (f : Issuer → Issuer) : (s.updSeq w f).mem = s.mem := by unfold State.updSeq; split <;> rfl
@[simp] theorem updSeq_poison (w : Who) (f : Issuer → Issuer) : (s.updSeq w f).poison = s.poison := by unfold State.updSeq; split <;> rfl
@[simp] theorem updSeq_lineKey (w : Who) (f : Issuer → Issuer) : (s.updSeq w f).lineKey = s.lineKey := by unfold State.updSeq; split <;> rfl
@[simp] theorem updSeq_cycles (w : Who) (f : Issuer → Issuer) : (s.updSeq w f).cycles = s.cycles := by unfold State.updSeq; split <;> rfl
@[simp] theorem updSeq_tb (w : Who) (f : Issuer → Issuer) : (s.updSeq w f).tb = s.tb := by unfold State.updSeq; split <;> rfl
@[simp] theorem updSeq_tbcfg (w : Who) (f : Issuer → Issuer) : (s.updSeq w f).tbcfg = s.tbcfg := by unfold State.updSeq; split <;> rfl
@[simp] theorem updSeq_tbOffset (w : Who) (f : Issuer → Issuer) : (s.updSeq w f).tbOffset = s.tbOffset := by unfold State.updSeq; split <;> rfl
@[simp] theorem updSeq_tbLocked (w : Who) (f : Issuer → Issuer) : (s.updSeq w f).tbLocked = s.tbLocked := by unfold State.updSeq; split <;> rfl
@[simp] theorem updSeq_masters (w : Who) (f : Issuer → Issuer) : (s.updSeq w f).masters = s.masters := by unfold State.updSeq; split <;> rfl
@[simp] theorem updSeq_cores (w : Who) (f : Issuer → Issuer) : (s.updSeq w f).cores = s.cores := by unfold State.updSeq; split <;> rfl
@[simp] theorem updSeq_clusters (w : Who) (f : Issuer → Issuer) : (s.updSeq w f).clusters = s.clusters := by unfold State.updSeq; split <;> rfl
@[simp] theorem updSeq_dies (w : Who) (f : Issuer → Issuer) : (s.updSeq w f).dies = s.dies := by unfold State.updSeq; split <;> rfl
@[simp] theorem updSeq_bars (w : Who) (f : Issuer → Issuer) : (s.updSeq w f).bars = s.bars := by unfold State.updSeq; split <;> rfl
@[simp] theorem updSeq_lines (w : Who) (f : Issuer → Issuer) : (s.updSeq w f).lines = s.lines := by unfold State.updSeq; split <;> rfl
@[simp] theorem updSeq_copies (w : Who) (f : Issuer → Issuer) : (s.updSeq w f).copies = s.copies := by unfold State.updSeq; split <;> rfl
@[simp] theorem updSeq_pots (w : Who) (f : Issuer → Issuer) : (s.updSeq w f).pots = s.pots := by unfold State.updSeq; split <;> rfl
@[simp] theorem updSeq_inserts (w : Who) (f : Issuer → Issuer) : (s.updSeq w f).inserts = s.inserts := by unfold State.updSeq; split <;> rfl
@[simp] theorem updSeq_pendArms (w : Who) (f : Issuer → Issuer) : (s.updSeq w f).pendArms = s.pendArms := by unfold State.updSeq; split <;> rfl
@[simp] theorem updSeq_images (w : Who) (f : Issuer → Issuer) : (s.updSeq w f).images = s.images := by unfold State.updSeq; split <;> rfl
@[simp] theorem updSeq_ctxs (w : Who) (f : Issuer → Issuer) : (s.updSeq w f).ctxs = s.ctxs := by unfold State.updSeq; split <;> rfl
@[simp] theorem updSeq_nextKey (w : Who) (f : Issuer → Issuer) : (s.updSeq w f).nextKey = s.nextKey := by unfold State.updSeq; split <;> rfl
@[simp] theorem updSeq_ctxbase (w : Who) (f : Issuer → Issuer) : (s.updSeq w f).ctxbase = s.ctxbase := by unfold State.updSeq; split <;> rfl
@[simp] theorem updSeq_ctxErr (w : Who) (f : Issuer → Issuer) : (s.updSeq w f).ctxErr = s.ctxErr := by unfold State.updSeq; split <;> rfl
@[simp] theorem updSeq_pwrcap (w : Who) (f : Issuer → Issuer) : (s.updSeq w f).pwrcap = s.pwrcap := by unfold State.updSeq; split <;> rfl
@[simp] theorem updSeq_suspst (w : Who) (f : Issuer → Issuer) : (s.updSeq w f).suspst = s.suspst := by unfold State.updSeq; split <;> rfl
@[simp] theorem updSeq_suspends (w : Who) (f : Issuer → Issuer) : (s.updSeq w f).suspends = s.suspends := by unfold State.updSeq; split <;> rfl
@[simp] theorem updSeq_suspendAt (w : Who) (f : Issuer → Issuer) : (s.updSeq w f).suspendAt = s.suspendAt := by unfold State.updSeq; split <;> rfl
@[simp] theorem updSeq_stopped (w : Who) (f : Issuer → Issuer) : (s.updSeq w f).stopped = s.stopped := by unfold State.updSeq; split <;> rfl
@[simp] theorem updSeq_jbase (w : Who) (f : Issuer → Issuer) : (s.updSeq w f).jbase = s.jbase := by unfold State.updSeq; split <;> rfl
@[simp] theorem updSeq_jsize (w : Who) (f : Issuer → Issuer) : (s.updSeq w f).jsize = s.jsize := by unfold State.updSeq; split <;> rfl
@[simp] theorem updSeq_jwr (w : Who) (f : Issuer → Issuer) : (s.updSeq w f).jwr = s.jwr := by unfold State.updSeq; split <;> rfl
@[simp] theorem updSeq_jrd (w : Who) (f : Issuer → Issuer) : (s.updSeq w f).jrd = s.jrd := by unfold State.updSeq; split <;> rfl
@[simp] theorem updSeq_scrub (w : Who) (f : Issuer → Issuer) : (s.updSeq w f).scrub = s.scrub := by unfold State.updSeq; split <;> rfl
@[simp] theorem updSeq_ecccor (w : Who) (f : Issuer → Issuer) : (s.updSeq w f).ecccor = s.ecccor := by unfold State.updSeq; split <;> rfl
@[simp] theorem updSeq_tinvDone (w : Who) (f : Issuer → Issuer) : (s.updSeq w f).tinvDone = s.tinvDone := by unfold State.updSeq; split <;> rfl
@[simp] theorem updSeq_queues (w : Who) (f : Issuer → Issuer) : (s.updSeq w f).queues = s.queues := by unfold State.updSeq; split <;> rfl
@[simp] theorem updSeq_packets (w : Who) (f : Issuer → Issuer) : (s.updSeq w f).packets = s.packets := by unfold State.updSeq; split <;> rfl
@[simp] theorem updSeq_stops (w : Who) (f : Issuer → Issuer) : (s.updSeq w f).stops = s.stops := by unfold State.updSeq; split <;> rfl
@[simp] theorem updSeq_pelog (w : Who) (f : Issuer → Issuer) : (s.updSeq w f).pelog = s.pelog := by unfold State.updSeq; split <;> rfl
@[simp] theorem updSeq_pelHead (w : Who) (f : Issuer → Issuer) : (s.updSeq w f).pelHead = s.pelHead := by unfold State.updSeq; split <;> rfl
@[simp] theorem updSeq_pelOvf (w : Who) (f : Issuer → Issuer) : (s.updSeq w f).pelOvf = s.pelOvf := by unfold State.updSeq; split <;> rfl
@[simp] theorem updSeq_measure (w : Who) (f : Issuer → Issuer) : (s.updSeq w f).measure = s.measure := by unfold State.updSeq; split <;> rfl
@[simp] theorem updSeq_recovery (w : Who) (f : Issuer → Issuer) : (s.updSeq w f).recovery = s.recovery := by unfold State.updSeq; split <;> rfl
@[simp] theorem updSeq_power (w : Who) (f : Issuer → Issuer) : (s.updSeq w f).power = s.power := by unfold State.updSeq; split <;> rfl
@[simp] theorem updSeq_clockStep (w : Who) (f : Issuer → Issuer) : (s.updSeq w f).clockStep = s.clockStep := by unfold State.updSeq; split <;> rfl
@[simp] theorem updSeq_linkMode (w : Who) (f : Issuer → Issuer) : (s.updSeq w f).linkMode = s.linkMode := by unfold State.updSeq; split <;> rfl
@[simp] theorem updSeq_linkWidth (w : Who) (f : Issuer → Issuer) : (s.updSeq w f).linkWidth = s.linkWidth := by unfold State.updSeq; split <;> rfl
@[simp] theorem updSeq_answers (w : Who) (f : Issuer → Issuer) : (s.updSeq w f).answers = s.answers := by unfold State.updSeq; split <;> rfl
@[simp] theorem updSeq_hostOut (w : Who) (f : Issuer → Issuer) : (s.updSeq w f).hostOut = s.hostOut := by unfold State.updSeq; split <;> rfl
@[simp] theorem updSeq_msi (w : Who) (f : Issuer → Issuer) : (s.updSeq w f).msi = s.msi := by unfold State.updSeq; split <;> rfl
@[simp] theorem updSeq_fabid (w : Who) (f : Issuer → Issuer) : (s.updSeq w f).fabid = s.fabid := by unfold State.updSeq; split <;> rfl
@[simp] theorem updSeq_rtime (w : Who) (f : Issuer → Issuer) : (s.updSeq w f).rtime = s.rtime := by unfold State.updSeq; split <;> rfl
@[simp] theorem updSeq_adapt (w : Who) (f : Issuer → Issuer) : (s.updSeq w f).adapt = s.adapt := by unfold State.updSeq; split <;> rfl
@[simp] theorem updSeq_expbase (w : Who) (f : Issuer → Issuer) : (s.updSeq w f).expbase = s.expbase := by unfold State.updSeq; split <;> rfl
@[simp] theorem updSeq_refused (w : Who) (f : Issuer → Issuer) : (s.updSeq w f).refused = s.refused := by unfold State.updSeq; split <;> rfl
@[simp] theorem updSeq_retried (w : Who) (f : Issuer → Issuer) : (s.updSeq w f).retried = s.retried := by unfold State.updSeq; split <;> rfl
@[simp] theorem updSeq_podroot (w : Who) (f : Issuer → Issuer) : (s.updSeq w f).podroot = s.podroot := by unfold State.updSeq; split <;> rfl
@[simp] theorem updSeq_fxBusy (w : Who) (f : Issuer → Issuer) : (s.updSeq w f).fxBusy = s.fxBusy := by unfold State.updSeq; split <;> rfl
@[simp] theorem updSeq_ports (w : Who) (f : Issuer → Issuer) : (s.updSeq w f).ports = s.ports := by unfold State.updSeq; split <;> rfl
@[simp] theorem updSeq_rtent (w : Who) (f : Issuer → Issuer) : (s.updSeq w f).rtent = s.rtent := by unfold State.updSeq; split <;> rfl
@[simp] theorem updSeq_impbase (w : Who) (f : Issuer → Issuer) : (s.updSeq w f).impbase = s.impbase := by unfold State.updSeq; split <;> rfl
@[simp] theorem updSeq_outbox (w : Who) (f : Issuer → Issuer) : (s.updSeq w f).outbox = s.outbox := by unfold State.updSeq; split <;> rfl
@[simp] theorem updSeq_reqs (w : Who) (f : Issuer → Issuer) : (s.updSeq w f).reqs = s.reqs := by unfold State.updSeq; split <;> rfl
@[simp] theorem updSeq_nextTid (w : Who) (f : Issuer → Issuer) : (s.updSeq w f).nextTid = s.nextTid := by unfold State.updSeq; split <;> rfl
@[simp] theorem updSeq_held (w : Who) (f : Issuer → Issuer) : (s.updSeq w f).held = s.held := by unfold State.updSeq; split <;> rfl
@[simp] theorem updSeq_agenda (w : Who) (f : Issuer → Issuer) : (s.updSeq w f).agenda = s.agenda := by unfold State.updSeq; split <;> rfl
@[simp] theorem updSeq_cur (w : Who) (f : Issuer → Issuer) : (s.updSeq w f).cur = s.cur := by unfold State.updSeq; split <;> rfl
@[simp] theorem updSeq_ev (w : Who) (f : Issuer → Issuer) : (s.updSeq w f).ev = s.ev := by unfold State.updSeq; split <;> rfl
@[simp] theorem updSeq_evs (w : Who) (f : Issuer → Issuer) : (s.updSeq w f).evs = s.evs := by unfold State.updSeq; split <;> rfl
@[simp] theorem updSeq_svOld (w : Who) (f : Issuer → Issuer) : (s.updSeq w f).svOld = s.svOld := by unfold State.updSeq; split <;> rfl
@[simp] theorem updSeq_nextId (w : Who) (f : Issuer → Issuer) : (s.updSeq w f).nextId = s.nextId := by unfold State.updSeq; split <;> rfl
@[simp] theorem updSeq_draws (w : Who) (f : Issuer → Issuer) : (s.updSeq w f).draws = s.draws := by unfold State.updSeq; split <;> rfl

@[simp] theorem updIssuer_mem (w : Who) (f : Issuer → Issuer) : (s.updIssuer w f).mem = s.mem := by
  rcases updIssuer_cases s w f with h | ⟨_, _, h⟩ | ⟨_, h⟩ <;> rw [h] <;> rfl
@[simp] theorem updIssuer_poison (w : Who) (f : Issuer → Issuer) : (s.updIssuer w f).poison = s.poison := by
  rcases updIssuer_cases s w f with h | ⟨_, _, h⟩ | ⟨_, h⟩ <;> rw [h] <;> rfl
@[simp] theorem updIssuer_lineKey (w : Who) (f : Issuer → Issuer) : (s.updIssuer w f).lineKey = s.lineKey := by
  rcases updIssuer_cases s w f with h | ⟨_, _, h⟩ | ⟨_, h⟩ <;> rw [h] <;> rfl
@[simp] theorem updIssuer_cycles (w : Who) (f : Issuer → Issuer) : (s.updIssuer w f).cycles = s.cycles := by
  rcases updIssuer_cases s w f with h | ⟨_, _, h⟩ | ⟨_, h⟩ <;> rw [h] <;> rfl
@[simp] theorem updIssuer_tb (w : Who) (f : Issuer → Issuer) : (s.updIssuer w f).tb = s.tb := by
  rcases updIssuer_cases s w f with h | ⟨_, _, h⟩ | ⟨_, h⟩ <;> rw [h] <;> rfl
@[simp] theorem updIssuer_tbcfg (w : Who) (f : Issuer → Issuer) : (s.updIssuer w f).tbcfg = s.tbcfg := by
  rcases updIssuer_cases s w f with h | ⟨_, _, h⟩ | ⟨_, h⟩ <;> rw [h] <;> rfl
@[simp] theorem updIssuer_tbOffset (w : Who) (f : Issuer → Issuer) : (s.updIssuer w f).tbOffset = s.tbOffset := by
  rcases updIssuer_cases s w f with h | ⟨_, _, h⟩ | ⟨_, h⟩ <;> rw [h] <;> rfl
@[simp] theorem updIssuer_tbLocked (w : Who) (f : Issuer → Issuer) : (s.updIssuer w f).tbLocked = s.tbLocked := by
  rcases updIssuer_cases s w f with h | ⟨_, _, h⟩ | ⟨_, h⟩ <;> rw [h] <;> rfl
@[simp] theorem updIssuer_masters (w : Who) (f : Issuer → Issuer) : (s.updIssuer w f).masters = s.masters := by
  rcases updIssuer_cases s w f with h | ⟨_, _, h⟩ | ⟨_, h⟩ <;> rw [h] <;> rfl
@[simp] theorem updIssuer_clusters (w : Who) (f : Issuer → Issuer) : (s.updIssuer w f).clusters = s.clusters := by
  rcases updIssuer_cases s w f with h | ⟨_, _, h⟩ | ⟨_, h⟩ <;> rw [h] <;> rfl
@[simp] theorem updIssuer_dies (w : Who) (f : Issuer → Issuer) : (s.updIssuer w f).dies = s.dies := by
  rcases updIssuer_cases s w f with h | ⟨_, _, h⟩ | ⟨_, h⟩ <;> rw [h] <;> rfl
@[simp] theorem updIssuer_bars (w : Who) (f : Issuer → Issuer) : (s.updIssuer w f).bars = s.bars := by
  rcases updIssuer_cases s w f with h | ⟨_, _, h⟩ | ⟨_, h⟩ <;> rw [h] <;> rfl
@[simp] theorem updIssuer_lines (w : Who) (f : Issuer → Issuer) : (s.updIssuer w f).lines = s.lines := by
  rcases updIssuer_cases s w f with h | ⟨_, _, h⟩ | ⟨_, h⟩ <;> rw [h] <;> rfl
@[simp] theorem updIssuer_copies (w : Who) (f : Issuer → Issuer) : (s.updIssuer w f).copies = s.copies := by
  rcases updIssuer_cases s w f with h | ⟨_, _, h⟩ | ⟨_, h⟩ <;> rw [h] <;> rfl
@[simp] theorem updIssuer_pots (w : Who) (f : Issuer → Issuer) : (s.updIssuer w f).pots = s.pots := by
  rcases updIssuer_cases s w f with h | ⟨_, _, h⟩ | ⟨_, h⟩ <;> rw [h] <;> rfl
@[simp] theorem updIssuer_inserts (w : Who) (f : Issuer → Issuer) : (s.updIssuer w f).inserts = s.inserts := by
  rcases updIssuer_cases s w f with h | ⟨_, _, h⟩ | ⟨_, h⟩ <;> rw [h] <;> rfl
@[simp] theorem updIssuer_pendArms (w : Who) (f : Issuer → Issuer) : (s.updIssuer w f).pendArms = s.pendArms := by
  rcases updIssuer_cases s w f with h | ⟨_, _, h⟩ | ⟨_, h⟩ <;> rw [h] <;> rfl
@[simp] theorem updIssuer_images (w : Who) (f : Issuer → Issuer) : (s.updIssuer w f).images = s.images := by
  rcases updIssuer_cases s w f with h | ⟨_, _, h⟩ | ⟨_, h⟩ <;> rw [h] <;> rfl
@[simp] theorem updIssuer_ctxs (w : Who) (f : Issuer → Issuer) : (s.updIssuer w f).ctxs = s.ctxs := by
  rcases updIssuer_cases s w f with h | ⟨_, _, h⟩ | ⟨_, h⟩ <;> rw [h] <;> rfl
@[simp] theorem updIssuer_nextKey (w : Who) (f : Issuer → Issuer) : (s.updIssuer w f).nextKey = s.nextKey := by
  rcases updIssuer_cases s w f with h | ⟨_, _, h⟩ | ⟨_, h⟩ <;> rw [h] <;> rfl
@[simp] theorem updIssuer_ctxbase (w : Who) (f : Issuer → Issuer) : (s.updIssuer w f).ctxbase = s.ctxbase := by
  rcases updIssuer_cases s w f with h | ⟨_, _, h⟩ | ⟨_, h⟩ <;> rw [h] <;> rfl
@[simp] theorem updIssuer_ctxErr (w : Who) (f : Issuer → Issuer) : (s.updIssuer w f).ctxErr = s.ctxErr := by
  rcases updIssuer_cases s w f with h | ⟨_, _, h⟩ | ⟨_, h⟩ <;> rw [h] <;> rfl
@[simp] theorem updIssuer_pwrcap (w : Who) (f : Issuer → Issuer) : (s.updIssuer w f).pwrcap = s.pwrcap := by
  rcases updIssuer_cases s w f with h | ⟨_, _, h⟩ | ⟨_, h⟩ <;> rw [h] <;> rfl
@[simp] theorem updIssuer_suspst (w : Who) (f : Issuer → Issuer) : (s.updIssuer w f).suspst = s.suspst := by
  rcases updIssuer_cases s w f with h | ⟨_, _, h⟩ | ⟨_, h⟩ <;> rw [h] <;> rfl
@[simp] theorem updIssuer_suspends (w : Who) (f : Issuer → Issuer) : (s.updIssuer w f).suspends = s.suspends := by
  rcases updIssuer_cases s w f with h | ⟨_, _, h⟩ | ⟨_, h⟩ <;> rw [h] <;> rfl
@[simp] theorem updIssuer_suspendAt (w : Who) (f : Issuer → Issuer) : (s.updIssuer w f).suspendAt = s.suspendAt := by
  rcases updIssuer_cases s w f with h | ⟨_, _, h⟩ | ⟨_, h⟩ <;> rw [h] <;> rfl
@[simp] theorem updIssuer_stopped (w : Who) (f : Issuer → Issuer) : (s.updIssuer w f).stopped = s.stopped := by
  rcases updIssuer_cases s w f with h | ⟨_, _, h⟩ | ⟨_, h⟩ <;> rw [h] <;> rfl
@[simp] theorem updIssuer_jbase (w : Who) (f : Issuer → Issuer) : (s.updIssuer w f).jbase = s.jbase := by
  rcases updIssuer_cases s w f with h | ⟨_, _, h⟩ | ⟨_, h⟩ <;> rw [h] <;> rfl
@[simp] theorem updIssuer_jsize (w : Who) (f : Issuer → Issuer) : (s.updIssuer w f).jsize = s.jsize := by
  rcases updIssuer_cases s w f with h | ⟨_, _, h⟩ | ⟨_, h⟩ <;> rw [h] <;> rfl
@[simp] theorem updIssuer_jwr (w : Who) (f : Issuer → Issuer) : (s.updIssuer w f).jwr = s.jwr := by
  rcases updIssuer_cases s w f with h | ⟨_, _, h⟩ | ⟨_, h⟩ <;> rw [h] <;> rfl
@[simp] theorem updIssuer_jrd (w : Who) (f : Issuer → Issuer) : (s.updIssuer w f).jrd = s.jrd := by
  rcases updIssuer_cases s w f with h | ⟨_, _, h⟩ | ⟨_, h⟩ <;> rw [h] <;> rfl
@[simp] theorem updIssuer_scrub (w : Who) (f : Issuer → Issuer) : (s.updIssuer w f).scrub = s.scrub := by
  rcases updIssuer_cases s w f with h | ⟨_, _, h⟩ | ⟨_, h⟩ <;> rw [h] <;> rfl
@[simp] theorem updIssuer_ecccor (w : Who) (f : Issuer → Issuer) : (s.updIssuer w f).ecccor = s.ecccor := by
  rcases updIssuer_cases s w f with h | ⟨_, _, h⟩ | ⟨_, h⟩ <;> rw [h] <;> rfl
@[simp] theorem updIssuer_tinvDone (w : Who) (f : Issuer → Issuer) : (s.updIssuer w f).tinvDone = s.tinvDone := by
  rcases updIssuer_cases s w f with h | ⟨_, _, h⟩ | ⟨_, h⟩ <;> rw [h] <;> rfl
@[simp] theorem updIssuer_queues (w : Who) (f : Issuer → Issuer) : (s.updIssuer w f).queues = s.queues := by
  rcases updIssuer_cases s w f with h | ⟨_, _, h⟩ | ⟨_, h⟩ <;> rw [h] <;> rfl
@[simp] theorem updIssuer_packets (w : Who) (f : Issuer → Issuer) : (s.updIssuer w f).packets = s.packets := by
  rcases updIssuer_cases s w f with h | ⟨_, _, h⟩ | ⟨_, h⟩ <;> rw [h] <;> rfl
@[simp] theorem updIssuer_stops (w : Who) (f : Issuer → Issuer) : (s.updIssuer w f).stops = s.stops := by
  rcases updIssuer_cases s w f with h | ⟨_, _, h⟩ | ⟨_, h⟩ <;> rw [h] <;> rfl
@[simp] theorem updIssuer_pelog (w : Who) (f : Issuer → Issuer) : (s.updIssuer w f).pelog = s.pelog := by
  rcases updIssuer_cases s w f with h | ⟨_, _, h⟩ | ⟨_, h⟩ <;> rw [h] <;> rfl
@[simp] theorem updIssuer_pelHead (w : Who) (f : Issuer → Issuer) : (s.updIssuer w f).pelHead = s.pelHead := by
  rcases updIssuer_cases s w f with h | ⟨_, _, h⟩ | ⟨_, h⟩ <;> rw [h] <;> rfl
@[simp] theorem updIssuer_pelOvf (w : Who) (f : Issuer → Issuer) : (s.updIssuer w f).pelOvf = s.pelOvf := by
  rcases updIssuer_cases s w f with h | ⟨_, _, h⟩ | ⟨_, h⟩ <;> rw [h] <;> rfl
@[simp] theorem updIssuer_measure (w : Who) (f : Issuer → Issuer) : (s.updIssuer w f).measure = s.measure := by
  rcases updIssuer_cases s w f with h | ⟨_, _, h⟩ | ⟨_, h⟩ <;> rw [h] <;> rfl
@[simp] theorem updIssuer_recovery (w : Who) (f : Issuer → Issuer) : (s.updIssuer w f).recovery = s.recovery := by
  rcases updIssuer_cases s w f with h | ⟨_, _, h⟩ | ⟨_, h⟩ <;> rw [h] <;> rfl
@[simp] theorem updIssuer_power (w : Who) (f : Issuer → Issuer) : (s.updIssuer w f).power = s.power := by
  rcases updIssuer_cases s w f with h | ⟨_, _, h⟩ | ⟨_, h⟩ <;> rw [h] <;> rfl
@[simp] theorem updIssuer_clockStep (w : Who) (f : Issuer → Issuer) : (s.updIssuer w f).clockStep = s.clockStep := by
  rcases updIssuer_cases s w f with h | ⟨_, _, h⟩ | ⟨_, h⟩ <;> rw [h] <;> rfl
@[simp] theorem updIssuer_linkMode (w : Who) (f : Issuer → Issuer) : (s.updIssuer w f).linkMode = s.linkMode := by
  rcases updIssuer_cases s w f with h | ⟨_, _, h⟩ | ⟨_, h⟩ <;> rw [h] <;> rfl
@[simp] theorem updIssuer_linkWidth (w : Who) (f : Issuer → Issuer) : (s.updIssuer w f).linkWidth = s.linkWidth := by
  rcases updIssuer_cases s w f with h | ⟨_, _, h⟩ | ⟨_, h⟩ <;> rw [h] <;> rfl
@[simp] theorem updIssuer_answers (w : Who) (f : Issuer → Issuer) : (s.updIssuer w f).answers = s.answers := by
  rcases updIssuer_cases s w f with h | ⟨_, _, h⟩ | ⟨_, h⟩ <;> rw [h] <;> rfl
@[simp] theorem updIssuer_hostOut (w : Who) (f : Issuer → Issuer) : (s.updIssuer w f).hostOut = s.hostOut := by
  rcases updIssuer_cases s w f with h | ⟨_, _, h⟩ | ⟨_, h⟩ <;> rw [h] <;> rfl
@[simp] theorem updIssuer_msi (w : Who) (f : Issuer → Issuer) : (s.updIssuer w f).msi = s.msi := by
  rcases updIssuer_cases s w f with h | ⟨_, _, h⟩ | ⟨_, h⟩ <;> rw [h] <;> rfl
@[simp] theorem updIssuer_fabid (w : Who) (f : Issuer → Issuer) : (s.updIssuer w f).fabid = s.fabid := by
  rcases updIssuer_cases s w f with h | ⟨_, _, h⟩ | ⟨_, h⟩ <;> rw [h] <;> rfl
@[simp] theorem updIssuer_rtime (w : Who) (f : Issuer → Issuer) : (s.updIssuer w f).rtime = s.rtime := by
  rcases updIssuer_cases s w f with h | ⟨_, _, h⟩ | ⟨_, h⟩ <;> rw [h] <;> rfl
@[simp] theorem updIssuer_adapt (w : Who) (f : Issuer → Issuer) : (s.updIssuer w f).adapt = s.adapt := by
  rcases updIssuer_cases s w f with h | ⟨_, _, h⟩ | ⟨_, h⟩ <;> rw [h] <;> rfl
@[simp] theorem updIssuer_expbase (w : Who) (f : Issuer → Issuer) : (s.updIssuer w f).expbase = s.expbase := by
  rcases updIssuer_cases s w f with h | ⟨_, _, h⟩ | ⟨_, h⟩ <;> rw [h] <;> rfl
@[simp] theorem updIssuer_refused (w : Who) (f : Issuer → Issuer) : (s.updIssuer w f).refused = s.refused := by
  rcases updIssuer_cases s w f with h | ⟨_, _, h⟩ | ⟨_, h⟩ <;> rw [h] <;> rfl
@[simp] theorem updIssuer_retried (w : Who) (f : Issuer → Issuer) : (s.updIssuer w f).retried = s.retried := by
  rcases updIssuer_cases s w f with h | ⟨_, _, h⟩ | ⟨_, h⟩ <;> rw [h] <;> rfl
@[simp] theorem updIssuer_podroot (w : Who) (f : Issuer → Issuer) : (s.updIssuer w f).podroot = s.podroot := by
  rcases updIssuer_cases s w f with h | ⟨_, _, h⟩ | ⟨_, h⟩ <;> rw [h] <;> rfl
@[simp] theorem updIssuer_fxBusy (w : Who) (f : Issuer → Issuer) : (s.updIssuer w f).fxBusy = s.fxBusy := by
  rcases updIssuer_cases s w f with h | ⟨_, _, h⟩ | ⟨_, h⟩ <;> rw [h] <;> rfl
@[simp] theorem updIssuer_ports (w : Who) (f : Issuer → Issuer) : (s.updIssuer w f).ports = s.ports := by
  rcases updIssuer_cases s w f with h | ⟨_, _, h⟩ | ⟨_, h⟩ <;> rw [h] <;> rfl
@[simp] theorem updIssuer_rtent (w : Who) (f : Issuer → Issuer) : (s.updIssuer w f).rtent = s.rtent := by
  rcases updIssuer_cases s w f with h | ⟨_, _, h⟩ | ⟨_, h⟩ <;> rw [h] <;> rfl
@[simp] theorem updIssuer_impbase (w : Who) (f : Issuer → Issuer) : (s.updIssuer w f).impbase = s.impbase := by
  rcases updIssuer_cases s w f with h | ⟨_, _, h⟩ | ⟨_, h⟩ <;> rw [h] <;> rfl
@[simp] theorem updIssuer_outbox (w : Who) (f : Issuer → Issuer) : (s.updIssuer w f).outbox = s.outbox := by
  rcases updIssuer_cases s w f with h | ⟨_, _, h⟩ | ⟨_, h⟩ <;> rw [h] <;> rfl
@[simp] theorem updIssuer_reqs (w : Who) (f : Issuer → Issuer) : (s.updIssuer w f).reqs = s.reqs := by
  rcases updIssuer_cases s w f with h | ⟨_, _, h⟩ | ⟨_, h⟩ <;> rw [h] <;> rfl
@[simp] theorem updIssuer_nextTid (w : Who) (f : Issuer → Issuer) : (s.updIssuer w f).nextTid = s.nextTid := by
  rcases updIssuer_cases s w f with h | ⟨_, _, h⟩ | ⟨_, h⟩ <;> rw [h] <;> rfl
@[simp] theorem updIssuer_held (w : Who) (f : Issuer → Issuer) : (s.updIssuer w f).held = s.held := by
  rcases updIssuer_cases s w f with h | ⟨_, _, h⟩ | ⟨_, h⟩ <;> rw [h] <;> rfl
@[simp] theorem updIssuer_agenda (w : Who) (f : Issuer → Issuer) : (s.updIssuer w f).agenda = s.agenda := by
  rcases updIssuer_cases s w f with h | ⟨_, _, h⟩ | ⟨_, h⟩ <;> rw [h] <;> rfl
@[simp] theorem updIssuer_cur (w : Who) (f : Issuer → Issuer) : (s.updIssuer w f).cur = s.cur := by
  rcases updIssuer_cases s w f with h | ⟨_, _, h⟩ | ⟨_, h⟩ <;> rw [h] <;> rfl
@[simp] theorem updIssuer_ev (w : Who) (f : Issuer → Issuer) : (s.updIssuer w f).ev = s.ev := by
  rcases updIssuer_cases s w f with h | ⟨_, _, h⟩ | ⟨_, h⟩ <;> rw [h] <;> rfl
@[simp] theorem updIssuer_evs (w : Who) (f : Issuer → Issuer) : (s.updIssuer w f).evs = s.evs := by
  rcases updIssuer_cases s w f with h | ⟨_, _, h⟩ | ⟨_, h⟩ <;> rw [h] <;> rfl
@[simp] theorem updIssuer_svOld (w : Who) (f : Issuer → Issuer) : (s.updIssuer w f).svOld = s.svOld := by
  rcases updIssuer_cases s w f with h | ⟨_, _, h⟩ | ⟨_, h⟩ <;> rw [h] <;> rfl
@[simp] theorem updIssuer_nextId (w : Who) (f : Issuer → Issuer) : (s.updIssuer w f).nextId = s.nextId := by
  rcases updIssuer_cases s w f with h | ⟨_, _, h⟩ | ⟨_, h⟩ <;> rw [h] <;> rfl
@[simp] theorem updIssuer_draws (w : Who) (f : Issuer → Issuer) : (s.updIssuer w f).draws = s.draws := by
  rcases updIssuer_cases s w f with h | ⟨_, _, h⟩ | ⟨_, h⟩ <;> rw [h] <;> rfl

@[simp] theorem logPkg_mem (a c x k i : Nat) : (s.logPkg a c x k i).mem = s.mem := by unfold State.logPkg; split <;> rfl
@[simp] theorem logPkg_poison (a c x k i : Nat) : (s.logPkg a c x k i).poison = s.poison := by unfold State.logPkg; split <;> rfl
@[simp] theorem logPkg_lineKey (a c x k i : Nat) : (s.logPkg a c x k i).lineKey = s.lineKey := by unfold State.logPkg; split <;> rfl
@[simp] theorem logPkg_cycles (a c x k i : Nat) : (s.logPkg a c x k i).cycles = s.cycles := by unfold State.logPkg; split <;> rfl
@[simp] theorem logPkg_tb (a c x k i : Nat) : (s.logPkg a c x k i).tb = s.tb := by unfold State.logPkg; split <;> rfl
@[simp] theorem logPkg_tbcfg (a c x k i : Nat) : (s.logPkg a c x k i).tbcfg = s.tbcfg := by unfold State.logPkg; split <;> rfl
@[simp] theorem logPkg_tbOffset (a c x k i : Nat) : (s.logPkg a c x k i).tbOffset = s.tbOffset := by unfold State.logPkg; split <;> rfl
@[simp] theorem logPkg_tbLocked (a c x k i : Nat) : (s.logPkg a c x k i).tbLocked = s.tbLocked := by unfold State.logPkg; split <;> rfl
@[simp] theorem logPkg_masters (a c x k i : Nat) : (s.logPkg a c x k i).masters = s.masters := by unfold State.logPkg; split <;> rfl
@[simp] theorem logPkg_cores (a c x k i : Nat) : (s.logPkg a c x k i).cores = s.cores := by unfold State.logPkg; split <;> rfl
@[simp] theorem logPkg_clusters (a c x k i : Nat) : (s.logPkg a c x k i).clusters = s.clusters := by unfold State.logPkg; split <;> rfl
@[simp] theorem logPkg_dies (a c x k i : Nat) : (s.logPkg a c x k i).dies = s.dies := by unfold State.logPkg; split <;> rfl
@[simp] theorem logPkg_seqs (a c x k i : Nat) : (s.logPkg a c x k i).seqs = s.seqs := by unfold State.logPkg; split <;> rfl
@[simp] theorem logPkg_bars (a c x k i : Nat) : (s.logPkg a c x k i).bars = s.bars := by unfold State.logPkg; split <;> rfl
@[simp] theorem logPkg_lines (a c x k i : Nat) : (s.logPkg a c x k i).lines = s.lines := by unfold State.logPkg; split <;> rfl
@[simp] theorem logPkg_copies (a c x k i : Nat) : (s.logPkg a c x k i).copies = s.copies := by unfold State.logPkg; split <;> rfl
@[simp] theorem logPkg_pots (a c x k i : Nat) : (s.logPkg a c x k i).pots = s.pots := by unfold State.logPkg; split <;> rfl
@[simp] theorem logPkg_inserts (a c x k i : Nat) : (s.logPkg a c x k i).inserts = s.inserts := by unfold State.logPkg; split <;> rfl
@[simp] theorem logPkg_pendArms (a c x k i : Nat) : (s.logPkg a c x k i).pendArms = s.pendArms := by unfold State.logPkg; split <;> rfl
@[simp] theorem logPkg_images (a c x k i : Nat) : (s.logPkg a c x k i).images = s.images := by unfold State.logPkg; split <;> rfl
@[simp] theorem logPkg_ctxs (a c x k i : Nat) : (s.logPkg a c x k i).ctxs = s.ctxs := by unfold State.logPkg; split <;> rfl
@[simp] theorem logPkg_nextKey (a c x k i : Nat) : (s.logPkg a c x k i).nextKey = s.nextKey := by unfold State.logPkg; split <;> rfl
@[simp] theorem logPkg_ctxbase (a c x k i : Nat) : (s.logPkg a c x k i).ctxbase = s.ctxbase := by unfold State.logPkg; split <;> rfl
@[simp] theorem logPkg_ctxErr (a c x k i : Nat) : (s.logPkg a c x k i).ctxErr = s.ctxErr := by unfold State.logPkg; split <;> rfl
@[simp] theorem logPkg_pwrcap (a c x k i : Nat) : (s.logPkg a c x k i).pwrcap = s.pwrcap := by unfold State.logPkg; split <;> rfl
@[simp] theorem logPkg_suspst (a c x k i : Nat) : (s.logPkg a c x k i).suspst = s.suspst := by unfold State.logPkg; split <;> rfl
@[simp] theorem logPkg_suspends (a c x k i : Nat) : (s.logPkg a c x k i).suspends = s.suspends := by unfold State.logPkg; split <;> rfl
@[simp] theorem logPkg_suspendAt (a c x k i : Nat) : (s.logPkg a c x k i).suspendAt = s.suspendAt := by unfold State.logPkg; split <;> rfl
@[simp] theorem logPkg_stopped (a c x k i : Nat) : (s.logPkg a c x k i).stopped = s.stopped := by unfold State.logPkg; split <;> rfl
@[simp] theorem logPkg_jbase (a c x k i : Nat) : (s.logPkg a c x k i).jbase = s.jbase := by unfold State.logPkg; split <;> rfl
@[simp] theorem logPkg_jsize (a c x k i : Nat) : (s.logPkg a c x k i).jsize = s.jsize := by unfold State.logPkg; split <;> rfl
@[simp] theorem logPkg_jwr (a c x k i : Nat) : (s.logPkg a c x k i).jwr = s.jwr := by unfold State.logPkg; split <;> rfl
@[simp] theorem logPkg_jrd (a c x k i : Nat) : (s.logPkg a c x k i).jrd = s.jrd := by unfold State.logPkg; split <;> rfl
@[simp] theorem logPkg_scrub (a c x k i : Nat) : (s.logPkg a c x k i).scrub = s.scrub := by unfold State.logPkg; split <;> rfl
@[simp] theorem logPkg_ecccor (a c x k i : Nat) : (s.logPkg a c x k i).ecccor = s.ecccor := by unfold State.logPkg; split <;> rfl
@[simp] theorem logPkg_tinvDone (a c x k i : Nat) : (s.logPkg a c x k i).tinvDone = s.tinvDone := by unfold State.logPkg; split <;> rfl
@[simp] theorem logPkg_queues (a c x k i : Nat) : (s.logPkg a c x k i).queues = s.queues := by unfold State.logPkg; split <;> rfl
@[simp] theorem logPkg_packets (a c x k i : Nat) : (s.logPkg a c x k i).packets = s.packets := by unfold State.logPkg; split <;> rfl
@[simp] theorem logPkg_stops (a c x k i : Nat) : (s.logPkg a c x k i).stops = s.stops := by unfold State.logPkg; split <;> rfl
@[simp] theorem logPkg_pelHead (a c x k i : Nat) : (s.logPkg a c x k i).pelHead = s.pelHead := by unfold State.logPkg; split <;> rfl
@[simp] theorem logPkg_measure (a c x k i : Nat) : (s.logPkg a c x k i).measure = s.measure := by unfold State.logPkg; split <;> rfl
@[simp] theorem logPkg_recovery (a c x k i : Nat) : (s.logPkg a c x k i).recovery = s.recovery := by unfold State.logPkg; split <;> rfl
@[simp] theorem logPkg_power (a c x k i : Nat) : (s.logPkg a c x k i).power = s.power := by unfold State.logPkg; split <;> rfl
@[simp] theorem logPkg_clockStep (a c x k i : Nat) : (s.logPkg a c x k i).clockStep = s.clockStep := by unfold State.logPkg; split <;> rfl
@[simp] theorem logPkg_linkMode (a c x k i : Nat) : (s.logPkg a c x k i).linkMode = s.linkMode := by unfold State.logPkg; split <;> rfl
@[simp] theorem logPkg_linkWidth (a c x k i : Nat) : (s.logPkg a c x k i).linkWidth = s.linkWidth := by unfold State.logPkg; split <;> rfl
@[simp] theorem logPkg_answers (a c x k i : Nat) : (s.logPkg a c x k i).answers = s.answers := by unfold State.logPkg; split <;> rfl
@[simp] theorem logPkg_hostOut (a c x k i : Nat) : (s.logPkg a c x k i).hostOut = s.hostOut := by unfold State.logPkg; split <;> rfl
@[simp] theorem logPkg_msi (a c x k i : Nat) : (s.logPkg a c x k i).msi = s.msi := by unfold State.logPkg; split <;> rfl
@[simp] theorem logPkg_fabid (a c x k i : Nat) : (s.logPkg a c x k i).fabid = s.fabid := by unfold State.logPkg; split <;> rfl
@[simp] theorem logPkg_rtime (a c x k i : Nat) : (s.logPkg a c x k i).rtime = s.rtime := by unfold State.logPkg; split <;> rfl
@[simp] theorem logPkg_adapt (a c x k i : Nat) : (s.logPkg a c x k i).adapt = s.adapt := by unfold State.logPkg; split <;> rfl
@[simp] theorem logPkg_expbase (a c x k i : Nat) : (s.logPkg a c x k i).expbase = s.expbase := by unfold State.logPkg; split <;> rfl
@[simp] theorem logPkg_refused (a c x k i : Nat) : (s.logPkg a c x k i).refused = s.refused := by unfold State.logPkg; split <;> rfl
@[simp] theorem logPkg_retried (a c x k i : Nat) : (s.logPkg a c x k i).retried = s.retried := by unfold State.logPkg; split <;> rfl
@[simp] theorem logPkg_podroot (a c x k i : Nat) : (s.logPkg a c x k i).podroot = s.podroot := by unfold State.logPkg; split <;> rfl
@[simp] theorem logPkg_fxBusy (a c x k i : Nat) : (s.logPkg a c x k i).fxBusy = s.fxBusy := by unfold State.logPkg; split <;> rfl
@[simp] theorem logPkg_ports (a c x k i : Nat) : (s.logPkg a c x k i).ports = s.ports := by unfold State.logPkg; split <;> rfl
@[simp] theorem logPkg_rtent (a c x k i : Nat) : (s.logPkg a c x k i).rtent = s.rtent := by unfold State.logPkg; split <;> rfl
@[simp] theorem logPkg_impbase (a c x k i : Nat) : (s.logPkg a c x k i).impbase = s.impbase := by unfold State.logPkg; split <;> rfl
@[simp] theorem logPkg_outbox (a c x k i : Nat) : (s.logPkg a c x k i).outbox = s.outbox := by unfold State.logPkg; split <;> rfl
@[simp] theorem logPkg_reqs (a c x k i : Nat) : (s.logPkg a c x k i).reqs = s.reqs := by unfold State.logPkg; split <;> rfl
@[simp] theorem logPkg_nextTid (a c x k i : Nat) : (s.logPkg a c x k i).nextTid = s.nextTid := by unfold State.logPkg; split <;> rfl
@[simp] theorem logPkg_held (a c x k i : Nat) : (s.logPkg a c x k i).held = s.held := by unfold State.logPkg; split <;> rfl
@[simp] theorem logPkg_agenda (a c x k i : Nat) : (s.logPkg a c x k i).agenda = s.agenda := by unfold State.logPkg; split <;> rfl
@[simp] theorem logPkg_cur (a c x k i : Nat) : (s.logPkg a c x k i).cur = s.cur := by unfold State.logPkg; split <;> rfl
@[simp] theorem logPkg_ev (a c x k i : Nat) : (s.logPkg a c x k i).ev = s.ev := by unfold State.logPkg; split <;> rfl
@[simp] theorem logPkg_evs (a c x k i : Nat) : (s.logPkg a c x k i).evs = s.evs := by unfold State.logPkg; split <;> rfl
@[simp] theorem logPkg_svOld (a c x k i : Nat) : (s.logPkg a c x k i).svOld = s.svOld := by unfold State.logPkg; split <;> rfl
@[simp] theorem logPkg_nextId (a c x k i : Nat) : (s.logPkg a c x k i).nextId = s.nextId := by unfold State.logPkg; split <;> rfl
@[simp] theorem logPkg_draws (a c x k i : Nat) : (s.logPkg a c x k i).draws = s.draws := by unfold State.logPkg; split <;> rfl

@[simp] theorem core_updCore (n : Nat) (f : Core → Core) : (s.updCore n f).core n = f (s.core n) := get_put _ _ _ _
theorem core_updCore_ne {m n : Nat} (f : Core → Core) (h : m ≠ n) : (s.updCore n f).core m = s.core m := get_put_ne _ _ _ h
@[simp] theorem die_updDie (n : Nat) (f : Die → Die) : (s.updDie n f).die n = f (s.die n) := get_put _ _ _ _
theorem die_updDie_ne {m n : Nat} (f : Die → Die) (h : m ≠ n) : (s.updDie n f).die m = s.die m := get_put_ne _ _ _ h
@[simp] theorem ctxOf_updCtx (n : Nat) (f : Ctx → Ctx) : (s.updCtx n f).ctxOf n = f (s.ctxOf n) := get_put _ _ _ _
theorem ctxOf_updCtx_ne {m n : Nat} (f : Ctx → Ctx) (h : m ≠ n) : (s.updCtx n f).ctxOf m = s.ctxOf m := get_put_ne _ _ _ h
@[simp] theorem pot_updPot (n : Nat) (f : Pot → Pot) : (s.updPot n f).pot n = f (s.pot n) := get_put _ _ _ _
theorem pot_updPot_ne {m n : Nat} (f : Pot → Pot) (h : m ≠ n) : (s.updPot n f).pot m = s.pot m := get_put_ne _ _ _ h

/-- An issuer after an update of it, and after an update of another. -/
theorem issuer_updIssuer (w : Who) (f : Issuer → Issuer) : (s.updIssuer w f).issuer w = (s.issuer w).map f := by
  have q : ∀ w, ((s.updSeq w f).seqs.find w).map (fun q => q.iss) = ((s.seqs.find w).map (fun q => q.iss)).map f := by
    intro w
    unfold State.updSeq
    split
    · rename_i h; simp [h]
    · rename_i q h; simp [h]
  cases w <;> simp only [State.updIssuer, State.issuer]
  · split
    · rename_i h; simp [h]
    · rename_i u h; simp [h]
  · split
    · rename_i h; simp [h]
    · rename_i u h; simp [h]
  all_goals exact q _
theorem issuer_updIssuer_ne {w v : Who} (f : Issuer → Issuer) (h : v ≠ w) : (s.updIssuer w f).issuer v = s.issuer v := by
  have q : ∀ w v : Who, v ≠ w → ((s.updSeq w f).seqs.find v) = s.seqs.find v := by
    intro w v h
    unfold State.updSeq
    split
    · rfl
    · exact find_put_ne _ _ h
  cases w <;> simp only [State.updIssuer]
  · rename_i n g
    split
    · rfl
    · cases v <;> simp only [State.issuer]
      · rename_i m x
        by_cases e : m = n
        · subst e
          rw [core_updCore]
          exact find_put_ne _ _ (fun hx => h (by rw [hx]))
        · rw [core_updCore_ne s _ e]
      · rename_i m x
        by_cases e : m = n
        · subst e; rw [core_updCore]
        · rw [core_updCore_ne s _ e]
      all_goals rfl
  · rename_i n g
    split
    · rfl
    · cases v <;> simp only [State.issuer]
      · rename_i m x
        by_cases e : m = n
        · subst e; rw [core_updCore]
        · rw [core_updCore_ne s _ e]
      · rename_i m x
        by_cases e : m = n
        · subst e
          rw [core_updCore]
          exact congrArg _ (find_put_ne _ _ (fun hx => h (by rw [hx])))
        · rw [core_updCore_ne s _ e]
      all_goals rfl
  all_goals
    unfold State.updSeq
    split
    · rfl
    · cases v <;> simp only [State.issuer] <;> first | rfl | exact congrArg _ (find_put_ne _ _ h)

/-- The entries of a split table. -/
@[simp] theorem frag_updFrag (u : Issuer) (e : Nat) (f : Frag → Frag) : (u.updFrag e f).frag e = f (u.frag e) := get_put _ _ _ _
theorem frag_updFrag_ne (u : Issuer) {e k : Nat} (f : Frag → Frag) (h : k ≠ e) : (u.updFrag e f).frag k = u.frag k :=
  get_put_ne _ _ _ h

end Sys2Proof.Laws
end

