-- ==== Sys2Proof/Laws/Turns.lean ====
section
/-! SUPPORT. What the STATE of R104 at the start of a turn may change, and the orders of one cycle in the queues. -/
namespace Sys2Proof.Laws

open Sys2Proof.Machine

/-- A fragment's STATE of R104 is all that its refresh changes. -/
theorem refreshFrag_cases (s : State) (x : Who × Nat) :
    s.refreshFrag x = s ∨ ∃ st y, s.refreshFrag x = s.updIssuer x.1 (fun u => u.updFrag x.2 (fun f => { f with st := st, why := y })) := by
  unfold State.refreshFrag
  simp only
  repeat' split
  all_goals first | exact .inl rfl | exact .inr ⟨_, _, rfl⟩

/-- What every change of a STATE of R104 keeps, `refresh` keeps. -/
theorem refresh_keeps {P : State → Prop} (h : ∀ s w e st y, P s → P (s.updIssuer w (fun u => u.updFrag e (fun f => { f with st := st, why := y }))))
    {s : State} (hs : P s) : P s.refresh := by
  unfold State.refresh
  generalize List.flatMap _ _ = l
  induction l generalizing s with
  | nil => exact hs
  | cons x r ih =>
    rw [List.foldl_cons]
    refine ih ?_
    rcases refreshFrag_cases s x with e | ⟨st, y, e⟩ <;> rw [e]
    · exact hs
    · exact h _ _ _ _ _ hs

/-- A change that an issuer's update does not touch is not touched by `refresh`. -/
theorem refresh_frame {α : Type} (p : State → α) (h : ∀ s w f, p (State.updIssuer s w f) = p s) (s : State) : p s.refresh = p s :=
  refresh_keeps (P := fun t => p t = p s) (fun t w _ _ _ ht => (h t w _).trans ht) rfl

@[simp] theorem refresh_mem (s : State) : s.refresh.mem = s.mem := refresh_frame State.mem (fun s w f => updIssuer_mem s w f) s
@[simp] theorem refresh_lines (s : State) : s.refresh.lines = s.lines := refresh_frame State.lines (fun s w f => updIssuer_lines s w f) s
@[simp] theorem refresh_agenda (s : State) : s.refresh.agenda = s.agenda := refresh_frame State.agenda (fun s w f => updIssuer_agenda s w f) s
@[simp] theorem refresh_cycles (s : State) : s.refresh.cycles = s.cycles := refresh_frame State.cycles (fun s w f => updIssuer_cycles s w f) s
@[simp] theorem refresh_tb (s : State) : s.refresh.tb = s.tb := refresh_frame State.tb (fun s w f => updIssuer_tb s w f) s
@[simp] theorem refresh_ctxs (s : State) : s.refresh.ctxs = s.ctxs := refresh_frame State.ctxs (fun s w f => updIssuer_ctxs s w f) s
@[simp] theorem refresh_dies (s : State) : s.refresh.dies = s.dies := refresh_frame State.dies (fun s w f => updIssuer_dies s w f) s
@[simp] theorem refresh_pots (s : State) : s.refresh.pots = s.pots := refresh_frame State.pots (fun s w f => updIssuer_pots s w f) s
@[simp] theorem refresh_inserts (s : State) : s.refresh.inserts = s.inserts :=
  refresh_frame State.inserts (fun s w f => updIssuer_inserts s w f) s
@[simp] theorem refresh_copies (s : State) : s.refresh.copies = s.copies := refresh_frame State.copies (fun s w f => updIssuer_copies s w f) s
@[simp] theorem refresh_bars (s : State) : s.refresh.bars = s.bars := refresh_frame State.bars (fun s w f => updIssuer_bars s w f) s
@[simp] theorem refresh_stopped (s : State) : s.refresh.stopped = s.stopped := refresh_frame State.stopped (fun s w f => updIssuer_stopped s w f) s
@[simp] theorem refresh_suspst (s : State) : s.refresh.suspst = s.suspst := refresh_frame State.suspst (fun s w f => updIssuer_suspst s w f) s

/-- An instruction's place in the array queue takes none from the others. -/
theorem mem_enterQueue (o x : ArrOp) (q : List ArrOp) : x ∈ enterQueue o q ↔ x = o ∨ x ∈ q := by
  induction q with
  | nil => simp [enterQueue]
  | cons p r ih =>
    unfold enterQueue
    split
    · simp
    · simp only [List.mem_cons, ih]
      exact ⟨fun h => by rcases h with h | h | h <;> simp [h], fun h => by rcases h with h | h | h <;> simp [h]⟩
theorem length_enterQueue (o : ArrOp) (q : List ArrOp) : (enterQueue o q).length = q.length + 1 := by
  induction q with
  | nil => rfl
  | cons p r ih =>
    unfold enterQueue
    split
    · rfl
    · simp [ih]

end Sys2Proof.Laws
end

