-- ==== Sys2Proof/Tests/Slice0.lean ====
section
/-! SUPPORT. Tests: words of the opcode map, ill-formed terms, results worked by hand from the spec, and for each statement of the
certificate states and operands that meet its hypotheses. -/
namespace Sys2Proof.Tests

open Sys2Proof Sys2Proof.Machine Sys2Proof.Safety

-- words written out from R46, R53, R54 and R55; those of the worked cases of the spec among them

/-- Each word, its extension word above it, decodes to the instruction beside it. -/
def readsAs (l : List (Nat × Instr)) : Bool := l.all (fun p => decodeTableWord 96 p.1 == some p.2)

def words0a : List (Nat × Instr) :=
  [(0x0000145000C2000000000001, .sadd ⟨false, 0⟩ ⟨5, 5, 0, 0, 3, 0, true, 0, 0, 0, 1⟩),
    (0x0076010B01820000F845D205, .ssub ⟨true, 22⟩ ⟨0, 16, 44, 0, 6, 0, true, 0, 0, 0, 4165325317⟩),
    (0x00BE0872014200000D0C5221, .smul ⟨true, 30⟩ ⟨2, 7, 8, 0, 5, 0, true, 0, 0, 0, 218911265⟩),
    (0x00D64D68010200008E08B4F2, .smulh ⟨false, 22⟩ ⟨19, 22, 32, 0, 4, 0, true, 0, 0, 0, 2382935282⟩),
    (0x013E6B694182000000000000, .sdiv ⟨true, 30⟩ ⟨26, 54, 37, 0, 6, 0, true, 0, 0, 0, 0⟩),
    (0x017E074A81C200006579EEB7, .srem ⟨true, 30⟩ ⟨1, 52, 42, 0, 7, 0, true, 0, 0, 0, 1702489783⟩),
    (0x018DAFAB8042000000000004, .sand ⟨false, 13⟩ ⟨43, 58, 46, 0, 1, 0, true, 0, 0, 0, 4⟩),
    (0x01E3004F01C2000000000003, .sor ⟨true, 3⟩ ⟨0, 4, 60, 0, 7, 0, true, 0, 0, 0, 3⟩),
    (0x021E998140C20000ED74CB92, .sxor ⟨false, 30⟩ ⟨38, 24, 5, 0, 3, 0, true, 0, 0, 0, 3983854482⟩),
    (0x0267DC290182000000000001, .sandn ⟨true, 7⟩ ⟨55, 2, 36, 0, 6, 0, true, 0, 0, 0, 1⟩),
    (0x02A09B0E8082000000000005, .sshl ⟨true, 0⟩ ⟨38, 48, 58, 0, 2, 0, true, 0, 0, 0, 5⟩),
    (0x02FEA11040C2000000000002, .sshr ⟨true, 30⟩ ⟨40, 17, 1, 0, 3, 0, true, 0, 0, 0, 2⟩),
    (0x0336CCA841C200000000011B, .ssar ⟨true, 22⟩ ⟨51, 10, 33, 0, 7, 0, true, 0, 0, 0, 283⟩),
    (0x0376B2B7C1C20000786E485F, .smin ⟨true, 22⟩ ⟨44, 43, 31, 0, 7, 0, true, 0, 0, 0, 2020493407⟩)]
theorem test_words0a : readsAs words0a = true := by decide
def words0b : List (Nat × Instr) :=
  [(0x03B1003F00C2000000000002, .smax ⟨true, 17⟩ ⟨0, 3, 60, 0, 3, 0, true, 0, 0, 0, 2⟩),
    (0x03DF240001420000459B7719, .smov ⟨false, 31⟩ ⟨9, 0, 0, 0, 5, 0, true, 0, 0, 0, 1167816473⟩),
    (0xFFC0000000000000123456780425440000C2000089ABCDEF, .sli ⟨true, 5⟩ ⟨17, 0, 0, 0, 3, 0, true, 0, 0, 0, 2309737967⟩ 0xffc000000000000012345678),
    (0x0476DEF00040000000000000, .spopc ⟨true, 22⟩ ⟨55, 47, 0, 0, 1, 0, false, 0, 0, 0, 0⟩),
    (0x04A30C300140000000000000, .sclz ⟨true, 3⟩ ⟨3, 3, 0, 0, 5, 0, false, 0, 0, 0, 0⟩),
    (0x04FE48C000C0010000000000, .sbfx ⟨true, 30⟩ ⟨18, 12, 0, 0, 3, 0, false, 0, 4, 0, 0⟩),
    (0x05237CE00040014000000000, .sbfi ⟨true, 3⟩ ⟨31, 14, 0, 0, 1, 0, false, 0, 5, 0, 0⟩),
    (0x05764884C182003300000003, .slea ⟨true, 22⟩ ⟨18, 8, 19, 0, 6, 0, true, 0, 0, 51, 3⟩)]
theorem test_words0b : readsAs words0b = true := by decide
def words1 : List (Nat × Instr) :=
  [(0x1027001615160000AEFCBAD1, .scmp ⟨true, 7⟩ ⟨0, 1, 24, 5, 4, 5, true, 0, 0, 0, 2935798481⟩),
    (0x104300B014C20000EF6EBE36, .ssel ⟨false, 3⟩ ⟨0, 11, 0, 5, 3, 0, true, 0, 0, 0, 4017012278⟩)]
theorem test_words1 : readsAs words1 = true := by decide
def words2 : List (Nat × Instr) :=
  [(0x20270800000200008111B6D3, .mand ⟨true, 7⟩ ⟨2, 0, 0, 0, 0, 0, true, 0, 0, 0, 2165421779⟩),
    (0x20670C304002000000000007, .mor ⟨true, 7⟩ ⟨3, 3, 1, 0, 0, 0, true, 0, 0, 0, 7⟩),
    (0x20A32C03C002000000000000, .mxor ⟨true, 3⟩ ⟨11, 0, 15, 0, 0, 0, true, 0, 0, 0, 0⟩),
    (0x20FE00D0000200000000002F, .mandn ⟨true, 30⟩ ⟨0, 13, 0, 0, 0, 0, true, 0, 0, 0, 47⟩),
    (0x21310C500000000000000000, .mnot ⟨true, 17⟩ ⟨3, 5, 0, 0, 0, 0, false, 0, 0, 0, 0⟩),
    (0x2163F4200000000000000000, .mpopc ⟨true, 3⟩ ⟨61, 2, 0, 0, 0, 0, false, 0, 0, 0, 0⟩),
    (0x21B180500000000000000000, .mffs ⟨true, 17⟩ ⟨32, 5, 0, 0, 0, 0, false, 0, 0, 0, 0⟩),
    (0x21F130100000000000000000, .mget ⟨true, 17⟩ ⟨12, 1, 0, 0, 0, 0, false, 0, 0, 0, 0⟩),
    (0x222324A00000000000000000, .mput ⟨true, 3⟩ ⟨9, 10, 0, 0, 0, 0, false, 0, 0, 0, 0⟩),
    (0x227E0001400200000000000F, .mmov ⟨true, 30⟩ ⟨0, 0, 5, 0, 0, 0, true, 0, 0, 0, 15⟩)]
theorem test_words2 : readsAs words2 = true := by decide
def words3 : List (Nat × Instr) :=
  [(0x303E00000000000000000000, .nop ⟨true, 30⟩ ⟨0, 0, false, 0, 0, 0, 0, false, 0, 0, 0⟩),
    (0x307100003010000000000000, .bra ⟨true, 17⟩ ⟨0, 0, false, 0, 6, 0, 0, true, 0, 0, 0⟩),
    (0x308000E00000FFFFFFFFFFF1, .brc ⟨false, 0⟩ ⟨0, 3, true, 0, 0, 0, 0, false, 0, 35184372088830, 1⟩),
    (0x30E3001C00003F7477E1D87D, .brz ⟨true, 3⟩ ⟨0, 0, false, 14, 0, 0, 0, false, 0, 8721182505743, 5⟩),
    (0x3127000E00002B59D5B81672, .brnz ⟨true, 7⟩ ⟨0, 0, false, 7, 0, 0, 0, false, 0, 5958104711886, 2⟩),
    (0x3167000C0000E8DA82ECF797, .brvAny ⟨true, 7⟩ ⟨0, 0, false, 6, 0, 0, 0, false, 0, 32003149635314, 7⟩),
    (0x31B100184810000000000000, .brvAll ⟨true, 17⟩ ⟨0, 0, false, 12, 9, 0, 0, true, 0, 0, 0⟩),
    (0x31F60021FF10000000000000, .brl ⟨true, 22⟩ ⟨0, 0, true, 0, 63, 7, 0, true, 0, 0, 0⟩),
    (0x3231E4000000909E18F74202, .call ⟨true, 17⟩ ⟨57, 0, false, 0, 0, 0, 0, false, 0, 19876087261248, 2⟩),
    (0x327E30000000000000000000, .ret ⟨true, 30⟩ ⟨12, 0, false, 0, 0, 0, 0, false, 0, 0, 0⟩),
    (0x32BE00000000000000000000, .regang ⟨true, 30⟩ ⟨0, 0, false, 0, 0, 0, 0, false, 0, 0, 0⟩),
    (0x32FE00000000000000000000, .exit ⟨true, 30⟩ ⟨0, 0, false, 0, 0, 0, 0, false, 0, 0, 0⟩),
    (0x333600000000000000000028, .trap ⟨true, 22⟩ ⟨0, 0, false, 0, 0, 0, 0, false, 0, 5, 0⟩),
    (0x337600000000000000000000, .yield ⟨true, 22⟩ ⟨0, 0, false, 0, 0, 0, 0, false, 0, 0, 0⟩)]
theorem test_words3 : readsAs words3 = true := by decide
def words4a : List (Nat × Instr) :=
  [(0x403E1BCC81005018A1860D2F, .vadd ⟨true, 30⟩ ⟨27, 204, 129, 0, 5, 0, 0, true, true, 0, 2709916975⟩),
    (0x407150F50E005008B54D807A, .vsub ⟨true, 17⟩ ⟨80, 245, 14, 0, 5, 0, 0, false, true, 0, 3041755258⟩),
    (0x40BEAEFDC600100884D05E58, .vmul ⟨true, 30⟩ ⟨174, 253, 198, 0, 1, 0, 0, false, true, 0, 2228248152⟩),
    (0x40D6A6B70500100874B7642F, .vmulh ⟨false, 22⟩ ⟨166, 183, 5, 0, 1, 0, 0, false, true, 0, 1958175791⟩),
    (0x411E021F548120180000002F, .vmad ⟨false, 30⟩ ⟨2, 31, 84, 129, 2, 0, 0, true, true, 0, 47⟩),
    (0x415EC0EA560020080000000F, .vand ⟨false, 30⟩ ⟨192, 234, 86, 0, 2, 0, 0, false, true, 0, 15⟩),
    (0x41B607762C000008044439D9, .vor ⟨true, 22⟩ ⟨7, 118, 44, 0, 0, 0, 0, false, true, 0, 71580121⟩),
    (0x41E7200DB500000800000033, .vxor ⟨true, 7⟩ ⟨32, 13, 181, 0, 0, 0, 0, false, true, 0, 51⟩),
    (0x422301370B0020089C6BEDE2, .vandn ⟨true, 3⟩ ⟨1, 55, 11, 0, 2, 0, 0, false, true, 0, 2624318946⟩),
    (0x4247EC51F80060183A36E373, .vshl ⟨false, 7⟩ ⟨236, 81, 248, 0, 6, 0, 0, true, true, 0, 976675699⟩),
    (0x42B11A00B900200800000000, .vshr ⟨true, 17⟩ ⟨26, 0, 185, 0, 2, 0, 0, false, true, 0, 0⟩),
    (0x42C308920D00200800000090, .vsar ⟨false, 3⟩ ⟨8, 146, 13, 0, 2, 0, 0, false, true, 0, 144⟩),
    (0x432700362B006008706CD422, .vmin ⟨true, 7⟩ ⟨0, 54, 43, 0, 6, 0, 0, false, true, 0, 1886180386⟩),
    (0x436362480500500800000000, .vmax ⟨true, 3⟩ ⟨98, 72, 5, 0, 5, 0, 0, false, true, 0, 0⟩)]
theorem test_words4a : readsAs words4a = true := by decide
def words4b : List (Nat × Instr) :=
  [(0x43B609FB0000001000000000, .vabs ⟨true, 22⟩ ⟨9, 251, 0, 0, 0, 0, 0, true, false, 0, 0⟩),
    (0x43FEE80C0000001000000000, .vneg ⟨true, 30⟩ ⟨232, 12, 0, 0, 0, 0, 0, true, false, 0, 0⟩),
    (0x442607630000540800000002, .vcmp ⟨true, 6⟩ ⟨7, 99, 0, 0, 5, 4, 0, false, true, 0, 2⟩),
    (0x447ECFFA0202200800000035, .vsel ⟨true, 30⟩ ⟨207, 250, 2, 2, 2, 0, 0, false, true, 0, 53⟩),
    (0x44B1042F0000600000000000, .vpopc ⟨true, 17⟩ ⟨4, 47, 0, 0, 6, 0, 0, false, false, 0, 0⟩),
    (0x44E7E9CD0000100000000000, .vclz ⟨true, 7⟩ ⟨233, 205, 0, 0, 1, 0, 0, false, false, 0, 0⟩),
    (0x4509C8820000300800000245, .vbfx ⟨false, 9⟩ ⟨200, 130, 0, 0, 3, 0, 0, false, true, 0, 581⟩),
    (0x4549CA840000300800000443, .vbfi ⟨false, 9⟩ ⟨202, 132, 0, 0, 3, 0, 0, false, true, 0, 1091⟩),
    (0x45A70AB502340018C1092188, .vdot4 ⟨true, 7⟩ ⟨10, 181, 2, 52, 0, 0, 0, true, true, 0, 3238601096⟩),
    (0x45E3210000006008D3FED96E, .vmov ⟨true, 3⟩ ⟨33, 0, 0, 0, 6, 0, 0, false, true, 0, 3556694382⟩),
    (0x463A02020000700000000000, .vspl ⟨true, 26⟩ ⟨2, 2, 0, 0, 7, 0, 0, false, false, 0, 0⟩)]
theorem test_words4b : readsAs words4b = true := by decide
def words5a : List (Nat × Instr) :=
  [(0x501609028F00902800000000, .vfadd ⟨false, 22⟩ ⟨9, 2, 143, 0, 9, 0, 1, false, true, 0, 0⟩),
    (0x505E4800560080286B15F3AC, .vfsub ⟨false, 30⟩ ⟨72, 0, 86, 0, 8, 0, 1, false, true, 0, 1796600748⟩),
    (0x50A70404AB00900000000000, .vfmul ⟨true, 7⟩ ⟨4, 4, 171, 0, 9, 0, 0, false, false, 0, 0⟩),
    (0x50E30A0B0C0D900000000000, .vfma ⟨true, 3⟩ ⟨10, 11, 12, 13, 9, 0, 0, false, false, 0, 0⟩),
    (0x5131DDAFA2D69028C9C993AC, .vfms ⟨true, 17⟩ ⟨221, 175, 162, 214, 9, 0, 1, false, true, 0, 3385430956⟩),
    (0x517E255EAE00900800000001, .vfnma ⟨true, 30⟩ ⟨37, 94, 174, 0, 9, 0, 0, false, true, 0, 1⟩),
    (0x51A3009E0000900800000000, .vfmin ⟨true, 3⟩ ⟨0, 158, 0, 0, 9, 0, 0, false, true, 0, 0⟩),
    (0x51D1D00A000080089E219358, .vfmax ⟨false, 17⟩ ⟨208, 10, 0, 0, 8, 0, 0, false, true, 0, 2653000536⟩),
    (0x5207000000008308B3E06A7F, .vfcmp ⟨false, 7⟩ ⟨0, 0, 0, 0, 8, 3, 0, false, true, 0, 3017828991⟩),
    (0x5276A5000000900000000000, .vfclass ⟨true, 22⟩ ⟨165, 0, 0, 0, 9, 0, 0, false, false, 0, 0⟩),
    (0x52BE0B030000900000000000, .vrcp ⟨true, 30⟩ ⟨11, 3, 0, 0, 9, 0, 0, false, false, 0, 0⟩),
    (0x52E7000C0000808000000000, .vrsq ⟨true, 7⟩ ⟨0, 12, 0, 0, 8, 0, 4, false, false, 0, 0⟩),
    (0x5331B0000000800000000000, .vsqrt ⟨true, 17⟩ ⟨176, 0, 0, 0, 8, 0, 0, false, false, 0, 0⟩),
    (0x537600294800902000000000, .vdiv ⟨true, 22⟩ ⟨0, 41, 72, 0, 9, 0, 1, false, false, 0, 0⟩)]
theorem test_words5a : readsAs words5a = true := by decide
def words5b : List (Nat × Instr) :=
  [(0x53A0E1620000900000000000, .vexp2 ⟨true, 0⟩ ⟨225, 98, 0, 0, 9, 0, 0, false, false, 0, 0⟩),
    (0x53E0507A0000900000000000, .vlog2 ⟨true, 0⟩ ⟨80, 122, 0, 0, 9, 0, 0, false, false, 0, 0⟩),
    (0x542300250000904000000000, .vsin ⟨true, 3⟩ ⟨0, 37, 0, 0, 9, 0, 2, false, false, 0, 0⟩),
    (0x547E01000000902000000000, .vcos ⟨true, 30⟩ ⟨1, 0, 0, 0, 9, 0, 1, false, false, 0, 0⟩),
    (0x5491D5A30000908000000000, .vfrnd ⟨false, 17⟩ ⟨213, 163, 0, 0, 9, 0, 4, false, false, 0, 0⟩),
    (0x54DC06040000900000000000, .vftrunc ⟨false, 28⟩ ⟨6, 4, 0, 0, 9, 0, 0, false, false, 0, 0⟩),
    (0x5536ED3A0F00900800000000, .vfscale ⟨true, 22⟩ ⟨237, 58, 15, 0, 9, 0, 0, false, true, 0, 0⟩)]
theorem test_words5b : readsAs words5b = true := by decide
def words6 : List (Nat × Instr) :=
  [(0x602330000000246200000000, .vcvt ⟨true, 3⟩ ⟨48, 0, 0, 0, 2, 4, 3, false, false, 2, 0⟩),
    (0x607EBD4E0000098000000000, .vpack ⟨true, 30⟩ ⟨189, 78, 0, 0, 0, 9, 4, false, false, 0, 0⟩),
    (0x60B60ACD0000900000000000, .vunpack ⟨true, 22⟩ ⟨10, 205, 0, 0, 9, 0, 0, false, false, 0, 0⟩),
    (0x60C014150016C90100000000, .vquant ⟨false, 0⟩ ⟨20, 21, 0, 22, 12, 9, 0, false, false, 1, 0⟩),
    (0x611217141600C90100000000, .vdeq ⟨false, 18⟩ ⟨23, 20, 22, 0, 12, 9, 0, false, false, 1, 0⟩),
    (0x616000020C00D90000000000, .vscale ⟨true, 0⟩ ⟨0, 2, 12, 0, 13, 9, 0, false, false, 0, 0⟩)]
theorem test_words6 : readsAs words6 = true := by decide
def words7 : List (Nat × Instr) :=
  [(0x703ED9000000210000000000, .qswap ⟨true, 30⟩ ⟨217, 0, 0, 0, 2, 1, 0, false, false, 0, 0⟩),
    (0x7076000D0000600300000000, .qbcast ⟨true, 22⟩ ⟨0, 13, 0, 0, 6, 0, 0, false, false, 3, 0⟩),
    (0x70BE00075600200800000003, .vshfl ⟨true, 30⟩ ⟨0, 7, 86, 0, 2, 0, 0, false, true, 0, 3⟩),
    (0x70F820772B00900000000000, .vbcast ⟨true, 24⟩ ⟨32, 119, 43, 0, 9, 0, 0, false, false, 0, 0⟩),
    (0x7136BE060000200000000000, .vred ⟨true, 22⟩ ⟨190, 6, 0, 0, 2, 0, 0, false, false, 0, 0⟩),
    (0x71566B840000630100000000, .vscan ⟨false, 22⟩ ⟨107, 132, 0, 0, 6, 3, 0, false, false, 1, 0⟩),
    (0x719E00020000600000000000, .vballot ⟨false, 30⟩ ⟨0, 2, 0, 0, 6, 0, 0, false, false, 0, 0⟩),
    (0x71DE0F010000600000000000, .velect ⟨false, 30⟩ ⟨15, 1, 0, 0, 6, 0, 0, false, false, 0, 0⟩),
    (0x720366500001300000000000, .vcompact ⟨false, 3⟩ ⟨102, 80, 0, 1, 3, 0, 0, false, false, 0, 0⟩)]
theorem test_words7 : readsAs words7 = true := by decide
def words8 : List (Nat × Instr) :=
  [(0x8003098800820000C7DFCBDF, .vld ⟨false, 3⟩ ⟨9, 34, 0, 1, 0, 2, 0, 0, 0, 0, false, 0, 3353332703⟩),
    (0x8067B6480083000000000004, .vst ⟨true, 7⟩ ⟨182, 18, 0, 1, 0, 3, 0, 0, 0, 0, false, 0, 4⟩),
    (0x80A3B859A080000400000007, .vldx ⟨true, 3⟩ ⟨184, 22, 104, 1, 0, 0, 0, 0, 0, 0, true, 0, 7⟩),
    (0x80C59D05B90100040000000C, .vstx ⟨false, 5⟩ ⟨157, 1, 110, 2, 0, 1, 0, 0, 0, 0, true, 0, 12⟩),
    (0x82D470F00A01000400000001, .fld ⟨false, 20⟩ ⟨112, 60, 2, 4, 0, 1, 0, 0, 0, 0, true, 0, 1⟩),
    (0x830938367D800004E0E4117C, .fst ⟨false, 9⟩ ⟨56, 13, 159, 3, 0, 0, 0, 0, 0, 0, true, 0, 3773043068⟩),
    (0x813E1A300105000000000000, .sld ⟨true, 30⟩ ⟨26, 12, 0, 2, 0, 5, 0, 0, 0, 0, false, 0, 0⟩),
    (0x817E28000186000000000001, .sst ⟨true, 30⟩ ⟨40, 0, 0, 3, 0, 6, 0, 0, 0, 0, false, 0, 1⟩),
    (0x8182A00C4E032484E4CC41B9, .vatom ⟨false, 2⟩ ⟨160, 3, 19, 4, 0, 3, 2, 1, 1, 0, true, 0, 3838591417⟩),
    (0x81E7030002070A8000000002, .satom ⟨true, 7⟩ ⟨3, 0, 0, 4, 0, 7, 0, 2, 5, 0, false, 0, 2⟩),
    (0x8224081000A00000FFFFFFF0, .ladle ⟨true, 4⟩ ⟨8, 4, 0, 1, 2, 0, 0, 0, 0, 0, false, 0, 4294967280⟩),
    (0x826300000030000000000000, .ldrain ⟨true, 3⟩ ⟨0, 0, 0, 0, 3, 0, 0, 0, 0, 0, false, 0, 0⟩),
    (0x82B1004B960000042C93ED79, .pref ⟨true, 17⟩ ⟨0, 18, 229, 4, 0, 0, 0, 0, 0, 0, true, 0, 747892089⟩)]
theorem test_words8 : readsAs words8 = true := by decide
def words9 : List (Nat × Instr) :=
  [(0x900014245686001C00000000, .rld ⟨false, 0⟩ ⟨20, 9, 21, 5, 0, 6, 0, 0, 0, 3, true, 0, 0⟩),
    (0x90460819AA87404C00000016, .rst ⟨false, 6⟩ ⟨8, 6, 106, 5, 0, 7, 4, 0, 0, 9, true, 0, 22⟩),
    (0x908106280A834ABC63DBE96D, .ratom ⟨false, 1⟩ ⟨6, 10, 2, 5, 0, 3, 4, 2, 5, 7, true, 0, 1675356525⟩),
    (0x90C004240286768000000000, .rcas ⟨false, 0⟩ ⟨4, 9, 0, 5, 0, 6, 7, 1, 5, 0, false, 0, 0⟩),
    (0x9100002856800000000000D1, .rsig ⟨false, 0⟩ ⟨0, 10, 21, 5, 0, 0, 0, 0, 0, 0, false, 0, 209⟩)]
theorem test_words9 : readsAs words9 = true := by decide
def words10a : List (Nat × Instr) :=
  [(0xA00021001AA0000000010002, .launchCore ⟨false, 0⟩ ⟨1, 2, 0, 3, 21, 0, 0, 0, 0, 0, false, false, false, false, 65538⟩),
    (0xA00045166280000A00000004, .launchStockpot ⟨false, 0⟩ ⟨2, 10, 11, 12, 20, 0, 0, 0, 0, 0, true, false, true, false, 4⟩),
    (0xA076200003200000000003F0, .joinCore ⟨true, 22⟩ ⟨1, 0, 0, 0, 25, 0, 0, 0, 0, 0, false, false, false, false, 1008⟩),
    (0xA077804604E0000000000000, .joinStockpot ⟨true, 23⟩ ⟨4, 0, 35, 0, 39, 0, 0, 0, 0, 0, false, false, false, false, 0⟩),
    (0xA0A780000000200000000000, .bar ⟨true, 7⟩ ⟨4, 0, 0, 0, 0, 0, 1, 0, 0, 0, false, false, false, false, 0⟩),
    (0xA0E34000000A000000000000, .bara ⟨true, 3⟩ ⟨2, 0, 0, 0, 0, 5, 0, 0, 0, 0, false, false, false, false, 0⟩),
    (0xA12340000014A00000000000, .barw ⟨true, 3⟩ ⟨2, 0, 0, 0, 0, 10, 5, 0, 0, 0, false, false, false, false, 0⟩),
    (0xA140000C0000028100044000, .copy ⟨false, 0⟩ ⟨0, 0, 12, 0, 0, 0, 0, 10, 1, 0, 0, 0, 0, 2, 1, 0, 0⟩),
    (0xA180000C0D00028100044014, .mcast ⟨false, 0⟩ ⟨0, 0, 12, 13, 0, 0, 0, 10, 1, 0, 0, 0, 0, 2, 1, 0, 20⟩),
    (0xA1E3000000000BC0000001E0, .cwait ⟨true, 3⟩ ⟨0, 0, 0, 0, 0, 0, 0, 47, 0, 0, 0, 0, 0, 0, 0, 0, 480⟩),
    (0xA20040166280020000000008, .reduce ⟨false, 0⟩ ⟨2, 0, 11, 12, 20, 0, 0, 1, 0, 0, false, false, false, false, 8⟩),
    (0xA200A6966280020000140006, .reducePod ⟨false, 0⟩ ⟨5, 13, 11, 12, 20, 0, 0, 1, 0, 0, false, false, false, false, 1310726⟩),
    (0xA24040000000002000000000, .fence ⟨false, 0⟩ ⟨2, 0, 0, 0, 0, 0, 0, 0, 0, 2, false, false, false, false, 0⟩),
    (0xA28025005BC6004000000000, .bind ⟨false, 0⟩ ⟨1, 10, 0, 11, 30, 3, 0, 0, 1, 0, false, false, false, false, 0⟩)]
theorem test_words10a : readsAs words10a = true := by decide
def words10b : List (Nat × Instr) :=
  [(0xA2C490C00D00028000000000, .unbind ⟨false, 4⟩ ⟨4, 33, 32, 1, 40, 0, 0, 1, 2, 0, false, false, false, false, 0⟩),
    (0xA30880480320000400000001, .armAt ⟨false, 8⟩ ⟨4, 0, 36, 0, 25, 0, 0, 0, 0, 0, false, true, false, false, 1⟩),
    (0xA3008516028000000000001C, .armTag ⟨false, 0⟩ ⟨4, 10, 11, 0, 20, 0, 0, 0, 0, 0, false, false, false, false, 28⟩),
    (0xA34000160280000000000000, .disarm ⟨false, 0⟩ ⟨0, 0, 11, 0, 20, 0, 0, 0, 0, 0, false, false, false, false, 0⟩)]
theorem test_words10b : readsAs words10b = true := by decide
def words11 : List (Nat × Instr) :=
  [(0xB000100000200100B0000801, .mma ⟨false, 0⟩ ⟨1, 0, 0, 0, 2, 0, 0, 4, 0, 11, 0, 0, 0, 0, 0, 2, 1⟩),
    (0xB05E009600000240C8000000, .mmas ⟨false, 30⟩ ⟨0, 0, 150, 0, 0, 0, 0, 9, 0, 12, 2, 0, 0, 0, 0, 0, 0⟩),
    (0xB083000000000000F0000000, .mmat ⟨false, 3⟩ ⟨0, 0, 0, 0, 0, 0, 0, 0, 0, 15, 0, 0, 0, 0, 0, 0, 0⟩),
    (0xB0F100000020058000000000, .hld ⟨true, 17⟩ ⟨0, 0, 0, 0, 2, 0, 0, 22, 0, 0, 0, 0, 0, 0, 0, 0, 0⟩),
    (0xB12730000000000000000000, .zclr ⟨true, 7⟩ ⟨3, 0, 0, 0, 0, 0, 0, 0, 0, 0, 0, 0, 0, 0, 0, 0, 0⟩),
    (0xB16020000000014200020000, .zld ⟨true, 0⟩ ⟨2, 0, 0, 0, 0, 0, 0, 5, 2, 0, 0, 0, 0, 1, 0, 0, 0⟩),
    (0xB1490000000C060000040400, .zldA ⟨false, 9⟩ ⟨0, 0, 0, 0, 0, 12, 0, 24, 0, 0, 0, 0, 0, 2, 0, 1, 0⟩),
    (0xB1400000000002C001020800, .zldK ⟨false, 0⟩ ⟨0, 0, 0, 0, 0, 0, 0, 11, 0, 0, 0, 1, 0, 1, 0, 2, 0⟩),
    (0xB1870300000006C400206000, .zst ⟨false, 7⟩ ⟨0, 3, 0, 0, 0, 0, 0, 27, 4, 0, 0, 0, 2, 0, 1, 8, 0⟩),
    (0xB1A70000000202C00030A400, .zstA ⟨true, 7⟩ ⟨0, 0, 0, 0, 0, 2, 0, 11, 0, 0, 0, 0, 3, 0, 2, 9, 0⟩),
    (0xB1800000000004400100A800, .zstK ⟨false, 0⟩ ⟨0, 0, 0, 0, 0, 0, 0, 17, 0, 0, 0, 1, 0, 0, 2, 10, 0⟩),
    (0xB1F10000000750410031BC00, .zepi ⟨true, 17⟩ ⟨0, 0, 0, 0, 0, 7, 5, 1, 1, 0, 0, 0, 3, 0, 6, 15, 0⟩),
    (0xB220000000000F800000000D, .mwait ⟨true, 0⟩ ⟨0, 0, 0, 0, 0, 0, 0, 62, 0, 0, 0, 0, 0, 0, 0, 0, 13⟩)]
theorem test_words11 : readsAs words11 = true := by decide
def words12 : List (Nat × Instr) :=
  [(0xC00000000000029490000000, .factLu ⟨false, 0⟩ ⟨0, 0, 0, 0, 0, 0, 0, 10, 20, 9, 0, 0, 0, 0, 0, 0, 0⟩),
    (0xC06520000000014080000000, .factCh ⟨true, 5⟩ ⟨2, 0, 0, 0, 0, 0, 0, 5, 0, 8, 0, 0, 0, 0, 0, 0, 0⟩),
    (0xC0B600000000018080000000, .factQr ⟨true, 22⟩ ⟨0, 0, 0, 0, 0, 0, 0, 6, 0, 8, 0, 0, 0, 0, 0, 0, 0⟩),
    (0xC0C010000000039A90000800, .trsm ⟨false, 0⟩ ⟨1, 0, 0, 0, 0, 0, 0, 14, 26, 9, 0, 0, 0, 0, 0, 2, 0⟩),
    (0xC10300000006040690000000, .qapply ⟨false, 3⟩ ⟨0, 0, 0, 0, 0, 6, 0, 16, 6, 9, 0, 0, 0, 0, 0, 0, 0⟩),
    (0xC1432000000001CD90000000, .perm ⟨false, 3⟩ ⟨2, 0, 0, 0, 0, 0, 0, 7, 13, 9, 0, 0, 0, 0, 0, 0, 0⟩),
    (0xC18440000000026180000000, .ztr ⟨false, 4⟩ ⟨4, 0, 0, 0, 0, 0, 0, 9, 33, 8, 0, 0, 0, 0, 0, 0, 0⟩)]
theorem test_words12 : readsAs words12 = true := by decide
def words13 : List (Nat × Instr) :=
  [(0xD00001420000000000000000, .svset ⟨false, 0⟩ ⟨0, 20, 2, 0, 0, 0, 0, 0⟩),
    (0xD07E0000000000000000000C, .svclr ⟨true, 30⟩ ⟨0, 0, 0, 0, 0, 0, 0, 12⟩),
    (0xD0B60C00F850000000000000, .dget ⟨true, 22⟩ ⟨3, 0, 0, 248, 10, 0, 0, 0⟩),
    (0xD0E3CC009280000000000000, .dput ⟨true, 3⟩ ⟨51, 0, 0, 146, 16, 0, 0, 0⟩),
    (0xD13E94000078000000000002, .dstep ⟨true, 30⟩ ⟨37, 0, 0, 0, 15, 0, 0, 2⟩),
    (0xD171140000D8000000000000, .drun ⟨true, 17⟩ ⟨5, 0, 0, 0, 27, 0, 0, 0⟩),
    (0xD1B10C000058000000000002, .dstat ⟨true, 17⟩ ⟨3, 0, 0, 0, 11, 0, 0, 2⟩),
    (0xD1F10000000000004BA42415, .mark ⟨true, 17⟩ ⟨0, 0, 0, 0, 0, 0, 0, 1269048341⟩),
    (0xD23100100000000000000005, .trace ⟨true, 17⟩ ⟨0, 1, 0, 0, 0, 0, 0, 5⟩)]
theorem test_words13 : readsAs words13 = true := by decide
def words14 : List (Nat × Instr) :=
  [(0xE02750000000000100000000, .csrr ⟨true, 7⟩ ⟨20, 0, 0, 0, 0, 0, 1, 0⟩),
    (0xE07E03D00000000200000000, .csrw ⟨true, 30⟩ ⟨0, 61, 0, 0, 0, 0, 2, 0⟩),
    (0xE0B604000000000000000001, .grow ⟨true, 22⟩ ⟨1, 0, 0, 0, 0, 0, 0, 1⟩),
    (0xE0F100000000000000000003, .shrink ⟨true, 17⟩ ⟨0, 0, 0, 0, 0, 0, 0, 3⟩),
    (0xE13100000000000000000001, .trapret ⟨true, 17⟩ ⟨0, 0, 0, 0, 0, 0, 0, 1⟩),
    (0xE16201400000000000000000, .prog ⟨true, 2⟩ ⟨0, 20, 0, 0, 0, 0, 0, 0⟩),
    (0xE1BE10000000000000000001, .clock ⟨true, 30⟩ ⟨4, 0, 0, 0, 0, 0, 0, 1⟩),
    (0xE1E701600000000000000001, .idle ⟨true, 7⟩ ⟨0, 22, 0, 0, 0, 0, 0, 1⟩)]
theorem test_words14 : readsAs words14 = true := by decide

-- ill-formed terms, one for each check (R47 to R57)

def refusedAs (i : Instr) (r : Reject) : Bool := !i.wf && i.legal none none == some r
theorem test_wf_reserved_opcode : refusedAs (.reservedOpcode 0x058000000000000000000000) .reservedOpcode = true := by decide
theorem test_wf_reserved_field : refusedAs (.nop ⟨false, 0⟩ ⟨0, 0, false, 0, 0, 0, 0, false, 0, 0, 1⟩) .reservedField = true := by decide
theorem test_wf_guard_never : refusedAs (.sadd ⟨false, 16⟩ ⟨5, 5, 6, 0, 3, 0, false, 0, 0, 0, 0⟩) .guardNever = true := by decide
theorem test_wf_type : refusedAs (.sadd ⟨false, 0⟩ ⟨5, 5, 6, 0, 9, 0, false, 0, 0, 0, 0⟩) .badType = true := by decide
theorem test_wf_rounding : refusedAs (.vfadd ⟨false, 0⟩ ⟨1, 2, 3, 0, 9, 0, 5, false, false, 0, 0⟩) .badRounding = true := by decide
theorem test_wf_register_pair : refusedAs (.vadd ⟨false, 0⟩ ⟨1, 2, 4, 0, 3, 0, 0, false, false, 0, 0⟩) .badRegister = true := by decide
theorem test_wf_field : refusedAs (.scmp ⟨false, 0⟩ ⟨0, 1, 2, 1, 3, 6, false, 0, 0, 0, 0⟩) .badField = true := by decide
theorem test_wf_no_immediate : refusedAs (.spopc ⟨false, 0⟩ ⟨5, 6, 0, 0, 3, 0, true, 0, 0, 0, 0⟩) .noImmediate = true := by decide
theorem test_wf_extension_word : refusedAs (.sli ⟨false, 0⟩ ⟨5, 0, 0, 0, 3, 0, true, 0, 0, 0, 7⟩ 0) .extensionWord = true := by decide
theorem test_wf_variant : (Instr.wf (.launchCore ⟨false, 0⟩ ⟨2, 2, 0, 3, 21, 0, 0, 0, 0, 0, false, false, false, false, 2⟩)) = false := by decide
/-- Bits [95:86] of 0x016 and of 0x3FF are in the ILLEGAL column of R55. -/
theorem test_reserved_words : [0x058000000000000000000000, 0xFFC000000000000000000000].all (fun w => decodeTableWord 96 w == none)
    = true := by decide

-- states: instruction `i` alone in its step, where `placeWord` puts it

def plainHdr : Hdr := ⟨false, 0⟩
def atStep (i : Instr) (f : State → State) : State :=
  let s := match encode i with
    | [w] => State.reset.placeWord w 0
    | [w, x] => State.reset.placeWord w x
    | _ => State.reset
  let w := match s.agenda with
    | .issue w _ :: _ => w
    | _ => .packageSeq
  f { s with agenda := [], cur := some { who := w, entry := 0, pc := 0, at_ := 0, next := Pc.advance 0 1, role := .single, lads := none } }

/-- The instruction with an unmarked header whose guard is true. -/
def plain (i : Instr) : Instr :=
  match encode i with
  | [w] => decodeRaw (w &&& 0xFFC0FFFFFFFFFFFFFFFFFFFF) 0
  | [w, x] => decodeRaw (w &&& 0xFFC0FFFFFFFFFFFFFFFFFFFF) x
  | _ => i

/-- Every instruction of the list reaches its effect (TRAPRET only in a handler). -/
def begins (l : List (Nat × Instr)) : Bool :=
  l.all (fun p => (begun (plain p.2) plainHdr (atStep (plain p.2) id)).isSome || (Instr.opY p.2).1 == 0x384)
-- The effect of each of these words begins: what ScalarIntegerResults, ScalarDivision, ScalarBitResults, CompareAndSelect,
-- MaskResults, VectorIntegerResults, VectorBitResults, VectorFloatResults, VectorFunctionResults, ConversionResults,
-- CrossLaneResults, MatrixIssue and FactorIssue ask of the state, and EncodeDecodeRoundTrip of a word.

theorem witness_begun_words0a : begins words0a = true := by decide
theorem witness_begun_words0b : begins words0b = true := by decide
theorem witness_begun_words1 : begins words1 = true := by decide
theorem witness_begun_words2 : begins words2 = true := by decide
theorem witness_begun_words3 : begins words3 = true := by decide
theorem witness_begun_words4a : begins words4a = true := by decide
theorem witness_begun_words4b : begins words4b = true := by decide
theorem witness_begun_words5a : begins words5a = true := by decide
theorem witness_begun_words5b : begins words5b = true := by decide
theorem witness_begun_words6 : begins words6 = true := by decide
theorem witness_begun_words7 : begins words7 = true := by decide
theorem witness_begun_words8 : begins words8 = true := by decide
theorem witness_begun_words9 : begins words9 = true := by decide
theorem witness_begun_words10a : begins words10a = true := by decide
theorem witness_begun_words10b : begins words10b = true := by decide
theorem witness_begun_words11 : begins words11 = true := by decide
theorem witness_begun_words12 : begins words12 = true := by decide
theorem witness_begun_words13 : begins words13 = true := by decide
theorem witness_begun_words14 : begins words14 = true := by decide

-- states and operands that meet the further hypotheses of the statements on instruction words

/-- The effect of `i` begins in the state that `f` has set up, and `p` holds there. -/
def met (i : Instr) (f : State → State) (p : Begun → Bool) : Bool := (begun i plainHdr (atStep i f)).any p
def metAll (l : List Instr) (f : State → State) (p : Begun → Bool) : Bool := l.all (fun i => met i f p)

def gang0 : Who := .gang 0 0
def stream0 : Who := .stream 0 0
/-- Registers of slice 0, and of every slice, of the issuers of core 0. -/
def withIss (f : Issuer → Issuer) (s : State) : State := (s.updIssuer gang0 f).updIssuer stream0 f
def withS (l : List (Nat × Dword)) : State → State :=
  withIss (fun u => { u with s := l.flatMap (fun p => (List.range 8).map (fun j => (8 * p.1 + j, p.2))) })
/-- Context 0 maps 2 MiB of its space to package memory from 1 MiB on. -/
def mapped (s : State) : State :=
  s.updDie 0 (fun d => { d with tlb := [{ ctx := 0, va := 0, size := 21, pa := 0x100000, rd := true, wr := true, ex := true }] })

/-- Every slot of the line held is one that an instruction may begin in. -/
def openSlots (s : State) : State := { mapped s with lines := s.lines.map (fun l => { l with data := l.data ||| (0x1F <<< 480) }) }

def bf0 : BFmt := ⟨0, 0, false, 0, 0, 0, 0, false, 0, 0, 0⟩
/-- Every transfer but RET, to slot `v` of its own line, direct or through s9. -/
def transfers (ind : Bool) (v : BitVec 3) : List (Instr × BFmt) :=
  let f : BFmt := { bf0 with st := if ind then 9 else 0, ind := ind, slot := if ind then 0 else v }
  [(.bra plainHdr f, f), (.brc plainHdr { f with cb := 2, inv := true }, f), (.brz plainHdr { f with mt := 2 }, f),
    (.brnz plainHdr { f with mt := 2 }, f), (.brvAny plainHdr { f with mt := 2 }, f), (.brvAll plainHdr { f with mt := 2 }, f),
    (.brl plainHdr { f with q := 1, dim := 4, inv := true }, f), (.call plainHdr { f with sl := 4 }, f)]
/-- Targets in slots 0 and 4, direct and through a register. -/
theorem witness_TransferResults :
    ([(0, false), (4, false), (0, true), (4, true)].all (fun (v, ind) => (transfers ind (BitVec.ofNat 3 v)).all (fun p =>
        met p.1 (fun s => withS [(9, BitVec.ofNat 64 v)] (openSlots s)) (fun b =>
          (b.s.checkTargets b.c.who b.c.u.ctx ((b.taken (fun _ => true) (b.target p.2)).map (fun p => p.2))).1 == Chk.ok)))
      && met (.ret plainHdr { bf0 with sl := 4 }) (fun s => withS [(4, 4)] (openSlots s)) (fun b =>
        (b.s.checkTargets b.c.who b.c.u.ctx ((b.taken (fun _ => true) (b.c.s 4)).map (fun p => p.2))).1 == Chk.ok)) = true := by
  decide +kernel
def toSlot5 (s : State) : State := withS [(9, 5)] (openSlots s)
/-- Every transfer through s9, taken where m2 is all ones and m3 is zero. -/
def taking : List (Instr × BFmt) :=
  let f : BFmt := { bf0 with st := 9, ind := true }
  let m := { f with mt := 2 }
  [(.bra plainHdr f, f), (.brc plainHdr { f with cb := 2, inv := true }, { f with cb := 2, inv := true }),
    (.brz plainHdr { f with mt := 3 }, { f with mt := 3 }), (.brnz plainHdr m, m), (.brvAny plainHdr m, m), (.brvAll plainHdr m, m),
    (.brl plainHdr { f with dim := 4 }, { f with dim := 4 }), (.call plainHdr { f with sl := 4 }, { f with sl := 4 }),
    (.ret plainHdr { bf0 with sl := 9 }, { bf0 with sl := 9 })]
/-- Slot 5, the lowest that no line has, as the target of every transfer, with a handler to take the trap. -/
theorem witness_TransferTargetTrap :
    (let set := fun (s : State) => withIss (fun u => { u with tvec := 128, m := u.m ++ (List.range 8).map (fun j => (8 * 2 + j, 0xF)) }) (toSlot5 s)
     taking.all (fun p => met p.1 set (fun b => b.c.cur.role == Role.single && b.s.evs.all (fun x => !x.load) &&
       (b.s.issuer b.c.who).any (fun u => !u.inh && u.tvec == 128 && (u.frag b.c.entry).held == []) &&
       b.s.checkTargets b.c.who b.c.u.ctx ((b.c.targets (Instr.opY p.1).1 p.2).map (fun p => p.2)) == (Chk.bad 2, 5)))) = true := by
  decide +kernel
/-- A target past the slots of a line, one in a slot that no instruction begins in, one of a bad line and one of a line that is not at
hand, alone and together. -/
theorem witness_TransferTargetTrap_checks :
    (let s : State := { State.reset with lines := [⟨.core 0, 0, 0, 1 <<< 480, none⟩, ⟨.core 0, 0, 1, 0x1F <<< 480, some 1⟩] }
     let one := fun (t : Dword) => s.checkTarget gang0 0 t
     let all := fun (l : List Dword) => (s.checkTargets gang0 0 l).1
     [one 5 == .bad 2, one 8 == .bad 2, one (1 <<< 63) == .bad 2, one 0 == .ok, one 1 == .bad 2, one 64 == .bad 1, one 68 == .bad 1,
      (match one 128 with
        | .wait _ => true
        | _ => false),
      (match all [5, 64, 128] with
        | .wait _ => true
        | _ => false),
      all [5, 64] == .bad 1, all [0, 1] == .bad 2, all [0, 0] == .ok].all id) = true := by decide +kernel

/-- The handler of a trap of gang 0 whose return goes to the head of line 0. -/
def inHandler (s : State) : State :=
  withIss (fun u => u.enter 0 0 ⟨6, 0, 0, 0, none, none, none, none, none⟩) s
def inCore0 (f : Core → Core) (s : State) : State := s.updCore 0 f
def df0 : DFmt := ⟨0, 0, 0, 0, 0, 0, 0, 0⟩
theorem witness_ControlResults :
    (metAll [.nop plainHdr bf0, .yield plainHdr bf0, .regang plainHdr bf0, .exit plainHdr bf0, .trap plainHdr { bf0 with disp := 0xFFFF }] id
        (fun _ => true)
      && met (.trapret plainHdr df0) inHandler (fun b => b.c.u.saved.any (fun v => v.ins == none) && !(bitAt df0.imm 0))
      && met (.trapret plainHdr { df0 with imm := 1 }) inHandler (fun b => b.c.u.saved.any (fun v => v.ins == none) &&
        (b.s.lineAt b.c.who.place b.c.u.ctx (lineOf (b.c.u.tepc.setWidth 57))).isSome)) = true := by decide +kernel

theorem witness_GangAccessResults :
    (words8.filter (fun p => (Instr.opY p.2).1 != 0x209 && (Instr.opY p.2).1 != 0x20A)).all (fun p =>
      met (plain p.2) id (fun b => b.c.who == gang0 && b.c.u.freeLog.isSome)) = true := by decide +kernel

/-- A GROW to 32 of 32 registers per slice, one beyond, PROG, every special register that the statement gives the content of, those that
are absent, read only, of a block without the array and of a context without debug, and two illegal values. -/
theorem witness_ResourceResults :
    (let r := fun (k : Nat) => Instr.csrr plainHdr { df0 with sd := 5, csr := BitVec.ofNat 16 k }
     let w := fun (k : Nat) => Instr.csrw plainHdr { df0 with sa := 5, csr := BitVec.ofNat 16 k }
     let inBlock := fun (b : Begun) (p : Block → Bool) => match b.s.blockOf b.c.who with
       | some (m, k) => (b.s.block m k).any p
       | none => false
     let noArray := inCore0 (fun c => { c with blocks := c.blocks.map (fun p => (p.1, { p.2 with array := false })) })
     let noDebug := fun (s : State) => s.updCtx 0 (fun c => { c with debug := false })
     met (.grow plainHdr { df0 with sd := 1, imm := 24 }) (withIss (fun u => { u with alloc := 8 })) (fun b =>
        b.c.who == gang0 && b.c.fr.wait == .none && decide (b.c.u.alloc + 24 ≤ 32) && b.s.noneOlder 0 b.c.who &&
        decide (8 * 24 ≤ (b.s.core 0).freeRegs))
      && met (.grow plainHdr { df0 with sd := 1, imm := 1 }) id (fun b =>
        b.c.who == gang0 && b.c.fr.wait == .none && decide (32 < b.c.u.alloc + 1))
      && met (.prog plainHdr { df0 with imm := 7 }) id (fun b => inBlock b (fun x => x.bprogBy == none))
      && metAll ([0x10, 0x11, 0x12, 0x20, 0x21, 0x22, 0x23, 0x24, 0x25, 0x26].map r ++ [0x10, 0x11, 0x20, 0x21, 0x22, 0x23, 0x25, 0x26].map w) id
        (fun b => (b.s.issuer b.c.who).isSome && b.c.who == gang0)
      && metAll ([0, 15, 0x600, 0xFFF].map r ++ [0, 15, 0x600, 0xFFF, 0x12, 0x24].map w) id (fun b => b.c.cur.role == Role.single)
      && metAll ([0x300, 0x310, 0x31F].map r ++ [0x300, 0x310, 0x31F].map w) noArray (fun b => inBlock b (fun x => !x.array))
      && metAll ([0x400, 0x451, 0x470].map r ++ [0x400, 0x451, 0x470].map w) noDebug (fun b => inBlock b (fun _ => true) && !(b.s.debugOk b.c.u))
      && [0x0300, 0x1900].all (fun v => met (w 0x460) (withS [(5, v)]) (fun b => inBlock b (fun _ => true) &&
        (bitsAt (b.c.sl 5) 8 5 < 4 || 24 < bitsAt (b.c.sl 5) 8 5)))
      && met (w 0x461) (withS [(5, 1)]) (fun b => inBlock b (fun _ => true) && bitsAt (b.c.sl 5) 0 6 != 0)) = true := by decide +kernel
theorem witness_IdleResults :
    (met (.idle plainHdr df0) id (fun b => !b.c.who.isSeq)
      && met (.idle plainHdr { df0 with sa := 5, imm := 0x8001 }) (fun s =>
          { withIss (fun u => { u with frags := u.frags.map (fun p => (p.1, { p.2 with wait := .idle 0 })) }) (withS [(5, 10)] s) with
            cycles := 10 }) (fun b =>
        [0, 15].all (fun n => decide (n < b.s.barCount b.c.who)) && b.c.fr.wait == .idle 0 && b.s.idleOver 0 (b.c.sl 5).toNat
        && (match b.c.idleDone ([0, 15].map (fun n => b.s.barKey b.c.who 1 n)) b.s with
          | .ok _ => true
          | _ => false))) = true := by decide +kernel

def lf0 : LFmt := ⟨0, 0, 0, 0, 0, 0, 0, 0, 0, 0, false, false, false, false, 0⟩
/-- BAR and BARW at a flip that has been seen, with ERR clear and set, an arrival that flips at once, a FENCE with nothing outstanding
and with a store, bindings new, held and too many, and removals. -/
theorem witness_BarrierResults :
    (let f : LFmt := { lf0 with lvl := 1, b := 15, cd := 3 }
     let k : BarKey := .block 0 0 15
     let fr := withIss (fun u => { u with frags := u.frags.map (fun p => (p.1, { p.2 with wait := .arrived })) })
     let seen := fun (e : Bool) (s : State) => s.setArr k gang0 (List.range 8) (.closed e)
     let bf : LFmt := { lf0 with lvl := 1, se := 10, sp := 11, sd := 30, b := 3, scope := 1 }
     let regs := withS [(11, 64)]
     let x : Binding := { space := 1, base := 0, len := 64, obj := .bar 1 3 }
     let has := fun (l : List Binding) (s : State) => regs (s.updCtx 0 (fun c => { c with bindings := l }))
     [met (.bara plainHdr { f with cd := 0 }) id (fun b => b.c.barOf f b.s == .inl k && !(b.c.mustRelease f b.s) &&
        !(b.s.mustHold k b.c.who b.c.pass)),
      met (.bar plainHdr f) (fun s => { s with bars := s.bars.put k (Barrier.reset 1) }) (fun b => b.c.barOf f b.s == .inl k && !(b.c.mustRelease f b.s) && !(b.s.mustHold k b.c.who b.c.pass) &&
        b.c.fr.wait != .arrived && (((b.s.setWait b.c.who b.c.entry .arrived).arrive k b.c.who b.c.pass b.c.u.liveSlices).waitEnded
          k b.c.who b.c.pass).isSome),
      [false, true].all (fun e =>
        met (.bar plainHdr f) (fun s => fr (seen e s)) (fun b => b.c.fr.wait == .arrived && b.s.waitEnded k b.c.who b.c.pass == some e)
        && met (.barw plainHdr f) (seen e) (fun b => b.c.barOf f b.s == .inl k && b.s.waitEnded k b.c.who b.c.pass == some e)),
      met (.fence plainHdr { lf0 with lvl := 1, ord := 2 }) id (fun b => b.c.u.entriesOf b.c.slices b.c.fr.isDbg true == []),
      [[], [x], List.replicate 256 { x with base := 64 }].all (fun l =>
        met (.bind plainHdr bf) (has l) (fun b => b.c.binding bf false == some x && (b.s.ctxOf b.c.u.ctx).bindings == l)
        && met (.unbind plainHdr bf) (has l) (fun b => b.c.binding bf false == some x)),
      met (.unbind plainHdr { bf with lvl := 0, se := 0, sp := 0, imm := 1 }) (has [x]) (fun b =>
        (b.c.binding { bf with lvl := 0, se := 0, sp := 0, imm := 1 } true).any (fun y => y.obj == x.obj))]).all id = true := by decide +kernel

/-- A header of a core-level kernel that starts at line 1 with 64 registers a gang, where context 0 reads address 0. -/
def withHeader (s : State) : State :=
  mapped { s with mem := s.mem.write 0x100000 [64, 0, 0, 0, 0, 0, 0, 0, 8, 0, 16, 0] }
/-- LAUNCH of 15 gangs beside one, of 16, and of 2 while a request waits; JOIN of a group that has no gang. -/
theorem witness_CoreLaunchAndJoin :
    (let f : LFmt := { lf0 with lvl := 1, se := 2, sd := 21, imm := 15 }
     let reads := fun (b : Begun) => match b.s.readHeader b.c.who.die b.c.u.ctx (b.c.s 2 0) with
       | .ok bs => (Header.ofBytes bs [0, 6]).isSome
       | _ => false
     let waits := fun (s : State) => s.updCore 0 (fun k => { k with poolQ := [⟨1, stream0, 0, 8, 1, 0, 0⟩] })
     [met (.launchCore plainHdr f) withHeader (fun b => b.c.who == stream0 && b.c.fr.wait == .none && reads b &&
        b.s.noneOlder 0 stream0 && decide (15 * 64 ≤ (b.s.core 0).freeRegs) && decide (15 ≤ (b.s.core 0).freeGids.length) &&
        ((b.s.core 0).gangsOf 0).length == 1),
      met (.launchCore plainHdr { f with imm := 16 }) withHeader (fun b => b.c.who == stream0 && reads b &&
        decide (16 < 16 + ((b.s.core 0).gangsOf 0).length)),
      met (.launchCore plainHdr { f with imm := 2, nb := true }) (fun s => waits (withHeader s)) (fun b =>
        b.c.who == stream0 && reads b && !(b.s.noneOlder 0 stream0)),
      met (.joinCore plainHdr { lf0 with lvl := 1, sd := 21, imm := 2 }) id (fun b => b.c.who == stream0 &&
        ((b.s.core 0).gangsOf 0).all (fun p => !((2 : Nat).testBit p.2.group)) && !((b.s.core 0).leaving 0 (fun g => (2 : Nat).testBit g)) && (b.s.block 0 0).isSome)]).all id = true := by decide +kernel

/-- A record LAUNCH and a JOIN at a cluster, groups out of range and over, a pod JOIN answered, REDUCE at a cluster and at pod level to
the highest package, both ARMs, DISARM of nothing, of an arm of the issuer's and of stale
names, and a pod JOIN and REDUCE whose package no path leads to. -/
theorem witness_StockpotResults :
    (let jf : LFmt := { lf0 with lvl := 2, sk := 35, sd := 39 }
     let ended := fun (g : Nat) (s : State) => withS [(35, BitVec.ofNat 64 g)] (s.updPot 0 (fun p =>
       { p with groups := [((0, g), ⟨0, 0, []⟩)] }))
     let arm : Arm := { ctx := 0, img := Image.ofBytes [], level := 3, isTag := false, arg := 0, period := 0, persist := false, gen := 1,
                        order := 0, fired := 3, waiting := none, backlog := [] }
     let routed := fun (s : State) => withS [(40, 1056)] { s with fabid := 0, rtent := s.rtent.put 1056 (rtentReset ||| 0x8000000000000000) }
     [met (.launchStockpot plainHdr { lf0 with lvl := 2, se := 10, sk := 11, sd := 12, imm := 3 }) id (fun b =>
        resolve b.c.u.level 2 != some 1),
      [0, 1, 4095, 4096].all (fun g => met (.joinStockpot plainHdr jf) (ended g) (fun b => resolve b.c.u.level 2 == some 2 &&
        (g == 0 || g == 4096 || b.s.groupOver (potOf b.c.who 2) b.c.u.ctx g == some 0))),
      met (.joinStockpot plainHdr { jf with lvl := 5 }) (fun s => withIss (fun u =>
          { u with frags := u.frags.map (fun p => (p.1, { p.2 with wait := .joinDone 7 })) }) (ended 1 s)) (fun b =>
        resolve b.c.u.level 5 == some 5 && b.c.fr.wait == .joinDone 7 && bitsAt (b.c.sl 35) 0 16 == 1),
      [0x11000001, 0x4210001, 0x80000001].all (fun v => met (.joinStockpot plainHdr { jf with lvl := 5 }) (withS [(35, v)]) (fun b =>
        resolve b.c.u.level 5 == some 5 && b.c.fr.wait == .none && bitsAt (b.c.sl 35) 0 16 == 1 && (bitsAt (b.c.sl 35) 27 37 != 0 ||
          decide (1056 < bitsAt (b.c.sl 35) 16 11) || !(b.s.hasPath (bitsAt (b.c.sl 35) 16 11))))),
      [7, 1057].all (fun r => met (.reducePod plainHdr { lf0 with lvl := 5, sk := 40, sp := 42, sd := 43, op := 6, imm := 2 })
        (withS [(40, BitVec.ofNat 64 r)]) (fun b => resolve b.c.u.level 5 == some 5 &&
          (decide (1056 < bitsAt (b.c.sl 40) 0 11) || !(b.s.hasPath (bitsAt (b.c.sl 40) 0 11))))),
      metAll [.armAt plainHdr { lf0 with lvl := 3, sk := 2, sd := 45, imm := 1 }, .armTag plainHdr { lf0 with lvl := 4, sk := 2, imm := 0x1C }] id (fun _ => true),
      [0x00023FFF, 0x100013FFF, 0x00017FFF].all (fun v => met (.disarm plainHdr { lf0 with sk := 2, sd := 45 }) (fun s =>
          withS [(2, v)] (s.updDie 3 (fun d => { d with arms := [(4095, arm)] }))) (fun b =>
        ((b.s.die 3).arms.find 4095).any (fun a => a.gen != bitsAt (b.c.sl 2) 16 16 || bitsAt (b.c.sl 2) 32 32 != 0 ||
          bitsAt (b.c.sl 2) 14 2 != 0) && bitsAt (b.c.sl 2) 12 2 == 3 && bitsAt (b.c.sl 2) 0 12 == 4095)),
      met (.reduce plainHdr { lf0 with lvl := 2, sk := 1, sd := 43, op := 3, imm := 12 }) id (fun b => resolve b.c.u.level 2 == some 2),
      met (.reducePod plainHdr { lf0 with lvl := 5, sk := 40, sp := 42, sd := 43, op := 6, imm := 2 }) routed (fun b =>
        resolve b.c.u.level 5 == some 5 && bitsAt (b.c.sl 40) 0 11 == 1056 && b.s.hasPath 1056),
      met (.disarm plainHdr { lf0 with sk := 2, sd := 45 }) id (fun b => ((b.s.die 0).arms.find 0).isNone),
      met (.disarm plainHdr { lf0 with sk := 2, sd := 45 }) (fun s => withS [(2, 0x00013FFF)] (s.updDie 3 (fun d =>
          { d with arms := [(4095, arm)] }))) (fun b =>
        ((b.s.die 3).arms.find 4095).any (fun a => a.ctx == b.c.u.ctx && a.gen == bitsAt (b.c.sl 2) 16 16) &&
          bitsAt (b.c.sl 2) 12 2 == 3 && bitsAt (b.c.sl 2) 0 12 == 4095 && bitsAt (b.c.sl 2) 32 32 == 0 && bitsAt (b.c.sl 2) 14 2 == 0)]).all id = true := by decide +kernel

def xf0 : XFmt := ⟨0, 0, 0, 0, 0, 0, 0, 0, 0, 0, 0, 0, 0, 0, 0, 0, 0⟩
/-- A COPY of 0 bytes, of 16 and of all a core's scratch, MCASTs to eight cores of which one has a block, to that one, to the others, and of 0 bytes, and a CWAIT with nothing outstanding. -/
theorem witness_CopyResults :
    (let f : XFmt := { xf0 with vx := 12, sa := 10, sb := 1, lfrom := 2, lto := 1 }
     let m : XFmt := { xf0 with vx := 12, vy := 13, sa := 10, sb := 1, lfrom := 2, lto := 1 }
     let args := fun (b : Begun) (dst dsize src ssize : Nat) => match copyArgs false (b.c.sl 12) dst dsize src ssize with
       | .inl _ => false
       | .inr _ => true
     [[(0, 0), (16, 0), (16, 524272), (524288, 0)].all (fun p => met (.copy plainHdr f)
        (withS [(12, BitVec.ofNat 64 p.1), (10, BitVec.ofNat 64 p.2)]) (fun b => match b.c.copyEnds f b.s with
          | .inr _ => false
          | .inl (dst, dsize, src, ssize, _, _) => b.c.u.level == 0 && decide (f.b.toNat < b.s.barCount b.c.who) &&
            args b dst.addr dsize src.addr ssize && !(b.s.notOwned b.c.u.ctx dst) && !(b.s.notOwned b.c.u.ctx src) &&
            b.s.copies == [])),
      [(16, 0xFF), (16, 1), (16, 0xFE), (0, 0xFF)].all (fun p => met (.mcast plainHdr m)
        (withS [(12, BitVec.ofNat 64 p.1), (13, BitVec.ofNat 64 p.2)]) (fun b =>
          args b (b.c.sl 10).toNat Config.scratchBytes (b.c.sl 1).toNat Config.clusterBytes &&
          bitsAt (b.c.sl 13) 0 8 != 0 && bitsAt (b.c.sl 13) 56 8 == 0 && b.s.copies == [] &&
          (b.s.mcastMember b.c.u.ctx 0 0 0).isSome && (List.range 7).all (fun k => (b.s.mcastMember b.c.u.ctx (k + 1) 0 0).isNone))),
      met (.cwait plainHdr { xf0 with sa := 47 }) id (fun b => b.s.outstanding b.c.who == 0)]).all id = true := by decide +kernel
/-- Where no copy is in progress every engine has room. -/
theorem witness_room (s : State) (q : Place × Bool) (h : s.copies = []) : s.queued q < 16 := by simp [State.queued, h]

theorem witness_RemoteResults :
    words9.all (fun p => met (plain p.2) id (fun b => b.c.who == gang0 &&
      decide ((groupBy (b.c.pass.map (fun j => (j, b.c.s 9 j)))).length ≤ ((List.range 16).filter (fun n => (b.c.u.log.find n).isNone)).length))) = true := by decide +kernel

/-- All of group 11 with room in the queue, operands at address 0 and at the last that fits, and an MWAIT with nothing outstanding. -/
theorem witness_MatrixIssue :
    (let room := fun (b : Begun) => b.c.who.core? == some 0 && b.s.holdsArray b.c.who && decide ((b.s.core 0).aq.length < 16)
     [words11.all (fun p => met (plain p.2) id (fun b => room b && b.c.u.mpitch == 0 && b.c.sl 5 == 0 &&
        decide (3 < b.s.barCount b.c.who))),
      met (.zldK plainHdr { xf0 with sa := 5, k := 1, lfrom := 1, aux := 2 }) (withS [(5, 524224)]) (fun b => room b &&
        footBad [⟨b.c.sl 5, 0, 64, 1, spaceSize ((resolve b.c.u.level 1).getD 0)⟩] == none),
      met (.mwait plainHdr { xf0 with sa := 5 }) id (fun b => room b && b.s.arrOut b.c.who == 0)]).all id = true := by decide +kernel
/-- All of group 12 on a block of 2 by 2, the last rows and columns of a tile of 32 among them. -/
theorem witness_FactorIssue :
    words12.all (fun p => match (plain p.2).form with
      | some (op, _, .x f) =>
        let x : Dword := 0x0000001E1E000202 ||| (if op = 0x304 ∨ op = 0x306 then 0x20000 else 0)
        met (plain p.2) (withIss (fun u => { u with s := (List.range 512).map (fun k => (k, x)) })) (fun b =>
          b.c.who.core? == some 0 && b.s.holdsArray b.c.who && decide ((b.s.core 0).aq.length < 16) && b.c.sl f.sa == x &&
          shapeBad op f.ty.toNat (f.zd == f.za) x == none)
      | _ => false) = true := by decide +kernel

/-- Gang 1 of core 0, its lanes in state `st`, beside gang 0. -/
def withGang1 (st : FragSt) (f : Issuer → Issuer) (s : State) : State :=
  let g := { Issuer.fresh 0 0 with alloc := 32, frags := [(0, { Frag.fresh 0 0xFFFFFFFF 0xFF with st := st })] }
  s.updCore 0 (fun c => { c with gangs := c.gangs ++ [(1, f g)] })
/-- Sieve 15 and sieve 0, no gang 31, and s63 of slice 7 of a halted gang, of one that runs, with and without a result on its way. -/
theorem witness_DebugResults :
    (let f : DFmt := { df0 with sd := 8, gid := 1, imm := 0x13F70000 }
     let base := fun (b : Begun) => b.c.who.core? == some 0 && b.s.debugOk b.c.u
     let halted := fun (fl : List Flight) => withGang1 .halted (fun u => { u with flights := fl })
     let fl : Flight := { slice := 7, dbg := false, kind := .fixed, left := some 3, ready := false, tag := 0, tgts := [.s 7 63 1],
                          load := none, src := none, cap := 256 }
     let at1 := fun (b : Begun) (p : Issuer → Bool) => ((b.s.core 0).gangs.find 1).any p && b.c.who != .gang 0 1
     [metAll [.mark plainHdr { df0 with imm := 7 }, .trace plainHdr { df0 with sa := 1, imm := 5 }] id base,
      [0, 15].all (fun v => met (.svset plainHdr { df0 with sa := 20, sv := v }) id (fun b =>
        base b && sieveBad v.toNat (b.c.sl 21 ++ b.c.sl 20) == 0)),
      met (.svclr plainHdr { df0 with imm := 0xFFFF }) id base,
      metAll [.dget plainHdr { f with gid := 31 }, .dput plainHdr { f with gid := 31 }, .dstat plainHdr { df0 with sd := 8, gid := 31 }]
        id (fun b => base b && ((b.s.core 0).gangs.find 31).isNone),
      metAll [.dget plainHdr f, .dput plainHdr f] (halted []) (fun b => base b && at1 b (fun u => u.sliceStopped 7 &&
        !(b.s.pending 0 1 u 1 63 [7]))),
      met (.dput plainHdr f) (halted [fl]) (fun b => base b && at1 b (fun u => u.sliceStopped 7 && b.s.pending 0 1 u 1 63 [7])),
      met (.dget plainHdr f) (withGang1 .eligible id) (fun b => base b && at1 b (fun u => !(u.sliceStopped 7))),
      met (.dstat plainHdr { df0 with sd := 8, gid := 1, imm := 0x2000 }) (halted []) (fun b => base b && at1 b (fun _ => true)),
      met (.drun plainHdr { df0 with sd := 8, gid := 1 }) (halted []) base,
      met (.dstep plainHdr { df0 with sd := 8, gid := 1, imm := 1 }) (halted []) (fun b => base b &&
        (match (b.c.async .status b.s).1.dstep 0 (some b.c.who) (dbgOf { df0 with sd := 8, gid := 1, imm := 1 }) b.c.who
            (b.c.async .status b.s).2 8 b.c.passMask with
          | .inl _ => false
          | .inr _ => true))]).all id = true := by decide +kernel

-- states that meet the hypotheses of the statements on events

/-- A live context 0, core 0 taken by it with gang 0 and block 0. -/
def live : State := { State.reset.placeWord 0 0 with agenda := [], lines := [] }
def frag0 (f : Frag → Frag) : State → State := withIss (fun u => { u with frags := u.frags.map (fun p => (p.1, f p.2)) })
def inCore (f : Core → Core) (s : State) : State := s.updCore 0 f
def poolReq (w : Who) (regs n : Nat) : PoolReq := ⟨1, w, 0, regs, n, 0, 0⟩

/-- A GROW up to and over 32 registers, a LAUNCH that fits, one that cannot while all its gangs wait, an IDLE under way. -/
theorem witness_PoolAndWaitEvents :
    (let alloc := fun (n : Nat) => withIss (fun u => { u with alloc := n })
     let first := fun (s : State) (q : PoolReq) (fits : Bool) => (s.core 0).poolQ == [q] && (s.core 0).fits q == fits
     [[(8, 24), (9, 24)].all (fun p =>
        let s := inCore (fun c => { c with poolQ := [poolReq gang0 (8 * p.2) 0] }) (alloc p.1 live)
        first s (poolReq gang0 (8 * p.2) 0) true && ((s.core 0).gangs.find 0).any (fun u => u.alloc + p.2 == p.1 + 24)),
      (let s := inCore (fun c => { c with poolQ := [poolReq stream0 64 2] })
         (frag0 (fun f => { f with wait := .pool 1, st := .blocked }) live)
       first s (poolReq stream0 64 2) true && ((s.core 0).blocks.find 0).any (fun b =>
         (b.stream.frag 0).wait == .pool 1 && (b.stream.frag 0).st == .blocked)),
      (let s := inCore (fun c => { c with poolQ := [poolReq gang0 6144 0] })
         (frag0 (fun f => { f with wait := .pool 1, st := .blocked, why := .grow }) live)
       first s (poolReq gang0 6144 0) false && (s.core 0).gangs.all (fun p => p.2.growBlocked)),
      (let s := frag0 (fun f => { f with wait := .idle 3, st := .blocked }) live
       ((s.core 0).gangs.find 0).any (fun u => (u.frag 0).wait == .idle 3 && (u.frag 0).st == .blocked))]).all id = true := by decide +kernel

/-- Gang 31 after gang 0 was sampled, in a core that samples. -/
theorem witness_CycleAndSampleEvents :
    (let s := inCore (fun c => { c with
       gangs := [(31, Issuer.fresh 0 0)], probe := { c.probe with trctl := 0xF8, lastSample := some 0 } }) live
     [((s.core 0).gangs.find 31).isSome, bitsAt (s.core 0).probe.trctl 3 5 != 0, (s.core 0).probe.lastSample.any (fun l => l < 31),
      (List.range 31).all (fun x => ((s.core 0).gangs.find x).isNone)]).all id = true := by decide +kernel

def arrOp (i : Instr) : ArrOp :=
  { who := gang0, slices := 0xFF, lmask := 0xFFFFFFFF, dbg := false, pc := 0, ins := i, tag := 1, sa := 0, sb := 0, pitch := 0, va := [], vb := [],
    started := false, ended := false, step := 0, maxIn := 0, swaps := 0, status := 0, scol := 0, tau := [], flags := 0, cycle := 0 }
def row0 : PendRow := { id := 5, row := 5, len := 16, tag := 1, who := gang0, loc := .core 0 524272, bytes := List.replicate 16 7, bar := none }
/-- ZCLR, an array load in its course and at its last row, one whose source faults, and a row at the end of scratch. -/
theorem witness_ArrayEvents :
    (let with1 := fun (o : ArrOp) => inCore (fun c => { c with aq := [o] }) { live with cycles := 1 }
     let f : XFmt := { xf0 with lfrom := 1 }
     let kind := fun (s : State) (o : ArrOp) => match s.stepOp 0 { o with started := true } with
       | .more _ _ => 1
       | .finished _ _ _ => 2
       | .bad _ _ _ _ _ _ => 3
       | _ => 0
     let ok := fun (s : State) (o : ArrOp) => decide (s.mem.wf = true) && !((s.core 0).arrayStopped) &&
       (s.core 0).aq.find? (fun o => !o.ended) == some o && o.cycle < s.cycles && (s.core 0).rows == []
     [(let o := arrOp (.zclr plainHdr { xf0 with zd := 15 })
       ok (with1 o) o),
      [0, 62].all (fun k =>
        let o := { arrOp (.zld plainHdr f) with step := k }
        ok (with1 o) o && kind (with1 o) o == 1),
      (let o := { arrOp (.zld plainHdr f) with step := 63 }
       ok (with1 o) o && kind (with1 o) o == 2),
      (let o := arrOp (.zld plainHdr f)
       let s := (with1 o).setPoison (coreKey 0 0 / 64)
       ok s o && kind s o == 3),
      (let o := arrOp (.mwait plainHdr xf0)
       ok (with1 o) o && o.flags == 0),
      (let o := arrOp (.zld plainHdr { f with zd := 15, sa := 5 })
       let s := inCore (fun c => { c with rows := [{ row0 with loc := .core 0 240 }] }) (with1 o)
       (match s.stepOp 0 { o with started := true } with
         | .hold => true
         | _ => false)),
      (let o := { arrOp (.zst plainHdr { xf0 with lto := 1 }) with step := 63 }
       (match (with1 o).stepOp 0 { o with started := true } with
         | .finished t p _ => (t.core 0).rows.any (fun r => r.who == p.who && r.tag == p.tag)
         | _ => false)),
      (let s := inCore (fun c => { c with rows := [row0], blocks := [], gangs := [] }) live
       (s.core 0).rows == [row0] && row0.bar == none && (s.core 0).blocks == [] && (s.core 0).aq == [] && (s.core 0).preempt == none),
      (let s := inCore (fun c => { c with rows := [{ row0 with id := 4, loc := .core 0 524256 }, row0] }) live
       (s.core 0).rows.find? (fun q => q.id = 5) == some row0 && (s.core 0).blocks != [] && (s.core 0).blocks.all (fun b => b.2.treat != .flush) &&
         ((s.core 0).rows.takeWhile (fun q => q.id ≠ 5)).all (fun q => decide (q.loc.flat + q.bytes.length ≤ row0.loc.flat)))]).all id = true := by decide +kernel

/-- A weight image header at byte 16 of the scratch of core 0: K extent 32, format 0, mode 0, `len` payload bytes. -/
def withImage (len : Nat) (s : State) : State :=
  { s with mem := s.mem.write (coreKey 0 16) ([32, 0, 0, 0] ++ bytesOf len 4) }
def slot0 : HSlot := { valid := true, mode := 0, kext := 64, format := 0, payload := List.replicate 4096 0 }
def got (g : Got (List Byte)) : Nat := match g with
  | .hold => 0
  | .pois _ => 1
  | .ok _ => 2
/-- Reads that a pending row holds back, that meet poison, and that return, at the end of scratch and of cluster memory; the operands of
a multiply from scratch and from a slot; slots that cannot be used; a poisoned row of a tile; weight images out of range, held back,
poisoned, malformed in their header and in their payload, and whole; permutation entries in and out of a tile. -/
theorem witness_ArrayEvents_reads :
    (let held := fun (a : Nat) => inCore (fun c => { c with rows := [{ row0 with loc := .core 0 a }] })
     let pois := fun (a : Nat) (s : State) => s.setPoison (coreKey 0 a / 64)
     let slots := fun (l : List (Nat × HSlot)) => inCore (fun c => { c with hslots := l }) live
     let usable := fun (s : State) (kk : Nat) => ((s.core 0).hslots.find 7).any (fun q => q.valid && q.format == 0 && decide (kk ≤ q.kext))
     let header := fun (s : State) => match s.arrRead 0 1 16 16 with
       | .ok b => HSlot.ofHeader b
       | _ => none
     let blocks := fun (q : HSlot × Nat) => HSlot.blocks { q.1 with payload := List.replicate q.2 0 }
     let rows := fun (s : State) => match s.arrReads 0 1 32 ((List.range 64).map (fun r => r * 64)) with
       | .hold => 0
       | .pois _ => 1
       | .ok _ => 2
     [got ((held 524272 live).arrRead 0 1 524272 16) == 0, got ((held 524256 live).arrRead 0 1 524271 16) == 0,
      got ((pois 524272 live).arrRead 0 1 524272 16) == 1, got (live.arrRead 0 1 524272 16) == 2, got (live.arrRead 0 2 (2 ^ 23 - 16) 16) == 2,
      (List.range 64).all (fun r => got (live.arrRead 0 1 (r * 32) 32) == 2), rows live == 2, rows (held 64 live) == 0, rows (pois 4032 live) == 1,
      usable (slots [(7, slot0)]) 64, !(usable (slots [(7, slot0)]) 96), !(usable (slots [(7, { slot0 with valid := false })]) 64),
      !(usable (slots []) 32), slot0.blocks.isSome,
      (live.core 0).poisonedRow 7 (List.range 64) == none,
      ((inCore (fun c => { c with zpoison := [64 * 7 + 63] }) live).core 0).poisonedRow 7 [63] == some 0x73F,
      [0, 64, 256].all (fun n => got (live.arrRead 0 1 0 n) == 2),
      Config.scratchBytes < 524280 + 16, got ((held 16 live).arrRead 0 1 16 16) == 0, got ((pois 0 live).arrRead 0 1 16 16) == 1,
      header live == none, (header (withImage 2048 live)).any (fun q => q.2 == 2048 && (blocks q).isSome),
      (header (withImage 100 live)).any (fun q => q.2 == 100 && (blocks q).isNone), Config.scratchBytes < 524272 + 16 + 2048,
      got ((held 32 (withImage 2048 live)).arrRead 0 1 32 2048) == 0, got ((pois 2079 (withImage 2048 live)).arrRead 0 1 32 2048) == 1,
      got ((withImage 2048 live).arrRead 0 1 32 2048) == 2,
      (live.core 0).zpoison == [], (List.range 32).all (fun r => decide (((live.core 0).kEntry 3 r).toNat < workWidth 9)),
      ((live.core 0).kEntry 3 32).toNat == workWidth 8]).all id = true := by decide +kernel

def img0 (op limit : Nat) : Image :=
  { key := 9, words := List.replicate 10 0, ctl := fieldAt 0 64 ||| fieldAt 32 1 ||| fieldAt 35 5 ||| fieldAt 42 op ||| fieldAt 46 2,
    lim := BitVec.ofNat 32 limit }
def rec0 (i : Image) : Rec :=
  { ctx := 0, img := i, count := 1, st := .waiting, sealed := none, created := 0, order := 0, gates := [], gateErr := false, home := 0,
    groups := [], runner := none, contribs := [], from_ := [], flushed := none, result := none, timeout := none, packets := [],
    partition := [], podN := none, cutAt := none }
def insert0 (i : Image) : PendIns :=
  { id := 1, pot := 0, ctx := 0, die := 0, src := .launch gang0 0xFF 1 12 false, space := 1, addr := 0, bad := false, img := some i,
    key := none, words01 := none, nb := false, ns := false, level := 2, timeout := none, podN := none, seq := 0, frag := 0xFF, dbg := false,
    old := false, spfull := false, stalled := false, again := false, sent := none, ghost := none }
def inPot (p : Nat) (l : List (Nat × Rec)) (s : State) : State := s.updPot p (fun q => { q with recs := l })
def emptyCore (s : State) : State := inCore (fun c => { c with gangs := [], blocks := [] }) s

/-- An insert that meets its record below and at the limit, records that move down to one like them below, at and past their limit and to
none, one that a flush has sealed, records placed in a core, a sequencer and the package, a record whose gate is in error, a block about to start, a record whose
runner has ended, a block that has. -/
theorem witness_RecordEvents :
    ([[2, 3].all (fun lim =>
        let p := insert0 (img0 1 lim)
        let s := inPot 0 [(15, rec0 (img0 1 lim))] { live with inserts := [p] }
        s.inserts.find? (fun p => p.id = 1) == some p && !(gang0.isSaved) && !s.stopped && !(s.insBehind p) &&
          !(s.storesAhead gang0 p.frag p.dbg p.seq) && s.insImage p == .ok (img0 1 lim) &&
        ((s.pot 0).recs.find? (fun r => r.2.same 0 (img0 1 lim) && r.2.sealed.isNone)).any (fun x => x.1 == 15) &&
        ((s.pot 0).recs.find 15).isSome),
      [0, 3].all (fun lim =>
        let i : Image := { img0 1 lim with ctl := fieldAt 0 64 ||| fieldAt 32 1 ||| fieldAt 42 1 ||| fieldAt 46 2 }
        let r := { rec0 i with count := 2 }
        let from_ := inPot 32 [(9, r)] (emptyCore live)
        let same := fun (n : Nat) => inPot 0 [(15, { rec0 i with count := n })] from_
        [from_, same 1, same 2].all (fun s => match s.choose 32 with
          | some (n, x, .pot q) => n == 9 && x == r && q != 32 && (s.pot 32).recs.find 9 == some r && r.packets == [] && (s.freeSlot q).isSome
          | _ => false)),
      (let i : Image := { img0 1 3 with ctl := fieldAt 0 64 ||| fieldAt 32 1 ||| fieldAt 42 1 ||| fieldAt 46 2 }
       let r := { rec0 i with count := 2, sealed := some .flush }
       match (inPot 0 [(15, rec0 i)] (inPot 32 [(9, r)] (emptyCore live))).choose 32 with
         | some (9, x, .pot q) => x == r && q != 32
         | _ => false),
      (let i : Image := { img0 1 3 with ctl := fieldAt 0 64 ||| fieldAt 32 1 ||| fieldAt 42 1 ||| fieldAt 46 2 }
       let busy := (List.range 7).foldl (fun (s : State) k => inPot (k + 1) [(0, rec0 i), (1, { rec0 i with sealed := some .limit })] s)
         (inPot 32 [(9, { rec0 i with count := 2 })] (emptyCore live))
       [1, 2].all (fun n => match (inPot 0 [(15, { rec0 i with count := n })] busy).choose 32 with
         | some (9, _, .pot 0) => true
         | _ => false)),
      (let r := { rec0 (img0 1 0) with gateErr := true, groups := [(35, 9)] }
       let s := (inPot 0 [(3, r)] live).updPot 35 (fun p => { p with groups := [((0, 9), ⟨2, 0, []⟩)] })
       (s.pot 0).recs.find 3 == some r && !s.stopped && r.packets == [] && ((s.pot 35).group 0 9).any (fun e => decide (1 < e.count))),
      (let s := inPot 0 [(15, rec0 (img0 1 0))] (emptyCore live)
       s.suspst == 0 && (s.choose 0).any (fun x => match x.2.2 with
         | .block _ _ => x.1 == 15 && x.2.1.packets == [] && (s.pot 0).recs.find 15 == some x.2.1
         | _ => false)),
      [(32, 2), (36, 4)].all (fun p =>
        let i : Image := { img0 1 0 with ctl := fieldAt 0 64 ||| fieldAt 32 p.2 ||| fieldAt 42 1 ||| fieldAt 46 2 }
        let s := inPot p.1 [(0, rec0 i)] (emptyCore live)
        (s.choose p.1).any (fun x => match x.2.2 with
          | .seq _ => x.2.1.packets == [] && (s.pot p.1).recs.find 0 == some x.2.1
          | _ => false)),
      (let r := { rec0 (img0 1 0) with st := .taken, runner := some stream0 }
       let s := inPot 0 [(0, r)] (mapped { live with mem := live.mem.write 0x100800 [128, 0, 0, 0, 0, 0, 0, 0, 8, 0, 16, 1] })
       (s.pot 0).recs.find 0 == some r && s.suspst == 0 && !(s.stoppedAt 0 0) && (s.block 0 0).isSome &&
         (match s.readHeader 0 0 (s.headerAddr 0 r.img) with
          | .ok bs => (Header.ofBytes bs [1, 6]).any (fun h => !h.array)
          | _ => false)),
      (let r := { rec0 (img0 1 0) with st := .running, runner := some .packageSeq }
       let q : Seq := { iss := Issuer.fresh 0 4, pot := 36, slot := 3, hdr := 0, done := some (0, 0) }
       let s := { inPot 36 [(3, r)] live with seqs := [(.packageSeq, q)] }
       (s.pot 36).recs.find 3 == some r && !s.stopped && !r.gateErr && r.result == none && (s.seqs.find .packageSeq).any (fun q => q.done.isSome)),
      (let s := inCore (fun c => { c with gangs := [], blocks := c.blocks.map (fun p => (p.1, { p.2 with exited := true, array := false })) })
         live
       (s.block 0 0).any (fun b => b.exited && !b.array && b.treat == .none) && (s.core 0).gangsOf 0 == [] &&
         !((s.core 0).leaving 0 (fun _ => true)) && s.copies == [])]).all id = true := by decide +kernel

/-- Inserts that have a slot of their own, in an empty stockpot and above others, and inserts that find the stockpot full. -/
theorem witness_RecordEvents_inserts :
    ([(0, false, false, false), (0, false, false, true), (3, false, false, false), (1024, true, false, false), (1024, false, true, false),
        (1024, false, false, true)].all (fun (v : Nat × Bool × Bool × Bool) =>
        let i : Image := { img0 1 1 with ctl := (img0 1 1).ctl ||| fieldAt 52 (b2n v.2.1) }
        let p := { insert0 i with nb := v.2.2.1, stalled := v.2.2.2 }
        let s := inPot 0 ((List.range v.1).map (fun k => (k, { rec0 (img0 1 1) with sealed := some .dispatch }))) { live with inserts := [p] }
        !s.stopped && !(s.insBehind p) && !(s.storesAhead gang0 p.frag p.dbg p.seq) && s.insImage p == .ok i && i.trapfull == v.2.1 &&
          (s.issuer gang0).any (fun u => !u.ended) && p.frag != 0 && p.space != 3 && i.group == 0 &&
          (s.freeSlot 0 == if v.1 = 1024 then none else some v.1) &&
          (s.pot 0).recs.all (fun r => !(r.2.same p.ctx i) || (r.2.sealed != none && (!i.nospill || r.2.sealed != some .limit))))) = true := by decide +kernel

/-- A reduction past its time, and an intermediate of a pod reduction past its. -/
theorem witness_ReductionEvents :
    (let r : Rec := { rec0 (redImage 9 5 0 4 2 redMark) with timeout := some 10 }
     let q : Rec := { rec0 (redImage 9 5 0 4 4 redMark) with timeout := some 10, podN := some 4 }
     let s := inPot 36 [(2, q)] (inPot 0 [(3, r)] { live with tb := 10 })
     [(s.pot 0).recs.find 3 == some r, r.img.entry == redMark, r.result == none, r.podN == none, r.timeout.any (fun t => t ≤ s.tb),
      (s.pot 36).recs.find 2 == some q, q.flushed == none, q.podN.isSome, q.timeout.any (fun t => t ≤ s.tb)]).all id = true := by decide +kernel

def logEntry (k : AccKind) (a : Acc) : LogEntry :=
  { ins := .nop plainHdr ⟨0, 0, false, 0, 0, 0, 0, false, 0, 0, 0⟩, pc := 0, smask := 0xFF, frag := 0xFF, lanes := 0xFFFFFFFF, act := 0xFFFFFFFF,
    uni := false, kind := k, space := 1, accs := [a], tag := 4, seq := 0, old := false, dbg := false, peer := none }
def lane31 (ea : BitVec 64) : Acc := { lane := 31, slices := [7], ea := ea, len := 4, data := 0x01020304, data2 := 0, st := .pending }
def ladle1 (n : Nat) : Ladle :=
  { win := 32, base := 0, lstride := 4, space := 1, ty := 2, wrap := false, dims := [(n, 64)], idx := [0], ends := 0, endsNext := none,
    pos := 0, exhausted := false, got := [] }
def copy0 : Copy :=
  { id := 3, who := gang0, place := .core 0, up := true, flying := true, ctx := 0, src := .core 0 524256, dsts := [.cluster 0 32],
    rows := 1, width := 32, sstride := 0, dstride := 0, bars := [], done := [], failed := [], fw := false, pois := false, tids := [],
    packet := none, ret := none, mask := 0, home := none, marked := [], gone := false, got := [], fwAt := 0 }
/-- A line that is mapped, one whose page may not be executed, a store and a load of lane 31 at the ends of scratch, elements 0 and 1 of a
ladle of two, the first and the last piece of a copy. -/
theorem witness_FetchAndReturnEvents :
    ((let s := mapped live
      [decide (s.mem.wf = true) && !s.stopped, (s.issuersAt (.core 0)).any (fun u => u.2.ctx == 0),
       s.translate (dieOf (.core 0)) 0 (64 * 5) kFetch == .ok 0x100140,
       (s.updDie 0 (fun d => { d with tlb := d.tlb.map (fun t => { t with ex := false }) })).translate 0 0 (64 * 5) kFetch == .bad 0x12])
     ++ [(AccKind.store, (0 : BitVec 64)), (.load, 524284)].map (fun p =>
       let e := logEntry p.1 (lane31 p.2)
       let fl : Flight := { slice := 7, dbg := false, kind := .memory, left := none, ready := false, tag := 4, tgts := [], load := none, src := none, cap := 256 }
       let s := withIss (fun u => { u with log := [(15, e)], flights := [fl] }) live
       ((s.core 0).gangs.find 0).any (fun u => u.log.find 15 == some e && u.mayPerform e 0 (lane31 p.2) && u.flights == [fl] && u.log.all (fun p => p.2.space != 5)) &&
         (s.addrBad 0 0 1 4 p.2).isNone &&
         !(s.imageHolds gang0 e (lane31 p.2)) && s.locate 0 0 1 p.1.code p.2 == .ok (coreKey 0 p.2.toNat, none) &&
         !(s.poisoned (coreKey 0 p.2.toNat) 4))
     ++ [0, 1].map (fun n =>
       let s := withIss (fun u => { u with ladles := [(8 * 3 + 7, ladle1 2)] }) live
       !(s.stoppedAt 0 0) && ((s.core 0).gangs.find 0).any (fun u => (u.ladles.find 31).any (fun l => (l.ahead n).any (fun k => l.open_ 7 n == [28, 29, 30, 31] &&
         (l.open_ 7 n).all (fun x => match s.fetchLane 0 0 k x with
           | .ok _ => true
           | _ => false)))))
     ++ [0, 1].map (fun p =>
       let s : State := { live with copies := [copy0] }
       s.copyOf 3 == some copy0 && copy0.got == [] && decide (p < copy0.pieces) && !(s.copyFrozen copy0 0) && !(s.copyStops copy0 0) &&
         s.placeOf copy0.die (.cluster 0 32) (copy0.dstOff p) kWrite == .ok (some (clusterKey 0 (32 + 16 * p), none)) &&
         (match s.getPiece copy0 p with
           | .ok (bs, none) => bs.length == copy0.len p
           | _ => false))).all id = true := by decide +kernel

/-- Copies with a barrier and a home, with a status, with a packet and more than one destination, one whose piece has been read, one that
is stopped in the middle of a segment; to memory, to package memory under a key, to the host, and from a window and to one. -/
theorem witness_FetchAndReturnEvents_copies :
    (let far := Loc.pod 9 0xAB 0 64
     let ok := fun (s : State) (c : Copy) (p m : Nat) => s.copyOf 3 == some c && c.flying && decide (p < c.pieces) && !(c.done.contains (m, p)) &&
       c.failed.all (fun x => x.1 != m) && !(s.copyFrozen c m) && (!(s.copyStops c m) || c.inProgress m p)
     let reads := fun (s : State) (c : Copy) (p : Nat) => match c.src, s.getPiece c p with
       | .pod _ _ _ _, _ => false
       | _, .ok (bs, none) => bs.length == c.len p && c.got.all (fun g => g.1 == p && g.2.1.length == c.len p)
       | _, _ => false
     let with1 := fun (f : Copy → Copy) (s : State) => { s with copies := [f copy0] }
     let local_ := fun (s : State) (c : Copy) (p m : Nat) => ok s c p m && reads s c p &&
       s.placeOf c.die (.cluster 0 32) (c.dstOff p) kWrite == .ok (some (clusterKey 0 (32 + 16 * p), none))
     [[(fun (c : Copy) => { c with bars := [.block 0 0 0], home := some (0, 0) }), (fun c => { c with ret := some (0xFF, 4, 12), mask := 1 }),
        (fun c => { c with packet := some 3, who := .packageSeq, place := .package }), (fun c => { c with got := [(1, List.replicate 16 7, false)] })].all
        (fun f => local_ (with1 f live) (f copy0) 1 0),
      (let c : Copy := { copy0 with dsts := [.core 5 0, .cluster 0 32], done := [(0, 1), (0, 0)], bars := [.block 5 0 0, .block 0 0 0] }
       local_ { live with copies := [c] } c 1 1),
      (let c : Copy := { copy0 with done := [(0, 0)], marked := [0] }
       let s : State := { live with copies := [c], suspst := 1 }
       s.copyStops c 0 && local_ s c 1 0),
      (let f := fun (c : Copy) => { c with dsts := [.virt 0 0 64] }
       let s := with1 f (mapped live)
       ok s (f copy0) 1 0 && reads s (f copy0) 1 && s.placeOf 0 (.virt 0 0 64) 16 kWrite == .ok (some (0x100050, some (s.keyOf 0)))),
      (let f := fun (c : Copy) => { c with dsts := [.host 4096], packet := some 3 }
       ok (with1 f live) (f copy0) 1 0 && reads (with1 f live) (f copy0) 1),
      (let f := fun (c : Copy) => { c with src := far, packet := some 3 }
       let s := with1 f { live with rtent := live.rtent.put 9 (rtentReset ||| 0x8000000000000000) }
       ok s (f copy0) 1 0 && copy0.home == none && !(s.pieceSent 3 1) && s.hasPath 9 &&
         s.placeOf 0 (.cluster 0 32) 16 kWrite == .ok (some (clusterKey 0 48, none))),
      (let f := fun (c : Copy) => { c with dsts := [far], packet := some 3 }
       let s := with1 f { live with rtent := live.rtent.put 9 (rtentReset ||| 0x8000000000000000) }
       ok s (f copy0) 1 0 && !(s.pieceSent 3 1) && s.hasPath 9 && reads s (f copy0) 1)]).all id = true := by decide +kernel

/-- An entry of two lanes, alone in the log: a store, a load, a ladle access and every atomic, in scratch and in package memory under a
key; and one of one lane out of range, not mapped, and poisoned. -/
theorem witness_FetchAndReturnEvents_entries :
    (let acc := fun (l : Nat) (ea : BitVec 64) => { lane31 ea with lane := l, slices := [l / 4] }
     let at1 := fun (e : LogEntry) (s : State) => withIss (fun u => { u with log := [(15, e)] }) s
     let alone := fun (s : State) (e : LogEntry) => ((s.core 0).gangs.find 0).any (fun u => u.log == [(15, e)]) && e.space != 5 &&
       e.accs.all (fun a => a.st == .pending && !(s.imageHolds gang0 e a))
     let two := fun (k : AccKind) => { logEntry k (acc 3 0) with accs := [acc 3 0, acc 31 524284] }
     let good := fun (s : State) (e : LogEntry) (p : Acc → Nat × Option Nat) => alone s e && e.accs.all (fun a =>
       (s.addrBad 0 0 e.space a.len a.ea).isNone && s.locate 0 0 e.space e.kind.code a.ea == .ok (p a) && !(s.poisoned (p a).1 a.len))
     let scratch := fun (a : Acc) => (coreKey 0 a.ea.toNat, (none : Option Nat))
     let far := { logEntry .store (acc 3 64) with space := 4 }
     let bad := fun (a : BitVec 64) (sp : Nat) (k : AccKind) => { logEntry k (acc 3 a) with space := sp }
     ([.store, .load, .ladle].map (fun k => good (at1 (two k) live) (two k) scratch))
     ++ (([0, 1, 2, 3, 4, 5, 6, 8, 7] : List (BitVec 4)).map (fun aop =>
       let e := { two .atomic with ins := .vatom plainHdr ⟨0, 0, 0, 1, 0, 2, aop, 0, 0, 0, false, 0, 0⟩ }
       good (at1 e live) e scratch && (match e.ins.form with
         | some (_, _, .m f) => f.aop == aop
         | _ => false)))
     ++ [good (at1 far (mapped live)) far (fun _ => (0x100040, some ((mapped live).keyOf 0))),
       alone (at1 (bad 524288 1 .load) live) (bad 524288 1 .load) && ((at1 (bad 524288 1 .load) live).addrBad 0 0 1 4 524288).isSome,
       (let s := (mapped live).updDie 0 (fun d => { d with tlb := d.tlb.map (fun t => { t with wr := false }) })
        alone (at1 (bad 64 4 .store) s) (bad 64 4 .store) && (s.addrBad 0 0 4 4 64).isNone &&
          (match s.locate 0 0 4 AccKind.store.code 64 with
            | .bad _ => true
            | _ => false)),
       (let s := live.setPoison (coreKey 0 0 / 64)
        alone (at1 (bad 0 1 .load) s) (bad 0 1 .load) && (s.addrBad 0 0 1 4 0).isNone && s.locate 0 0 1 AccKind.load.code 0 == .ok (coreKey 0 0, none) &&
          s.poisoned (coreKey 0 0) 4)]).all id = true := by decide +kernel

/-- The tables of context 0 at 0x1000: its first 2 MiB are the package's second. -/
def tables (s : State) : State :=
  { s.updCtx 0 (fun c => { c with troot := 0x1000 }) with
    mem := (((s.mem.write 0x1000 [1, 0x20]).write 0x2000 [1, 0x30]).write 0x3000 [1, 0x40]).write 0x4000 [0x1F, 5, 0x20] }
def fault0 (r : Requester) : FaultEnt :=
  { ctx := 0, page := 0, kind := 3, flags := 0, src := 0, gen := 1, time := 0, reqs := [r], reported := true, order := 0 }
/-- A walk that ends with a page and one that ends without, a FILL and a DENY of an entry of the buffer's last place, and one that names
none. -/
theorem witness_TranslationEvents :
    (let pl := Place.core 0
     let t := tables live
     let full := t.updDie 0 (fun d => { d with faults := [(2047, fault0 (.line pl 0))] })
     [(match t.pageWalk 0 0 with
        | .page _ => true
        | _ => false),
      [live, t, full].all (fun x => !x.stopped && (x.die 0).walkq == [] && (x.die 0).walkers == []) && !(t.awaits 0 0 0 3 (.line pl 0)),
      (live.ctxOf 0).st == .live, t.tlbOf 0 0 0 == none,
      (match live.pageWalk 0 0 with
        | .none _ _ _ => true
        | _ => false),
      live.waitsOn 0 0 0 3 (.line pl 0), (live.die 0).faults == [],
      full.faultOf 0 0x000107FF == some (2047, fault0 (.line pl 0)), (full.die 0).held == [], full.waitsOn 0 0 0 3 (.line pl 0),
      live.faultOf 0 0x000107FF == none, (live.die 0).stale == 0]).all id = true := by decide +kernel

/-- The stockpot of cluster 0, or of die 0, with `n` records that may be moved, at the end of a period whose threshold is `th`. -/
def balanced (dies : Bool) (n th : Nat) : State :=
  inPot (scPot 0 dies 0) ((List.range n).map (fun k => (k, { rec0 (img0 1 0) with order := k })))
    { live.updDie 0 (fun d => { d with sccfg := 0x0000006400100003 ||| fieldAt 8 th }) with tb := 100000 }
/-- Periods of the scales with too few records for a surplus, with a surplus and a gap above the threshold, and with a gap below it, for the
clusters of a die and for the dies. -/
theorem witness_DieServiceEvents_scales :
    ([(false, 29, 2, false), (false, 39, 2, true), (false, 39, 35, false), (true, 6, 2, false), (true, 9, 2, true), (true, 9, 9, false)].all (fun v =>
      let s := balanced v.1 v.2.1 v.2.2.1
      let x := s.die 0
      let top := if v.1 then 4 else 8
      let gap := s.surplus 0 v.1 0 - s.surplus 0 v.1 1
      decide ((if v.1 then x.scPkgAt else x.scAt) + 1000 * scField x.sccfg 32 16 ≤ s.tb) && bitAt x.sccfg 0 && bitAt x.sccfg 1 && !s.stopped &&
        (List.range top).all (fun n => decide (s.surplus 0 v.1 n ≤ s.surplus 0 v.1 0 ∧ s.surplus 0 v.1 1 ≤ s.surplus 0 v.1 n)) &&
        s.surplus 0 v.1 1 != s.surplus 0 v.1 0 && v.2.2.2 == decide (0 < s.surplus 0 v.1 0 ∧ 2 * (scField x.sccfg 8 8 : Int) ≤ gap))) = true := by
  decide +kernel

def arm0 : Arm :=
  { ctx := 0, img := img0 1 0, level := 3, isTag := false, arg := 100, period := 0, persist := false, gen := 1, order := 0, fired := 0,
    waiting := none, backlog := [] }
/-- Logs with an entry, a command, a period that ends at this nanosecond, a migration that can be made, arms due at this nanosecond, a
tag that nothing waits for, one that an arm waits for, and one whose arm is still inserting, with room for one more in its backlog. -/
theorem witness_DieServiceEvents :
    (let rec1 : LogRec := ⟨0, 0, 1, 2, 0, 0⟩
     let on := fun (d : Nat) (f : Die → Die) => live.updDie d f
     let tag := fun (w : Option Nat) (n : Nat) => on 0 (fun d => { d with arms := [(7, { arm0 with
       isTag := true, arg := 0x77, waiting := w, persist := true, backlog := List.replicate n 5 })] })
     [((on 3 (fun d => { d with elog := [rec1] })).die 3).elog == [rec1],
      ({ live with pelog := [rec1] } : State).pelog == [rec1],
      (let v : BitVec 64 := 0x8000000000000170
       bitAt v 63 && !(bitAt v 16) && bitsAt v 0 4 == 0 && bitsAt v 4 4 == 7 && (live.die 0).cmds == 0),
      (let s : State := { on 0 (fun d => { d with sccfg := 0x0000006400100400 }) with tb := 100000 }
       decide ((s.die 0).scAt + 1000 * scField (s.die 0).sccfg 32 16 = s.tb) && !(bitAt (s.die 0).sccfg 0)),
      (let m : Migr := { dies := false, src := 0, dst := 7, slots := [0], waits := false }
       let s := (inPot 0 [(4, rec0 (img0 1 0))] live).updDie 0 (fun d => { d with migr := [m] })
       (s.die 0).migr.find? (fun m => m.dies = false) == some m &&
       ((s.pot 0).recs.find? (fun r => r.2.order = 0)).any (fun p => p.1 == 4 && s.movable 0 p.2) &&
       ((s.transfer 0 4 7).pot 0).recs.find 4 == none && (s.die 0).moved == 0),
      [0, 5].all (fun n =>
        let a : Arm := { arm0 with period := n }
        let s : State := { on 0 (fun d => { d with arms := [(4095, a)] }) with tb := 100 }
        (s.die 0).arms == [(4095, a)] && a.due s.tb && decide (s.tb ≤ a.arg.toNat + a.period.toNat)),
      (List.range 4).all (fun x => (live.die x).arms == []) && (live.die 0).nomatch_ == 0,
      ((tag none 0).die 0).arms.any (fun a => a.2.isTag && a.2.arg == 0x77 && a.2.waiting == none),
      ((tag (some 1) 63).die 0).arms.any (fun a => a.2.persist && a.2.waiting.isSome && a.2.backlog.length == 63)]).all id = true := by decide +kernel

def blocksOf (f : Block → Block) : State → State := inCore (fun c => { c with blocks := c.blocks.map (fun p => (p.1, f p.2)) })
def saveArea (n : Nat) (s : State) : State := s.updCtx 0 (fun c => { c with savebase := 0x40000000, savepages := n })
/-- A core of one context with one block whose quantum ends at this nanosecond, alone, under a suspend, and with a context that waits for a
full die; a drain that is over; a core ready to be saved; a cluster and a die to be passed on under a suspend. -/
theorem witness_PreemptionEvents :
    (let s := (live.updCtx 0 (fun c => { c with quantum := 1 }))
     let one := fun (s : State) => (s.core 0).ctx == some 0 && (s.core 0).preempt == none &&
       (match (s.core 0).blocks with
         | [(0, b)] => !b.idem && budgetOf ((s.ctxOf b.stream.ctx).prcfgAt s.cycles) == 0
         | _ => false)
     let crowded := inPot 0 [(0, { rec0 (img0 1 0) with ctx := 7 })] ({ s.updCtx 7 (fun _ => { Ctx.reset with st := .live }) with
       tb := 1000, cores := (List.range 64).map (fun n => (n, s.core 0)) } : State)
     let taken := { emptyCore (saveArea 20000 live) with suspst := 1, clusters := [(31, ⟨some 0⟩)] }
     let takenD := (emptyCore (saveArea 20000 live)).updDie 3 (fun d => { d with owner := some 0 })
     [one s, one { s with suspst := 1 }, (List.range 255).all (fun n => (s.core (n + 1)).ctx == none),
      one crowded && crowded.firstUrgent 0 0 == none && (crowded.nextServed 0 0) == some 7,
      one { s with tb := 1000 } && ({ s with tb := 1000 } : State).firstUrgent 0 0 == none &&
        ({ s with tb := 1000 } : State).nextServed 0 0 == none,
      (((blocksOf (fun b => { b with treat := .drain, deadline := some 5 }) { s with tb := 5 }).core 0).blocks.find 0).any (fun b =>
        b.treat == .drain && b.deadline == some 5),
      (let s1 := (blocksOf (fun b => { b with treat := .save }) (inCore (fun c => { c with preempt := some 0 }) (saveArea 3000 live))).finishFlush 0
       let t1 := s1.updCtx 0 (fun y => { y with prgen := y.prgen + 1 })
       (s1.core 0).preempt.isSome && (s1.core 0).ctx == some 0 && s1.coreTreated 0 &&
         (t1.writeImage 0 0 (t1.coreSections 0) (.core 0 (s1.limboFor 0)) (t1.poisonIn (coreKey 0 0) Config.scratchBytes)).isSome),
      taken.clusterOwner 31 == some 0 && taken.suspst == 1 && (coresOf 31).all (fun n => (taken.core n).blocks == []) && taken.copies == [] &&
        (let p := taken.takeBars (fun k => match k with
            | .cluster n i => if n = 31 then some i else none
            | _ => none)
         (p.2.writeImage 0 (0x8000 + 8 * 7)
          [⟨7, 0, 0, 2048, some (taken.mem.read (clusterKey 31 0) Config.clusterBytes)⟩, ⟨8, 0, 0, 4, none⟩] (.cluster 31 p.1)
          (taken.poisonIn (clusterKey 31 0) Config.clusterBytes)).isSome),
      (takenD.die 3).owner == some 0 && (dieCores 3).all (fun n => (takenD.core n).blocks == []) &&
        (List.range 8).all (fun k => takenD.clusterOwner (24 + k) == none) && takenD.copies == [] &&
        (let p := ({ takenD with suspst := 1 } : State).takeBars (fun k => match k with
            | .die n i => if n = 3 then some i else none
            | _ => none)
         (p.2.writeImage 0 0xC000 [⟨9, 0, 0, 16384, some (takenD.mem.read (dieKey 3 0) Config.dieBytes)⟩, ⟨10, 0, 0, 8, none⟩] (.die 3 p.1)
          (takenD.poisonIn (dieKey 3 0) Config.dieBytes)).isSome)]).all id = true := by decide +kernel

/-- The first bytes of an image of context 0 without pages of its own, at the start of a save area: its header alone (R322). -/
def bareImage (ctx : Nat) (what : Saved) : SavedImg :=
  { id := 6, ctx := ctx, gen := 2, base := 0x40000000, pages := 0, dir := [], what := what, pois := [], suspended := false }
def bareHeader (ctx : Nat) : List Byte :=
  bytesOf 0x5653375A 4 ++ bytesOf 1 2 ++ bytesOf ctx 2 ++ bytesOf 2 8 ++ (List.range 8).map Config.modelBytes
theorem bytes_bareHeader (s : State) (ctx : Nat) (w : s.mem.wf = true) (k : s.lineKey = []) :
    ({ s with mem := s.mem.write 0x40000000 (bareHeader ctx) } : State).pkgRead (({ s with mem := s.mem.write 0x40000000 (bareHeader ctx) } : State).keyOf ctx)
      0x40000000 24 = bareHeader ctx := by
  refine List.ext_getElem (by simp [State.pkgRead, bareHeader, bytesOf]) fun i h1 h2 => ?_
  have hb : (bareHeader ctx).length = 24 := by simp [bareHeader, bytesOf]
  simp only [State.pkgRead, List.getElem_map, List.getElem_range, State.pkgByte, k, Tab.find]
  rw [Laws.get_write _ _ _ w, if_pos (by omega), Nat.add_sub_cancel_left]
  simp [h2]
theorem badPages_bare (s : State) (ctx : Nat) (what : Saved) (w : s.mem.wf = true) (k : s.lineKey = [])
    (hc : ctx = 0 ∨ ctx = 0xFFFF) :
    ({ s with mem := s.mem.write 0x40000000 (bareHeader ctx) } : State).badPages (bareImage ctx what) = [] := by
  have hb := bytes_bareHeader s ctx w k
  generalize ({ s with mem := s.mem.write 0x40000000 (bareHeader ctx) } : State) = t at hb
  have take : ∀ a n, a + n ≤ 24 → ((t.pkgRead (t.keyOf ctx) 0x40000000 4096).drop a).take n = ((bareHeader ctx).drop a).take n := by
    intro a n h
    rw [← hb, Laws.slice_pkgRead _ _ _ _ _ _ (by omega), Laws.slice_pkgRead _ _ _ _ _ _ (by omega)]
  simp only [State.badPages, bareImage, Nat.mul_zero, Nat.add_zero, take _ _ (show 0 + 4 ≤ 24 by omega),
    take _ _ (show 4 + 2 ≤ 24 by omega), take _ _ (show 6 + 2 ≤ 24 by omega), take _ _ (show 8 + 8 ≤ 24 by omega),
    take _ _ (show 16 + 8 ≤ 24 by omega)]
  rcases hc with rfl | rfl <;>
    (split <;> first | rfl | (rename_i h; exact absurd (decide_eq_true ⟨rfl, rfl, rfl, rfl, rfl⟩) h))

/-- A cluster whose state comes back, and a package that resumes. -/
theorem witness_restore :
    let i := bareImage 0 (.cluster 31 [])
    let s : State := { live with mem := live.mem.write 0x40000000 (bareHeader 0), images := [i] }
    s.images.find? (fun j => j.id = i.id) = some i ∧ (s.ctxOf i.ctx).st = .live ∧ s.suspst = 0 ∧ s.clusterOwner 31 = none ∧
      (∀ j ∈ s.images, ∀ d l, j.what ≠ .die d l) ∧ s.badPages i = [] :=
  ⟨by rfl, by rfl, by rfl, by rfl, by simp [bareImage], badPages_bare { live with images := [bareImage 0 (.cluster 31 [])] } 0 _ rfl rfl
    (.inl rfl)⟩
theorem witness_resume :
    let i := bareImage 0xFFFF (.die 4 [])
    let s : State := { live with mem := live.mem.write 0x40000000 (bareHeader 0xFFFF), images := [i], suspst := 2 }
    s.suspst = 2 ∧ s.images.find? (fun i => i.ctx = 0xFFFF) = some i ∧ s.badPages i = [] :=
  ⟨by rfl, by rfl, badPages_bare { live with images := [bareImage 0xFFFF (.die 4 [])], suspst := 2 } _ _ rfl rfl (.inr rfl)⟩

/-- Package 5 of the pod, an export of 64 bytes of context 0 in entry 0 of its table. -/
def inPod (s : State) : State :=
  { mapped s with
    fabid := 5, expbase := 0x8000000000005000
    mem := s.mem.write 0x5000 (bytesOf 0xAB 4 ++ [0, 0, 31, 0] ++ bytesOf 0 8 ++ bytesOf 64 8) }
def msg (op : Nat) (off : BitVec 64) : Msg :=
  { dest := 5, src := 9, cls := 0, hops := 0, nonMin := false, half2 := false, op := op, via := 0x7FF, key := 0xAB, eidx := 0, tid := 77,
    offset := off, size := 3, aop := 1, status := 0, count := 2, lanes := 3, rsv := false, data := List.replicate 33 2 }
def routed (d : Nat) (s : State) : State := { s with rtent := s.rtent.put d (rtentReset ||| 0x8000000000000000) }
def req (o : ReqOwner) (retry : Bool) : Req := { tid := 77, owner := o, msg := { msg 1 0 with dest := 9, src := 5 }, sentAt := 0, retry := retry }
/-- Requests of two words at both ends of the window served, one beyond it, one of the wrong key, one not aligned, one whose page is not at hand, one that meets poison, a signal; answers; an insert; a join of a group
that is over; a timeout, two resends; a revocation with nothing held; a relay. -/
theorem witness_RemoteEvents :
    (let s := inPod live
     let kind := fun (x : Nat ⊕ Export) => match x with
       | .inl n => n
       | .inr _ => 0
     [(msg 1 0).dest == s.fabid.toNat && !s.stopped && !(msg 1 0).rsv && s.suspst == 0,
      [1, 2, 3, 4, 5].all (fun op => [0, 48].all (fun off => match s.checkReq (msg op off) with
        | .inl _ => false
        | .inr x => (match s.serve (msg op off) x.ctx x.base with
          | .ok _ => true
          | _ => false))),
      kind (s.checkReq (msg 1 56)) == 2, kind (s.checkReq { msg 6 0 with key := 1 }) == 1, kind (live.checkReq (msg 1 0)) == 1,
      kind (s.checkReq (msg 1 4)) == 8,
      (match s.checkReq (msg 6 0) with
        | .inr x => x.ctx == 0
        | .inl _ => false),
      (match s.checkReq (msg 1 0) with
        | .inr x => (match ({ s.updDie 0 (fun d => { d with tlb := [] }) with mem := s.mem } : State).serve (msg 1 0) x.ctx x.base with
            | .wait => true
            | _ => false) &&
          (match (s.setPoison (0x100000 / 64)).serve (msg 1 0) x.ctx x.base with
            | .bad st => st == 4
            | _ => false)
        | .inl _ => false),
      s.pelog == [] && s.refused == 0 && s.inserts == [],
      ({ s with reqs := [req (.log 0 0 15) false] } : State).reqs.find? (fun r => r.tid = (msg 11 0).tid) == some (req (.log 0 0 15) false),
      (let i : Image := { img0 1 0 with ctl := fieldAt 0 64 ||| fieldAt 32 4 ||| fieldAt 42 1 ||| fieldAt 46 2 }
       (s.ctxOf 0).st == .live && !(s.imageBad 36 [4] (Image.ofBytes (takePad (i.bytes 0) 64 0)) (countOf (i.bytes 0)))),
      s.groupOver 36 0 (bitsAt (msg 8 9).offset 0 12) == some 0,
      (let s := routed 9 { s with reqs := [req (.log 0 0 15) false], tb := 100000000 }
       !(req (.log 0 0 15) false).retry && decide (1000000 * s.rtime.toNat ≤ s.tb)),
      (let s := routed 9 { s with tb := 1000000 }
       (req (.log 0 0 15) true).retry && s.hasPath 9 && decide ((req (.insert 4) true).sentAt + 1000000 ≤ s.tb)),
      ({ s with fxBusy := some 1535 } : State).fxBusy == some 1535 && s.held == [],
      (let s := routed 9 s
       let m := { msg 10 0 with dest := 9 }
       m.dest != s.fabid.toNat && !m.nonMin && s.minOk m.dest)]).all id = true := by decide +kernel
/-- A partial that meets its record at the root, one that a record holds already, and a result that meets the flushed one of an intermediate. -/
theorem witness_PodReductionEvents :
    (let m : Msg := { msg 9 9 with aop := 1, count := 1, data := bytesOf 3 8 ++ bytesOf 2 8 }
     let i := redImage 9 3 1 2 4 rootMark
     let r : Rec := { rec0 i with timeout := some 10 }
     let q : Rec := { rec0 (redImage 9 5 0 4 4 redMark) with flushed := some 77, podN := some 4 }
     let s := inPot 36 [(2, r), (127, q)] (inPod live)
     [m.dest == s.fabid.toNat && !s.stopped && !m.rsv && s.suspst == 0, redImage m.offset (BitVec.ofNat 64 (ofBytes (m.data.take 8))) m.aop (ofBytes ((m.data.drop 8).take 4) % 4096) 4
        rootMark == i,
      (s.pot 36).recs.find? (fun r => r.2.same m.eidx i && r.2.sealed.isNone) == some (2, r), (s.pot 36).recs.find 2 == some r,
      (s.pot 36).recs.find? (fun r => r.2.flushed = some m.tid && r.2.result.isNone) == some (127, q), (s.pot 36).recs.find 127 == some q,
      q.podN == some 4, m.op == 9 && (s.pot 36).recs.all (fun x => !(x.2.from_.contains (m.src, m.tid))), (msg 10 0).op == 10,
      (inPot 36 [(2, { r with from_ := [(m.src, m.tid)] })] (inPod live)).pot 36 |>.recs.any (fun x => x.2.from_.contains (m.src, m.tid))]).all id = true := by decide +kernel

def onLink (n : Nat) (f : Port → Port) (s : State) : State := { s with ports := s.ports.put n (f Port.reset), fabid := 5 }
def peerView (p : Nat) : LinkView := { peer := p, width := 2, fast := true, laneMap := [0, 1, 2, 3, 4, 5, 6, 7], peerDigest := 0 }
/-- Port 35 disabled; detecting at the end of its 10 ms; training within and at the end of its 100 ms, for the third time and before;
peers: itself, none of its neighbours, none of the pod, a neighbour; a link that is up; a new FABID. -/
theorem witness_LinkEvents :
    (let at_ := fun (st fails : Nat) (tb : Nat) => { onLink 35 (fun p => { p with st := st, fails := fails }) live with tb := tb }
     let within := fun (s : State) => decide (s.tb < (s.link 35).since + 100000000)
     [!((onLink 35 (fun p => { p with en := false }) live).link 35).en,
      ((at_ 1 0 10000000).link 35).st == 1 && decide (((at_ 1 0 10000000).link 35).since + 10000000 ≤ 10000000),
      [2, 5].all (fun st => ((at_ st 0 99999999).link 35).st == st && within (at_ st 0 99999999)),
      (peerView 5).peer == (at_ 2 0 0).fabid.toNat, !(neighbours 5 6), neighbours 5 23, neighbours 5 1056,
      [1, 2].all (fun k => ((at_ 5 k 100000000).link 35).fails == k && !(within (at_ 5 k 100000000))),
      ((at_ 4 0 0).link 35).st == 4 && ((at_ 4 0 0).link 35).retrains == 0,
      ((at_ 0 0 0).link 35).en && (1056 : BitVec 64).setWidth 11 != (0x7FF : BitVec 11)]).all id = true := by decide +kernel
/-- What the peer sends at a link that comes up as told. -/
theorem witness_LinkEvents_digest :
    linkDigest 5 { peerView 1056 with peerDigest := linkDigest 5 (peerView 1056) } = ({ peerView 1056 with peerDigest := linkDigest 5 (peerView 1056) } : LinkView).peerDigest := by rfl
/-- The same on one lane at 100 Gb/s. -/
theorem witness_LinkEvents_fallback :
    let v : LinkView := { peerView 1056 with width := 0, fast := false }
    linkDigest 5 v = ({ v with peerDigest := linkDigest 5 v } : LinkView).peerDigest := by rfl

/-- Queue 1023 of context 0 at 0x8000, its next packet of `kind` in slot 0. -/
def queue0 : Queue := { Queue.reset with
                        qbase := 0x8000, qwi := 0x9000, crbase := 0xA000, qsize := 4, crsize := 4, ver := 2, en := true, ctx := 0, wi := 1 }
def packetBytes (kind : Nat) (size : Nat) : List Byte :=
  [BitVec.ofNat 8 kind, 2, 0, 0, 0, 0, 0, 0] ++ (if kind = 5 then [] else bytesOf 4096 8 ++ bytesOf 8192 8 ++ bytesOf size 8)
def withPacket (kind size : Nat) (s : State) : State :=
  { s with queues := [(1023, queue0)], mem := s.mem.write 0x8000 (packetBytes kind size) }
/-- A queue of the least and of the greatest size about to be enabled, one that is, its packets of every kind, a packet that is final,
and a context whose fault records have all been written. -/
theorem witness_QueueEvents :
    (let s := { live with queues := [(1023, queue0)] }
     [[(4, 4), (16, 20)].all (fun p =>
        let q : Queue := { queue0 with en := false, ver := 1, qsize := p.1, crsize := p.2 }
        let s : State := { live with queues := [(1023, q)] }
        s.queue 1023 == q && q.ver == 1 && !s.recovery && (s.ctxOf q.ctx).st == .live),
      s.queue 1023 == queue0 && queue0.en && s.suspst == 0,
      [1, 2, 3, 4, 5, 15].all (fun k => (withPacket k (if k = 2 then 16 else 0) live).mayAccept 1023 &&
        ((withPacket k (if k = 2 then 16 else 0) live).accept 1023 (fun x => x = k)).any (fun p =>
        p.2.status == none)),
      [16, 64].all (fun n => ((withPacket 2 n live).accept 1023 (fun x => x = 2)).any (fun p =>
        (p.2.word 3).toNat == n && bitsAt (p.2.word 0) 20 2 == 0 && (p.2.word 1).toNat == 4096 && (p.2.word 2).toNat == 8192 && p.1.copies == [])),
      (let p : Packet := { seq := 3, q := 0, ctx := 0, kind := 5, tag := 0, crq := false, slot := 0, body := [], done := 0, status := some 0,
                           cause := 0, addr := 0, open_ := 0, rootErr := false, part := [], late := 0 }
       ({ live with packets := [p] } : State).packet 3 == some p &&
         decide (4096 * bitsAt (s.queue 0).crbase 12 40 + 32 * (3 % 2 ^ (s.queue 0).crsize) + 32 ≤ Config.packageBytes) &&
         decide (4096 * bitsAt s.jbase 12 40 + 32 * (3 % 2 ^ s.jsize) + 32 ≤ Config.packageBytes)),
      (live.ctxOf 0).st != .free && decide ((0 : Dword) ≤ (live.ctxOf 0).frwi) && live.unreported 0 == []]).all id = true := by decide +kernel

/-- A descriptor of context 1 in package memory, with the fields that R407 asks for. -/
def described (s : State) : State :=
  { s with
    ctxbase := 0x10000
    mem := s.mem.write 0x10080 (bytesOf 0x1000 8 ++ bytesOf 64 8 ++ bytesOf 0x40000000 8 ++ bytesOf 8 4 ++ bytesOf 1 2 ++ [1, 0] ++ bytesOf 0 8
      ++ bytesOf 0x20000 8 ++ [4, 0]) }
/-- A SWITCH whose core is still being pre-empted, CREATE from a descriptor and from none, commands to a FREE context and to a LIVE one,
SUSPEND drained and at its start, RESUME with nothing to bring back, a System message for this package with and without a reserved bit. -/
theorem witness_ContextCommands :
    (let s := described live
     [!s.ctxBusy && !(described live).ctxBusy && (inCore (fun c => { c with switched := true, preempt := some 3 }) s).ctxBusy,
      (s.ctxOf 1).st == .free && (s.descriptor 1 s.nextKey).isSome, (s.descriptor 2 s.nextKey).isNone, (s.ctxOf 0).st != .free,
      (((s.updCtx 1 (fun c => { c with st := .live })).eraseCtx 1 true).descriptor 1 5).isSome,
      (let t : State := { emptyCore live with suspst := 1 }
       t.suspst == 1 && t.drained),
      (List.range 256).all (fun k => ((emptyCore live).core k).blocks == []),
      ({ live with suspst := 3 } : State).images.all (fun i => !i.suspended), !live.stopped,
      [true, false].all (fun b => { msg 12 0 with rsv := b }.dest == (inPod live).fabid.toNat && !(inPod live).stopped)]).all id = true := by decide +kernel

/-- The last bytes below the reserved region, the first of it, and cells at the ends of every memory; counters, power and a time
measured at both ends of its window. -/
theorem witness_PackageEvents :
    ([decide (live.mem.wf = true), !live.stopped, decide (Config.reservedBase - 16 + 16 ≤ Config.reservedBase) && !(live.poisoned (Config.reservedBase - 16) 16),
      decide (Config.reservedBase < Config.reservedBase - 15 + 16),
      [0, Config.packageBytes - 1, dieKey 0 0, dieKey 3 (2 ^ 26 - 1), clusterKey 31 (2 ^ 23 - 1), coreKey 255 (2 ^ 19 - 1)].all isMemory,
      decide ((live.ecccor.get 11 0).toNat + 5 < 2 ^ 32), decide (live.power < 2), ({ live with clockStep := 1 } : State).clockStep == 1,
      (List.range 256).all (fun k => ((emptyCore live).core k).blocks == []),
      (let s : State := { live with tbcfg := 2, tb := 500 }
       bitsAt s.tbcfg 0 2 == 2 && decide (s.tb ≤ (500 : BitVec 64).toNat) && decide ((1500 : BitVec 64).toNat ≤ s.tb + 1000)),
      [(0xFFFF8, 4), (0x110000, 1)].all (fun (w : Nat × Nat) => w.2 != 8 && (w.1 < 0x100000 || 0x110000 ≤ w.1)),
      !live.recovery && (let s : State := { live with tbcfg := 0x501, tb := 500, masters := [(35, (3, 500)), (2, (4, 500))] }
       s.inDomain 5 && s.followsPort 35 && !(s.followsPort 2) && { msg 12 0 with dest := s.fabid.toNat }.op == 12)]).all id = true := by decide +kernel
/-- No line of package memory has been written under another key. -/
theorem witness_PackageEvents_keys : ∀ l, live.lineKey.find l = none ∨ live.lineKey.find l = some 0 := fun _ => .inl rfl

/-- The port of core 0 with an operation under way: the word of opcode `op` for gang `gid`. -/
def onPort (op gid : Nat) (imm : BitVec 32) (s : State) : State :=
  inCore (fun c => { c with port := { DebugPort.reset with
    busy := true, doplo := BitVec.ofNat 64 (gid * 2 ^ 51) ||| imm.setWidth 64, dophi := BitVec.ofNat 64 (op * 2 ^ 22) } }) s
/-- An opcode outside the five; a core without a context; no gang; a gang halted and the operations on it. -/
theorem witness_DebugPortEvents :
    (let halted := withGang1 .halted id live
     let ok := fun (s : State) (p : DebugPort → Bool) => (s.core 0).port.busy && !(s.portSteps 0) && (s.core 0).port.plain && p (s.core 0).port
     [[0x341, 0x347].all (fun op => ok (onPort op 0 0 live) (fun p => p.op == op)),
      (let s := inCore (fun c => { c with ctx := none }) (onPort 0x342 1 0 live)
       ok s (fun p => p.op == 0x342) && (s.core 0).ctx == none),
      [(0x342, 0x13F70000), (0x343, 0x13F70000), (0x344, 1), (0x345, 0), (0x346, 0x2000)].all (fun x =>
        ok (onPort x.1 1 x.2 live) (fun p => p.op == x.1 && p.legal && p.dbg.gid == 1 && (p.op < 0x344 || !(bitAt p.dbg.imm 23))) &&
        ((live.core 0).gangs.find 1).isNone && (live.core 0).ctx == some 0 && (live.ctxOf 0).debug),
      [(0x342, 0x13F70000), (0x343, 0x13F70000), (0x344, 1), (0x345, 0), (0x346, 0x2000)].all (fun x =>
        ok (onPort x.1 1 x.2 halted) (fun p => p.op == x.1 && p.legal && p.dbg.imm == x.2) &&
        ((halted.core 0).gangs.find 1).any (fun u => (u.frag 0).st == .halted && u.sliceStopped 7 && !(halted.pending 0 1 u 1 63 [7])) &&
        (x.1 != 0x342 || ((onPort x.1 1 x.2 halted).dget 0 none ((onPort x.1 1 x.2 halted).core 0).port.dbg).st == 0 &&
          ((onPort x.1 1 x.2 halted).dget 0 none ((onPort x.1 1 x.2 halted).core 0).port.dbg).lanes == []) &&
        (x.1 != 0x343 || ((onPort x.1 1 x.2 halted).core 0).port.dbg.cls == 1 && ((onPort x.1 1 x.2 halted).core 0).port.dbg.num == 63)),
      (let s := withIss (fun u => { u with logFlt := true }) live
       ((s.core 0).gangs.find 0).any (fun u => u.logFlt))]).all id = true := by decide +kernel

def sAdd : Instr := .sadd plainHdr ⟨5, 6, 7, 0, 3, 0, false, 0, 0, 0, 0⟩
def vAdd : Instr := .vadd plainHdr ⟨10, 11, 12, 0, 2, 0, 0, false, false, 0, 0⟩
/-- SADD (R108: S format) and VADD (R137: V format) as words. -/
def wSAdd : IWord := 0x00001461C0C0000000000000
def wVAdd : IWord := 0x40000A0B0C00200000000000
/-- Gang 0 about to issue at slot `k` of line 0, which holds SADD in slots 0 to 3 and VADD in slot 4, with PAIR bit 5 + 3 if asked. -/
def readyAt (k : Nat) (pair : Bool) : State :=
  let data : BitVec 512 := (wVAdd.setWidth 512 <<< 384) ||| (wSAdd.setWidth 512 <<< 288) ||| (wSAdd.setWidth 512 <<< 192)
    ||| (wSAdd.setWidth 512 <<< 96) ||| wSAdd.setWidth 512 ||| (0x1F <<< 480) ||| (if pair then 1 <<< 488 else 0)
  { frag0 (fun f => { f with entryCheck := false, pc := BitVec.ofNat 57 k }) live with
    lines := [{ place := .core 0, ctx := 0, line := 0, data := data, bad := none }], agenda := [.issue gang0 0] }
/-- Slot 0, slot 4, and the last pair of the line: it is ready, its words decode, and both instructions are issued. -/
theorem witness_StepRunsDecoded :
    (let isReady := fun (s0 : State) =>
       let s := ({ s0 with agenda := [] } : State).refresh
       match s.issuer gang0, s.lineAt (.core 0) 0 0 with
       | some u, some l => (u.frag 0).tryable && !u.ended && !s.stopped && s.suspst == 0 && !(s.stoppedAt 0 u.blk) && !(s.outranked gang0 0 (u.frag 0)) &&
         !(s.tooLate gang0 (s.prospect gang0 0)) && !(s.insertHolds gang0 (u.frag 0)) &&
         !(u.frag 0).entryCheck && bitsAt (u.frag 0).pc 3 3 == 0 && decide (slotOf (u.frag 0).pc ≤ 4) && l.bad == none && bitsAt l.data 489 7 == 0
       | _, _ => false
     let reads := fun (w x : IWord) (i : Instr) => match decode w x with
       | .ok j => j == i
       | .error _ => false
     let cur := fun (k : Nat) (r : Role) => ({ who := gang0, entry := 0, pc := 3, at_ := BitVec.ofNat 57 k, next := 64, role := r, lads := none } : Cur)
     let first := exec sAdd { readyAt 3 true with agenda := [], ev := .none, cur := some (cur 3 (.first vAdd)) }
     let ends := fun (o : Host.Outcome State Fault Refusal) => match o with
       | .next t => t.ev == .issued
       | _ => false
     [isReady (readyAt 0 false), isReady (readyAt 4 false), isReady (readyAt 3 true), reads wSAdd wSAdd sAdd, reads wSAdd 0 sAdd, reads wVAdd 0 vAdd,
      portOf (Instr.opY sAdd).1 != portOf (Instr.opY vAdd).1, mayBeFirst (Instr.opY sAdd).1, !(runsSecondFirst sAdd vAdd),
      ends first,
      (match first with
        | .next s1 => ends (exec vAdd { s1.swapWait gang0 0 with ev := .none, cur := some { cur 4 (.second sAdd) with lads := s1.cur.bind Cur.lads } })
        | _ => false),
      ends (step (readyAt 0 false)), ends (step (readyAt 4 false)), ends (step (readyAt 3 true))]).all id = true := by decide +kernel

/-- What `Safety.quiet` asks, as a test. -/
def calm (s : State) (cur : Cur) (u : Issuer) : Bool :=
  cur.role == .single && cur.lads == none && u.flights == [] && u.ladles == [] && u.stepping == [] && (u.frag cur.entry).held == [] &&
    u.frags.all (fun p => p.2.stepsLeft == none) && u.saved.all (fun v => v.frags.all (fun p => p.2.stepsLeft == none)) && s.svOld == [] &&
    cur.who.core?.all (fun n => (s.core n).probe.seenIn s.cycles == [])
/-- One instruction under a true guard, one under a false guard that nothing else bears on. -/
theorem witness_EffectBegins :
    (let i0 : Instr := sAdd
     let i1 : Instr := .sadd ⟨false, 1⟩ ⟨5, 6, 7, 0, 3, 0, false, 0, 0, 0, 0⟩
     [i0, i1].all (fun i =>
       let s := atStep i id
       match s.cur, s.issuer gang0 with
       | some cur, some u => calm s cur u && decodeFault cur.who u (u.frag 0) i == none
       | _, _ => false)
     && (begun i0 plainHdr (atStep i0 id)).isSome && (begun i1 ⟨false, 1⟩ (atStep i1 id)).isNone) = true := by decide +kernel

def trapped (f : Issuer → Issuer) : State → State := withIss (fun u => f { u with tvec := 128 })
/-- Reserved words at both ends, an illegal guard, a register out of the allocation, and the second of a pair, with a handler to take them. -/
theorem witness_DecodeFaultTraps :
    (let fault := fun (i : Instr) (n : Nat) =>
       let s := atStep i (trapped (fun u => { u with alloc := 4 }))
       match s.cur, s.issuer gang0 with
       | some cur, some u => !u.inh && u.tvec != 0 && bitsAt u.tvec 57 7 == 0 && (u.frag 0).held == [] && cur.role == .single && decodeFault cur.who u (u.frag 0) i == some n
       | _, _ => false
     [fault (.reservedOpcode 0x058000000000000000000000) 3, fault (.reservedOpcode 0xFFC000000000000000000000) 3,
      fault (.sadd ⟨false, 16⟩ ⟨5, 6, 7, 0, 3, 0, false, 0, 0, 0, 0⟩) 3, fault (.vadd plainHdr ⟨32, 11, 12, 0, 2, 0, 0, false, false, 0, 0⟩) 5,
      (match (atStep sAdd (trapped (fun u => { u with alloc := 4 }))).issuer gang0 with
        | some u => decodeFault gang0 u (u.frag 0) sAdd == none &&
          decodeFault gang0 u (u.frag 0) (.vadd plainHdr ⟨32, 11, 12, 0, 2, 0, 0, false, false, 0, 0⟩) == some 5
        | none => false)]).all id = true := by decide +kernel
/-- A trap with a handler, one inside it, one without. -/
theorem witness_TrapEntry :
    (let s := trapped id live
     [(s.issuer gang0).any (fun u => !u.inh && u.tvec != 0 && bitsAt u.tvec 57 7 == 0),
      ((inHandler s).issuer gang0).any (fun u => u.inh), (live.issuer gang0).any (fun u => !u.inh && u.tvec == 0),
      ((live.core 0).blocks.find 0).any (fun k => k.firstDouble == none)]).all id = true := by decide +kernel
def trapReq (c : Nat) : TrapReq := ⟨c, 0, 0, 0, none, none, none, none, none⟩
/-- What the handler holds as soon as it is entered meets the hypotheses of the return. -/
theorem witness_TrapReturn (u : Issuer) (w : u.log = []) :
    let h := u.enter 0 64 (trapReq 6)
    (∀ p ∈ u.log, p.2.old = false) ∧ h.saved = (u.enter 0 64 (trapReq 6)).saved ∧ h.flights = [] ∧ h.log = (u.enter 0 64 (trapReq 6)).log :=
  ⟨by simp [w], rfl, rfl, rfl⟩

def flight (t : Tgt) (ready : Bool) : Flight :=
  { slice := 3, dbg := false, kind := .array, left := none, ready := ready, tag := 9, tgts := [t], load := none, src := none, cap := 256 }
/-- A marker that has to wait for memory, one that has to wait for the array, one that commits. -/
theorem witness_MarkerCommits :
    (let i : Instr := .sadd ⟨true, 0⟩ ⟨5, 6, 7, 0, 3, 0, false, 0, 0, 0, 0⟩
     let at1 := fun (f : Issuer → Issuer) (p : State → Issuer → Bool) =>
       let s := atStep i (withIss f)
       (s.issuer gang0).any (fun u => decodeFault gang0 u (u.frag 0) i == none && u.ladles == [] && u.arrFaults == [] &&
         s.cur.any (fun c => c.lads == none) && s.inserts == [] && (s.spfullOf gang0 (u.frag 0).slices false).isNone && p s u)
     let none_ := fun (u : Issuer) => u.entriesOf (u.frag 0).slices false false == []
     [at1 (fun u => { u with log := [(15, logEntry .load (lane31 0))] }) (fun _ u =>
        (u.entriesOf (u.frag 0).slices false false).any (fun p => p.2.accs.any (fun a => a.st == .pending))),
      at1 (fun u => { u with flights := [flight (.s 3 63 1) false] }) (fun _ u => none_ u &&
        u.flights.any (fun x => x.mine (u.frag 0).slices false && !x.ready && x.kind != .memory)),
      at1 (fun u => { u with flights := [flight (.s 3 63 1) true] }) (fun s u => none_ u &&
        u.flights.all (fun x => x.ready) && bindsOf u.flights == [] && (begun i ⟨true, 0⟩ s).isSome)]).all id = true := by decide +kernel
/-- Registers at both ends of their files, in the first and the last slice. -/
theorem witness_FixedResultsLand :
    [(1, 0), (12, 7)].all (fun p =>
      let u : Issuer := { Issuer.fresh 0 0 with alloc := 32 }
      let land := fun (t : Tgt) => ((List.range p.1).foldl (fun (u : Issuer) _ => u.tick [p.2] false) (u.pushFixed p.1 false [(p.2, t)]))
      (land (.s p.2 63 7)).rdS 63 p.2 == 7 && (land (.c p.2 15 true)).rdC 15 p.2 && (land (.m p.2 15 0xF 9)).rdNib 15 p.2 == 9 &&
        (land (.v (4 * p.2 + 3) 255 0xFFFFFFFF 5)).rdV 255 (4 * p.2 + 3) == 5 && (land (.s p.2 0 7)).rdS 0 p.2 == 0) = true := by decide +kernel
/-- Two results for one register that become visible together, and the worked case of R66. -/
theorem witness_LaterProducerKept :
    (let u0 : Issuer := { Issuer.fresh 0 0 with alloc := 32 }
     let two := fun (a b : Tgt) => ({ u0 with flights := [{ flight a true with kind := .fixed, left := some 1 },
       { flight b true with kind := .fixed, left := some 1 }] } : Issuer).tick [3] false
     let next := fun (v : Issuer) => v.tick [3] false
     let fma := next (next (u0.pushFixed 4 false [(3, .v 12 255 0xFFFFFFFF 1)]))
     [(two (.s 3 63 1) (.s 3 63 2)).rdS 63 3 == 2, (two (.c 3 15 false) (.c 3 15 true)).rdC 15 3, (two (.m 3 15 0xF 1) (.m 3 15 0xF 2)).rdNib 15 3 == 2,
      (two (.v 12 0 0xFFFFFFFF 1) (.v 12 0 0xFFFFFFFF 2)).rdV 0 12 == 2,
      (next (next (fma.pushFixed 2 false [(3, .v 12 255 0xFFFFFFFF 2)]))).rdV 255 12 == 2]).all id = true := by decide +kernel
/-- An instruction of each kind of frame completes where nothing else bears on it, and changes only what it names. -/
theorem witness_RegisterFrame :
    [sAdd, vAdd, .sld plainHdr ⟨9, 6, 0, 1, 0, 3, 0, 0, 0, 0, false, 0, 8⟩, .zclr plainHdr { xf0 with zd := 1 }].all (fun i =>
      let s := atStep i id
      match s.cur, s.issuer gang0, exec i s with
      | some cur, some u, .next t => calm s cur u && t.ev == .issued && t.mem == s.mem
      | _, _, _ => false) = true := by decide +kernel
/-- A gang's instruction and a reserved word complete with memory listed. -/
theorem witness_IssueKeepsMemory :
    [sAdd, vAdd, .reservedOpcode 0].all (fun i =>
      let s := { atStep i id with mem := [(0, 1)] }
      match s.cur, exec i s with
      | some cur, .next t => (i.form.isSome || i == .reservedOpcode 0) && s.svOld == [] && t.mem == s.mem &&
        (cur.who.core?.all (fun n => (s.core n).probe.seenIn s.cycles == []))
      | _, _ => false) = true := by decide +kernel
/-- Memory in canonical form with a byte at each end of package memory, stored to under another key. -/
theorem witness_MemoryLaws :
    (let m : Memory := [(0, 1), (Config.packageBytes - 1, 2)]
     let s : State := { State.reset with mem := m }
     [decide (m.wf = true), decide ((m.write (Config.packageBytes - 2) [0, 0, 7]).wf = true), (m.write 0 [0, 5]).get 0 == 0, (m.splice 0 [0, 5]).get 1 == 5,
      (s.pkgStore 3 60 [1, 2, 3, 4, 5, 6, 7, 8]).pkgRead 3 60 8 == [1, 2, 3, 4, 5, 6, 7, 8]]).all id = true := by decide +kernel
/-- A step from reset with an instruction placed, which keeps memory canonical. -/
theorem witness_StepKeepsMemoryCanonical :
    (let s := { readyAt 0 false with mem := [(0, 1), (Config.packageBytes - 1, 2)] }
     match step s with
     | .next _ => s.mem.wf
     | _ => false) = true := by decide +kernel
/-- Slices inside the fragment and outside, of a gang and of a stream. -/
theorem witness_MaskPerSlice :
    ((live.issuer gang0).any (fun u => (u.frag 0).smask == 0xFF && !(u.frag 0).isDbg) &&
      (live.issuer stream0).any (fun u => (u.frag 0).smask == 1 && !(u.frag 0).isDbg)) = true := by decide +kernel

-- results worked by hand in the spec

/-- Register `r` of slice 0 once `i` has run and its latency has passed, with `l` in the registers of every slice. -/
def after (i : Instr) (f : State → State) : Option Issuer :=
  match exec i (atStep i f) with
  | .next t => (t.issuer gang0).map (fun u => (List.range 12).foldl (fun u _ => u.tick (List.range 8) false) u)
  | _ => none
def sAfter (i : Instr) (l : List (Nat × Dword)) : Option Dword := (after i (withS l)).map (fun u => u.rdS 5 7)
def sf (ty : BitVec 4) : SFmt := ⟨5, 6, 7, 0, ty, 0, false, 0, 0, 0, 0⟩
/-- The worked values under R108 to R112. -/
theorem test_scalar_worked :
    [sAfter (.sadd plainHdr (sf 2)) [(6, 0x7FFFFFFF), (7, 1)] == some 0xFFFFFFFF80000000,
      sAfter (.sadd plainHdr (sf 6)) [(6, 0x7FFFFFFF), (7, 1)] == some 0x80000000,
      sAfter (.sdiv plainHdr (sf 2)) [(6, BitVec.ofInt 64 (-7)), (7, 2)] == some (BitVec.ofInt 64 (-3)),
      sAfter (.srem plainHdr (sf 2)) [(6, BitVec.ofInt 64 (-7)), (7, 2)] == some (BitVec.ofInt 64 (-1)),
      sAfter (.sdiv plainHdr (sf 2)) [(6, 0x80000000), (7, BitVec.ofInt 64 (-1))] == some 0xFFFFFFFF80000000,
      sAfter (.srem plainHdr (sf 2)) [(6, 0x80000000), (7, BitVec.ofInt 64 (-1))] == some 0,
      sAfter (.sdiv plainHdr (sf 4)) [(6, 200), (7, 0)] == some 0xFF, sAfter (.srem plainHdr (sf 4)) [(6, 200), (7, 0)] == some 200,
      sAfter (.ssar plainHdr (sf 4)) [(6, 0x80), (7, 9)] == some 0xFF,
      sAfter (.sbfx plainHdr { sf 1 with sb := 0, pos := 4, wid := 4 }) [(6, 0xABCD)] == some 0xFFFFFFFFFFFFFFFC].all id = true := by
  decide +kernel

def vf (vd va vb vc : BitVec 8) (ty aux : BitVec 4) (sel : BitVec 3) : VFmt := ⟨vd, va, vb, vc, ty, aux, 0, false, false, sel, 0⟩
/-- Lane `l` of `v(r)` of gang 0 at the value given, every other lane as before. -/
def withV (l : List (Nat × Nat × Word)) (s : State) : State :=
  withIss (fun u => { u with v := l.foldl (fun t p => t.put (32 * p.1 + p.2.1) p.2.2) u.v }) s
/-- The worked case of VQUANT (R155): 3.5, −700 and 0.1 to E4M3, and back by VDEQ. -/
theorem test_vquant_worked :
    ((after (.vquant plainHdr (vf 20 21 0 22 12 9 1)) (withV [(21, 0, 0x40600000), (21, 1, 0xC42F0000), (21, 2, 0x3DCCCCCD)])).any (fun u =>
      [0, 1, 2, 31].map (u.rdV 20) == [0x4100, 0xFD00, 0x1800, 0] && [0, 31].map (u.rdV 22) == [0x3D00, 0x3D00] &&
      u.fstat == [(0, 16)])
    && (after (.vdeq plainHdr (vf 23 20 22 0 12 9 1))
        (withV [(20, 0, 0x4100), (20, 1, 0xFD00), (20, 2, 0x1800), (22, 0, 0x3D00), (22, 1, 0x3D00), (22, 2, 0x3D00)])).any (fun u =>
      [0, 1, 2].map (u.rdV 23) == [0x406A0000, 0xC4290000, 0x3DD00000])) = true := by decide +kernel

def quad : State → State := fun s =>
  withIss (fun u => { u with m := [(0, 7)] }) (withV ((1, 0, 10) :: (1, 1, 11) :: (1, 2, 12) :: (1, 3, 13) ::
    (List.range 28).map (fun l => (1, l + 4, 100))) s)
/-- The worked case of R163's section: a helper lane in a quad exchange and in a sum. -/
theorem test_quad_worked :
    ((after (.qswap plainHdr (vf 2 1 0 0 2 0 0)) quad).any (fun u => [0, 1, 2, 3, 4].map (u.rdV 2) == [11, 10, 13, 0, 0])
    && (after (.vred plainHdr (vf 3 1 0 0 2 0 0)) quad).any (fun u => [0, 1, 2, 3, 4].map (u.rdV 3) == [33, 33, 33, 0, 0])) = true := by
  decide +kernel

/-- The worked case of a guarded CALL (R91, R118): slices 0 to 3 go to slot 2 of line 0, the others to the next slot. -/
theorem test_call_worked :
    (match exec (.call ⟨false, 5⟩ { bf0 with sl := 62, slot := 2 }) (atStep (.call ⟨false, 5⟩ { bf0 with sl := 62, slot := 2 })
        (fun s => withIss (fun u => { u with c := (List.range 4).map (fun j => (8 * 5 + j, true)) }) (openSlots s))) with
      | .next t => (t.issuer gang0).any (fun u => (u.frag 0).smask == 0x0F && (u.frag 0).pc == 2 && (u.frag 0).lmask == 0x0000FFFF &&
          (u.frag 1).smask == 0xF0 && (u.frag 1).pc == 1 && (List.range 8).map (fun j => u.rdS 62 j) == [1, 1, 1, 1, 0, 0, 0, 0])
      | _ => false) = true := by decide +kernel

/-- Ternary byte 0x58 (R19), the scale codes of R21, and codes above 242. -/
theorem test_codes_worked :
    ([0, 1, 2, 3, 4].map (tritOf 0x58) == [1, -1, 0, 0, 1] && tritBad 243 && !tritBad 242 && (scaleOf 0x38).1 == .fin false 8 (-3) &&
      (scaleOf 0x7E).1 == .fin false 14 5 && (scaleOf 0x01).1 == .fin false 1 (-9) && scaleOf 0x7F == (.nan false, 0) &&
      (scaleOf 0x80).2 == 32) = true := by decide
/-- The worked chunks of R36: 2^24 and thirty-one ones, then −2^24; and the block-scaled chunk, with a good and a bad scale. -/
theorem test_chunks_worked :
    (let one : Val := .fin false 1 0
     let c0 := accumulate 0 (.fin false 1 12 :: List.replicate 31 one) (.fin false 1 12 :: List.replicate 31 one)
     let c1 := accumulate c0.1 (.fin true 1 12 :: List.replicate 31 (.fin false 0 0)) (.fin false 1 12 :: List.replicate 31 one)
     let a := (scaledChunk 12 (0x38 :: 0x38 :: 0x7E :: List.replicate 29 0) (some 0x30)).1
     let b := fun (n : Nat) => scaledChunk 12 (List.replicate 32 0x40) (some n)
     [c0.1 == 0x4B800010, c0.2 == 16, c1.1 == 0x42000000, c1.2 == 0, (accumulate 0x41200000 a (b 0x38).1).1 == 0x43E60000,
      (accumulate 0x41200000 a (b 0xB8).1).1 == 0x7FC00000, (b 0xB8).2 == 32 + 1]).all id = true := by decide +kernel

/-- Packages 0 and 1 are no neighbours and meet at 1,056, which is a neighbour of 0 (R427, R428). -/
theorem test_plane_worked : (!neighbours 0 1 && between 0 1 == 1056 && neighbours 1056 0) = true := by decide

/-- The counts of the stockpot's worked case: 5 and 7 combine, then a record is sealed at LIMIT 3 and `.nospill` finds it full. -/
theorem test_counts_worked :
    (let img := fun (v : Word) (nospill : Bool) => (⟨0x51, [v, 0, 0, 0, 0, 0, 0, 0, 0, 0],
       (1 <<< 32) ||| (1 <<< 42) ||| (1 <<< 46) ||| (if nospill then 1 <<< 51 else 0), 3⟩ : Image)
     let ins := fun (s : State) (v : Word) (n : Bool) => s.tryInsert 0 0 (img v n) none none
     let s1 := ins State.reset 5 false
     let s2 := ins s1.1 7 false
     let s3 := ins s2.1 9 false
     let s4 := ins s3.1 4 true
     let s5 := ins s3.1 6 false
     [s1.2 == .ok 0 false 0, s2.2 == .ok 0 true 1, ((s2.1.pot 0).recs.map (fun p => (p.2.img.words.getD 0 0, p.2.count))) == [(12, 2)],
      s3.2 == .ok 0 true 2, ((s3.1.pot 0).recs.map (fun p => (p.2.img.words.getD 0 0, p.2.sealed))) == [(21, some .limit)],
      s4.2 == .full 3, s5.2 == .ok 1 false 0, insStatus 0 true 1 == 0x0080000000000001, insStatus 2 false 3 == 0x0200000000000003]).all id
      = true := by decide +kernel
end Sys2Proof.Tests
end

-- Proofs: the laws of memory (O58)
section
/-! The canonical form of memory (R6, R164, R404, R405): O58 put together from the laws of Laws/Memory. -/
namespace Sys2Proof.Proofs

open Sys2Proof.Machine Sys2Proof.Laws

/-- A splice and a write of the same bytes read alike. -/
theorem get_splice_eq_get_write {m : Memory} (k a : Nat) (bs : List Byte) (h : m.wf = true) :
    (m.splice k bs).get a = (m.write k bs).get a := by
  rw [get_splice, get_write k a bs h]

/-- Settles O58: each part is a law of memory that Laws/Memory states for one operation. -/
theorem memoryLaws : Obligations.MemoryLaws :=
  ⟨fun _ k bs h => ⟨write_wf k bs h, splice_wf k bs h, fun a => ⟨get_write k a bs h, get_splice_eq_get_write k a bs h⟩⟩,
    fun _ _ hm hn h => memory_ext hm hn h,
    fun _ key a bs h => ⟨pkgRead_pkgStore key a bs h, pkgStore_wf key a bs h⟩,
    fun n k => ⟨ofBytes_bytesOf n k, length_bytesOf n k, fun i hi => getD_bytesOf n k i hi⟩⟩

end Sys2Proof.Proofs
end

-- Proofs: memory under the states of results, registers and issuers (O59)
section
/-! What each function of the model does to memory (R6, R164, R404), as O59 needs it: one lemma a function, in the order of the
model's files. `f_mem` says that `f` leaves memory; `f_wf` that it keeps memory's canonical form, where what it stores goes through
the writers of Machine/Memory. First the states that the model's results hold, then the registers, barriers, sieves and the
operations of an issuer. -/
namespace Sys2Proof.Proofs

open Sys2Proof Sys2Proof.Machine Sys2Proof.Laws

/-- The state that the result of an attempt holds. -/
def Res.state : Res → State
  | .ok s => s
  | .moved s => s
  | .after _ s => s
  | .back _ s => s
  | .stall _ s => s
  | .trap _ s => s

/-- The state that a step of the array leaves, from `s`. -/
def Step.state (s : State) : Step → State
  | .hold => s
  | .more t _ => t
  | .finished t _ _ => t
  | .bad t _ _ _ _ _ => t

/-- The state in which a plan leaves `s`. -/
def Plan.state (s : State) : Plan → State
  | .trap _ t => t
  | _ => s

/-- The state of a result that is one or a refusal, which leaves `s`. -/
def stateOr {α : Type} (s : State) : α ⊕ State → State
  | .inl _ => s
  | .inr t => t

/-- The next state, or `s` where there is none. -/
def nextOr (s : State) : Host.Outcome State Fault Refusal → State
  | .next t => t
  | .fault _ => s
  | .refused _ => s

@[simp] theorem state_ok (s : State) : Res.state (.ok s) = s := rfl
@[simp] theorem state_moved (s : State) : Res.state (.moved s) = s := rfl
@[simp] theorem state_after (t : TrapReq) (s : State) : Res.state (.after t s) = s := rfl
@[simp] theorem state_back (e : Nat) (s : State) : Res.state (.back e s) = s := rfl
@[simp] theorem state_stall (w : Why) (s : State) : Res.state (.stall w s) = s := rfl
@[simp] theorem state_trap (t : TrapReq) (s : State) : Res.state (.trap t s) = s := rfl
@[simp] theorem stepState_hold (s : State) : Step.state s .hold = s := rfl
@[simp] theorem stepState_more (s t : State) (o) : Step.state s (.more t o) = t := rfl
@[simp] theorem stepState_finished (s t : State) (o ts) : Step.state s (.finished t o ts) = t := rfl
@[simp] theorem stepState_bad (s t : State) (o c v b ts) : Step.state s (.bad t o c v b ts) = t := rfl
@[simp] theorem stateOr_inl {α : Type} (s : State) (a : α) : stateOr s (.inl a) = s := rfl
@[simp] theorem stateOr_inr {α : Type} (s t : State) : stateOr s (.inr t : α ⊕ State) = t := rfl
@[simp] theorem nextOr_next (s t : State) : nextOr s (.next t) = t := rfl
@[simp] theorem nextOr_fault (s : State) (f : Fault) : nextOr s (.fault f) = s := rfl
@[simp] theorem nextOr_refused (s : State) (f : Refusal) : nextOr s (.refused f) = s := rfl

/-- A fold of steps that each leave memory leaves it. -/
@[simp] theorem foldl_mem {α : Type} {f : State → α → State} (h : ∀ s a, (f s a).mem = s.mem) (l : List α) (s : State) :
    (l.foldl f s).mem = s.mem := by
  induction l generalizing s with
  | nil => rfl
  | cons a r ih => rw [List.foldl_cons, ih, h]

@[simp] theorem ite_mem (c : Prop) [Decidable c] (s t : State) : (if c then s else t).mem = if c then s.mem else t.mem :=
  apply_ite State.mem c s t
/-- A fold of steps that each keep memory canonical keeps it. -/
theorem foldl_wf {α : Type} {f : State → α → State} (hf : ∀ s a, s.mem.wf = true → (f s a).mem.wf = true) (l : List α)
    {s : State} (h : s.mem.wf = true) : (l.foldl f s).mem.wf = true :=
  List.foldlRecOn (motive := fun t : State => t.mem.wf = true) l f h fun t ht a _ => hf t a ht

@[simp] theorem wf_ite (c : Prop) [Decidable c] (m n : Memory) : Memory.wf (if c then m else n) = if c then m.wf else n.wf :=
  apply_ite Memory.wf c m n

theorem wf_stateOr_ite {α : Type} {c : Prop} [Decidable c] {s : State} {x y : α ⊕ State} (hx : (stateOr s x).mem.wf = true)
    (hy : (stateOr s y).mem.wf = true) : (stateOr s (if c then x else y)).mem.wf = true :=
  iteInduction (motive := fun r => (stateOr s r).mem.wf = true) (fun _ => hx) fun _ => hy

/-! Machine/Memory. -/

@[simp] theorem logDie_mem (s : State) (d addr ctx src kind info : Nat) :
    (s.logDie d addr ctx src kind info).mem = s.mem := by
  simp [State.logDie]

/-! Machine/Regs. -/

@[simp] theorem wakeSeq_mem (s : State) (w : Who) : (s.wakeSeq w).mem = s.mem := by
  simp [State.wakeSeq]
@[simp] theorem deliver_mem (s : State) (w : Who) (tag sd : Nat) (slices : List Nat) (v : Dword) :
    (s.deliver w tag sd slices v).mem = s.mem := by
  simp [State.deliver]

/-! Machine/Barrier. -/

@[simp] theorem gateErrors_mem (s : State) (k : BarKey) (ph : BitVec 16) : (s.gateErrors k ph).mem = s.mem := rfl
@[simp] theorem barError_mem (s : State) (k : BarKey) : (s.barError k).mem = s.mem := by
  simp [State.barError]
@[simp] theorem barTest_mem (s : State) (k : BarKey) (event : Bool) : (s.barTest k event).mem = s.mem := by
  simp [State.barTest]
@[simp] theorem addBytes_mem (s : State) (k : BarKey) (n : Nat) : (s.addBytes k n).mem = s.mem := by
  simp [State.addBytes]
@[simp] theorem arriveAt_mem (s : State) (k : BarKey) (w : Who) : (s.arriveAt k w).mem = s.mem := by
  simp [State.arriveAt]
@[simp] theorem setArr_mem (s : State) (k : BarKey) (w : Who) (js : List Nat) (a : ArrSt) :
    (s.setArr k w js a).mem = s.mem := by
  simp [State.setArr]
@[simp] theorem dropArr_mem (s : State) (k : BarKey) (w : Who) (js : List Nat) : (s.dropArr k w js).mem = s.mem := by
  simp [State.dropArr]
@[simp] theorem gather_mem (s : State) (k : BarKey) (w : Who) (live : List Nat) : (s.gather k w live).mem = s.mem := by
  simp [State.gather]
@[simp] theorem arrive_mem (s : State) (k : BarKey) (w : Who) (js live : List Nat) : (s.arrive k w js live).mem = s.mem := by
  simp [State.arrive]
@[simp] theorem watchFor_mem (s : State) (k : BarKey) (w : Who) (js : List Nat) : (s.watchFor k w js).mem = s.mem := rfl
@[simp] theorem regather_mem (s : State) (w : Who) (live : List Nat) : (s.regather w live).mem = s.mem := by
  simp [State.regather]
@[simp] theorem forgetMember_mem (s : State) (w : Who) : (s.forgetMember w).mem = s.mem := rfl
@[simp] theorem retestBlock_mem (s : State) (c b : Nat) : (s.retestBlock c b).mem = s.mem := by
  simp [State.retestBlock]
@[simp] theorem errorAll_mem (s : State) (ks : List BarKey) : (s.errorAll ks).mem = s.mem := foldl_mem barError_mem ks s

/-! Machine/Translate. -/

@[simp] theorem storeOrDrop_wf {s : State} {d ctx va : Nat} {bs : List Byte} (h : s.mem.wf = true) :
    (s.storeOrDrop d ctx va bs).1.mem.wf = true := by
  simp only [State.storeOrDrop]
  repeat' split
  all_goals simp [h, pkgStore_wf]
@[simp] theorem dropLine_mem (s : State) (pl : Place) (ctx line : Nat) : (s.dropLine pl ctx line).mem = s.mem := rfl

/-! Machine/Sieve. -/

@[simp] theorem updProbe_mem (s : State) (n : Nat) (f : Probe → Probe) : (s.updProbe n f).mem = s.mem := rfl
@[simp] theorem traceStore_wf {s : State} {core : Nat} {bs : List Byte} (h : s.mem.wf = true) :
    (s.traceStore core bs).mem.wf = true := by
  unfold State.traceStore; split <;> simp [h]
@[simp] theorem lostRec_wf {s : State} {core : Nat} (h : s.mem.wf = true) : (s.lostRec core).mem.wf = true := by
  simp only [State.lostRec]
  repeat' split
  all_goals simp [h]
@[simp] theorem traceRec_wf {s : State} {core kind who sv lane : Nat} {mask : Word} {pc : Pc} {data : Dword}
    (h : s.mem.wf = true) :
    (s.traceRec core kind who sv lane mask pc data).mem.wf = true := by
  simp only [State.traceRec]
  repeat' split
  all_goals simp [h]
/-- The records of a match are all that counting it stores (R281). -/
@[simp] theorem countMatches_wf {s : State} {core g : Nat} {u : Issuer} {ms : List Match} (h : s.mem.wf = true) :
    (s.countMatches core g u ms).mem.wf = true := by
  have hrec (t : State) (m : Match) (f : Probe → Probe) (ht : t.mem.wf = true) :
      (m.lanes.foldl (fun s l => s.traceRec core 3 (whoByte u (.gang core g)) m.sv l.1 m.mask m.pc l.2)
        (t.updProbe core f)).mem.wf = true :=
    foldl_wf (fun _ _ hs => traceRec_wf hs) _ (by simpa using ht)
  have hstep (t : State) (m : Match) (f : Probe → Probe) (ht : t.mem.wf = true) : (if m.act = 1 then
      m.lanes.foldl (fun s l => s.traceRec core 3 (whoByte u (.gang core g)) m.sv l.1 m.mask m.pc l.2) (t.updProbe core f)
      else t.updProbe core f).mem.wf = true := by
    split
    · exact hrec t m f ht
    · simpa using ht
  simp only [State.countMatches]
  split
  · exact foldl_wf (fun t m ht => hstep t m _ ht) ms h
  · rw [updProbe_mem]
    exact foldl_wf (fun t m ht => hstep t m _ ht) ms h
@[simp] theorem countEvents_wf {s : State} {t : Tab Nat Sieve} {core g : Nat} {u : Issuer} {es : List StepEv} (h : s.mem.wf = true) :
    (s.countEvents t core g u es).mem.wf = true := foldl_wf (fun _ _ ht => countMatches_wf ht) es h
@[simp] theorem stepEnds_mem (s : State) (w : Who) (entry end_ : Nat) : (s.stepEnds w entry end_).mem = s.mem := by
  simp only [State.stepEnds]
  repeat' split
  all_goals simp
@[simp] theorem haltEntry_mem (s : State) (w : Who) (e : Nat) : (s.haltEntry w e).mem = s.mem := by
  simp [State.haltEntry]
@[simp] theorem haltLane_mem (s : State) (w : Who) (l : Nat) : (s.haltLane w l).mem = s.mem := by
  simp only [State.haltLane]
  repeat' split
  all_goals simp
@[simp] theorem haltSlice_mem (s : State) (w : Who) (j : Nat) : (s.haltSlice w j).mem = s.mem := by
  simp only [State.haltSlice]
  repeat' split
  all_goals simp
@[simp] theorem haltAll_mem (s : State) (w : Who) : (s.haltAll w).mem = s.mem := by
  unfold State.haltAll; split <;> simp
@[simp] theorem haltDebug_mem (s : State) (w : Who) : (s.haltDebug w).mem = s.mem := by
  unfold State.haltDebug; split <;> simp
@[simp] theorem noteHalt_mem (s : State) (w : Who) (scope sv : Nat) (host : Bool) :
    (s.noteHalt w scope sv host).mem = s.mem := by
  simp [State.noteHalt]
@[simp] theorem haltBy_wf {s : State} {core g : Nat} {dbg : Bool} {m : Match} (h : s.mem.wf = true) :
    (s.haltBy core g dbg m).mem.wf = true := by
  simp only [State.haltBy]
  split
  · exact h
  · split
    · exact foldl_wf (fun t l ht => by simp [ht]) _ (by simp [h])
    · repeat' split
      all_goals simp [h]
@[simp] theorem judge_wf {s : State} {core g : Nat} {u : Issuer} {es : List StepEv} (h : s.mem.wf = true) :
    (s.judge core g u es).1.mem.wf = true := by
  simp [State.judge, h]
@[simp] theorem haltsOf_wf {s : State} {core g : Nat} {dbg : Bool} {hs : List (List Match)} (h : s.mem.wf = true) :
    (s.haltsOf core g dbg hs).mem.wf = true := by
  unfold State.haltsOf
  split
  · exact h
  · exact foldl_wf (fun t ms ht => foldl_wf (fun t m ht => by simp [ht]) ms ht) hs h

/-! Machine/Ops. -/

@[simp] theorem fixed_mem (s : State) (c : Cx) (lat : Nat) (ts : List (Nat × Tgt)) : (c.fixed lat ts s).mem = s.mem := by
  simp [Cx.fixed]
@[simp] theorem putS_mem (s : State) (c : Cx) (r : BitVec 6) (f : Nat → Dword) : (c.putS r f s).mem = s.mem := by
  simp [Cx.putS]
@[simp] theorem async_mem (s : State) (c : Cx) (k : FlightKind) : (c.async k s).1.mem = s.mem := by
  unfold Cx.async; split <;> simp
@[simp] theorem asyncNow_mem (s : State) (c : Cx) (tgts : Nat → List Tgt) : (c.asyncNow tgts s).mem = s.mem := by
  simp [Cx.asyncNow]
@[simp] theorem setWait_mem (s : State) (w : Who) (e : Nat) (x : Wait) : (s.setWait w e x).mem = s.mem := by
  simp [State.setWait]
@[simp] theorem swapWait_mem (s : State) (w : Who) (e : Nat) : (s.swapWait w e).mem = s.mem := by
  simp [State.swapWait]
@[simp] theorem events_mem (s : State) (c : Cx) (addrs : List AccEv) (vals : List ValEv) :
    (c.events addrs vals s).mem = s.mem := rfl
@[simp] theorem begin_mem (s : State) (c : Cx) : (c.begin s).mem = s.mem := rfl
@[simp] theorem unname_mem (s : State) (w : Who) : (s.unname w).mem = s.mem := rfl
@[simp] theorem ageInserts_mem (s : State) (w : Who) (b : Bool) : (s.ageInserts w b).mem = s.mem := rfl
@[simp] theorem resumeInsert_mem (s : State) (w : Who) (id : Nat) (abandon : Bool) :
    (s.resumeInsert w id abandon).mem = s.mem := by
  simp only [State.resumeInsert]
  repeat' split
  all_goals simp
@[simp] theorem rename_mem (s : State) (a b : Who) : (s.rename a b).mem = s.mem := by
  simp [State.rename]
@[simp] theorem orphan_mem (s : State) (w : Who) : (s.orphan w).mem = s.mem := by
  simp [State.orphan]
@[simp] theorem removeGang_mem (s : State) (core g : Nat) : (s.removeGang core g).mem = s.mem := by
  unfold State.removeGang; split <;> simp
@[simp] theorem updBlock_mem (s : State) (n b : Nat) (f : Block → Block) : (s.updBlock n b f).mem = s.mem := rfl
@[simp] theorem endStream_mem (s : State) (n b : Nat) : (s.endStream n b).mem = s.mem := by
  simp [State.endStream]
@[simp] theorem endSeq_mem (s : State) (w : Who) (cause orig : Nat) : (s.endSeq w cause orig).mem = s.mem := by
  unfold State.endSeq; split <;> rfl
@[simp] theorem double_mem (s : State) (w : Who) (orig : Nat) : (s.double w orig).mem = s.mem := by
  simp only [State.double]
  repeat' split
  all_goals simp
@[simp] theorem takeTrap_mem (s : State) (w : Who) (e : Nat) (pc : Pc) (t : TrapReq) :
    (s.takeTrap w e pc t).mem = s.mem := by
  unfold State.takeTrap; split <;> simp
@[simp] theorem regang_mem (s : State) (w : Who) : (s.regang w).mem = s.mem := by
  unfold State.regang; split <;> simp
@[simp] theorem commitAll_mem (s : State) (w : Who) (slices : List Nat) (dbg : Bool) :
    (s.commitAll w slices dbg).mem = s.mem := by
  unfold State.commitAll; split <;> simp
/-- A decode fault leaves memory (R57). -/
theorem decodeFaults_mem {s : State} {w : Who} {u : Issuer} {cur : Cur} {y : Bool} {r : Res} :
    ∀ {is : List (Instr × Pc)}, s.decodeFaults w u cur y is = some r → (Res.state r).mem = s.mem
  | [], e => nomatch e
  | (i, at_) :: is, e => by
    simp only [State.decodeFaults] at e
    split at e
    · exact decodeFaults_mem e
    · split at e
      · split at e <;> cases e <;> simp
      · cases e; rfl
/-- The prologue of a step leaves memory. -/
@[simp] theorem prologue_mem (s : State) (w : Who) (u : Issuer) (cur : Cur) (is : List (Instr × Pc)) :
    (Res.state (s.prologue w u cur is)).mem = s.mem := by
  simp only [State.prologue]
  split
  next r e => exact (decodeFaults_mem e).trans rfl
  · repeat' split
    all_goals simp
/-- The reading of ladle operands that waits or traps leaves memory (R177 to R179). -/
theorem readLadles_mem {s : State} {c : Cx} {srcs : List (Nat × Bool)} {r : Res} (e : c.readLadles srcs s = .inr r) :
    (Res.state r).mem = s.mem := by
  simp only [Cx.readLadles] at e
  repeat' split at e
  all_goals cases e
  all_goals simp
@[simp] theorem advanceLadles_mem (s : State) (w : Who) (uses : List (Nat × Nat)) :
    (s.advanceLadles w uses).mem = s.mem := by
  simp [State.advanceLadles]
@[simp] theorem countStep_mem (s : State) (w : Who) (e : Nat) : (s.countStep w e).mem = s.mem := by
  simp [State.countStep]
@[simp] theorem endOneStepping_mem (s : State) (w : Who) (e : Nat) : (s.endOneStepping w e).mem = s.mem := by
  simp only [State.endOneStepping]
  repeat' split
  all_goals simp
@[simp] theorem endStepping_mem (s : State) (w : Who) (e : Nat) : (s.endStepping w e).mem = s.mem := by
  unfold State.endStepping; split <;> simp
@[simp] theorem haltStep_wf {s : State} {core g : Nat} {c : Cx} {hs : List (List Match)} (h : s.mem.wf = true) :
    (s.haltStep core g c hs).mem.wf = true := by
  simp [State.haltStep, h]
@[simp] theorem sieveTrap_mem (s : State) (core g : Nat) (c : Cx) (ms : List Match) :
    (s.sieveTrap core g c ms).mem = s.mem := by
  simp only [State.sieveTrap]
  repeat' split
  all_goals simp
@[simp] theorem sieveHalts_wf {s : State} {core g : Nat} {c : Cx} (h : s.mem.wf = true) :
    (s.sieveHalts core g c).1.mem.wf = true := by
  simp only [State.sieveHalts]
  repeat' split
  all_goals simp [h]
@[simp] theorem sieveStep_wf {s : State} {core g : Nat} {c : Cx} (h : s.mem.wf = true) :
    (s.sieveStep core g c).mem.wf = true := by
  simp only [State.sieveStep]
  repeat' split
  all_goals simp [h]
@[simp] theorem takeHeld_wf {s : State} {w : Who} {e : Nat} (h : s.mem.wf = true) : (s.takeHeld w e).mem.wf = true := by
  simp only [State.takeHeld]
  repeat' split
  all_goals simp [h]
@[simp] theorem epilogue_wf {s : State} {c : Cx} {placed : Bool} (h : s.mem.wf = true) :
    (s.epilogue c placed).mem.wf = true := by
  simp only [State.epilogue]
  repeat' split
  all_goals simp [h]
@[simp] theorem epilogueTrap_wf {s : State} {c : Cx} {t : TrapReq} (h : s.mem.wf = true) :
    (s.epilogueTrap c t).mem.wf = true := by
  simp only [State.epilogueTrap]
  repeat' split
  all_goals simp [h]
@[simp] theorem sieveLoads_wf {s : State} {w : Who} {u : Issuer} {es : List StepEv} (h : s.mem.wf = true) :
    (s.sieveLoads w u es).1.mem.wf = true := by
  simp only [State.sieveLoads]
  repeat' split
  all_goals simp [h]
@[simp] theorem markStalled_wf {s : State} {w : Who} {e : Nat} {x : Why} (h : s.mem.wf = true) :
    (s.markStalled w e x).mem.wf = true := by
  unfold State.markStalled; split <;> simp [h]
@[simp] theorem markTrapped_wf {s : State} {w : Who} {e : Nat} {pc : Pc} {t : TrapReq} (h : s.mem.wf = true) :
    (s.markTrapped w e pc t).mem.wf = true := by
  unfold State.markTrapped; split <;> simp [h]
/-- The body of an instruction under its guard keeps memory canonical where the body does. -/
theorem runBody_wf {s : State} {i : Instr} {c : Cx} {body : Cx → State → Res}
    (hb : ∀ c t, t.mem.wf = true → (Res.state (body c t)).mem.wf = true) (h : s.mem.wf = true) :
    (Res.state (runBody i c body s)).mem.wf = true := by
  simp only [runBody]
  split
  · exact h
  · split
    · exact hb c s h
    · split
      · exact hb c s h
      · split
        next r e => rw [readLadles_mem e]; exact h
        next c' evs uses e =>
          have hc := hb c' s h
          split
          · exact hb c s h
          · split <;> simp_all
/-- The end of an issue keeps memory canonical: all that it stores are the trace records of sieves. -/
theorem close_wf {s : State} {c : Cx} {r : Res} (h : (Res.state r).mem.wf = true) :
    (nextOr s (State.close c r)).mem.wf = true := by
  cases r <;> simp only [Res.state] at h <;> simp only [State.close]
  case ok | trap => split <;> simp [h]
  all_goals simp [h]
@[simp] theorem noteLadles_mem (s : State) (cur : Cur) (i : Instr) : (s.noteLadles cur i).mem = s.mem := by
  unfold State.noteLadles; split <;> simp
/-- An issue keeps memory canonical where its instruction's body does. -/
theorem issue_wf {s : State} {i : Instr} {hd : Hdr} {body : Cx → State → Res}
    (hb : ∀ c t, t.mem.wf = true → (Res.state (body c t)).mem.wf = true) (h : s.mem.wf = true) :
    (nextOr s (issue i hd body s)).mem.wf = true := by
  have hpro (w : Who) (u : Issuer) (cur : Cur) (is : List (Instr × Pc)) : (Res.state (s.prologue w u cur is)).mem.wf = true := by
    simpa using h
  have hbody (t : State) (c : Cx) (ht : t.mem.wf = true) :
      (nextOr s (State.close c (runBody i c body (c.begin t)))).mem.wf = true :=
    close_wf (runBody_wf hb (by simpa using ht))
  unfold issue
  split
  · exact h
  next cur _ =>
    split
    · exact h
    next u _ =>
      simp only
      split
      · split
        · exact h
        · exact hbody _ _ h
      · have ht := hpro cur.who u cur [(i, cur.at_)]
        split
        next t e =>
          rw [e] at ht
          split
          · exact h
          · exact hbody _ _ ht
        next t e =>
          rw [e] at ht
          split
          · exact h
          · exact hbody _ _ ht
        · exact close_wf ht
      next o _ =>
        have ht := hpro cur.who u cur (pairAt cur i o)
        split
        next t e =>
          rw [e] at ht
          split
          · exact h
          · exact hbody _ _ (by simpa using ht)
        next t e =>
          rw [e] at ht
          split
          · exact h
          · exact hbody _ _ (by simpa using ht)
        · exact close_wf ht

end Sys2Proof.Proofs
end

-- Proofs: memory under accesses, copies and stockpots (O59)
section
/-! Memory under accesses, blocks, windows, remote accesses, copies, stockpots and arms. -/
namespace Sys2Proof.Proofs

open Sys2Proof Sys2Proof.Machine Sys2Proof.Laws

/-! Machine/Flags. -/

@[simp] theorem vec_mem (s : State) (c : Cx) (lat : Nat) (go : Nat → LaneOut) :
    (Res.state (c.vec lat go s)).mem = s.mem := by
  simp [Cx.vec]

/-! Machine/Operands. -/

@[simp] theorem vElems_mem (s : State) (c : Cx) (f : VFmt) (lat : Nat) (op : Nat → Nat → Nat → Nat → Nat × Nat) :
    (Res.state (c.vElems f lat op s)).mem = s.mem := by
  simp [Cx.vElems]

/-! Machine/Access. -/

@[simp] theorem failAcc_mem (s : State) (core g n i ctx : Nat) (a : Acc) (cause : Nat) :
    (s.failAcc core g n i ctx a cause).mem = s.mem := by
  simp [State.failAcc]
@[simp] theorem writeAt_wf {s : State} {p : Nat × Option Nat} {bs : List Byte} (h : s.mem.wf = true) :
    (s.writeAt p bs).mem.wf = true := by
  unfold State.writeAt; split <;> simp [h, pkgStore_wf, storeFlat_wf]
@[simp] theorem claimDie_mem (s : State) (d ctx : Nat) : (s.claimDie d ctx).mem = s.mem := by
  unfold State.claimDie; split <;> rfl
@[simp] theorem performAcc_wf {s : State} {core g n i : Nat} (h : s.mem.wf = true) :
    (s.performAcc core g n i).mem.wf = true := by
  simp only [State.performAcc]
  repeat' split
  all_goals simp [h]
@[simp] theorem returnEntry_wf {s : State} {core g n : Nat} {lanes : BitVec 32} (h : s.mem.wf = true) :
    (s.returnEntry core g n lanes).mem.wf = true := by
  unfold State.returnEntry
  split
  · exact h
  · split
    · exact h
    · split
      · exact h
      · rw [updIssuer_mem]
        refine foldl_wf (fun t i ht => ?_) _ h
        split
        · exact performAcc_wf ht
        · exact ht
/-- An access enters the log and leaves memory (R183). -/
@[simp] theorem access_mem (c : Cx) (i : Instr) (kind : AccKind) (space width : Nat) (uni : Bool) (accs : List Acc) (s : State) :
    (Res.state (c.access i kind space width uni accs s)).mem = s.mem := by
  unfold Cx.access
  split
  case h_1 =>
    split
    · rfl
    · split
      · rfl
      · simp only [state_ok, events_mem]
        rw [foldl_mem (fun t a => by split <;> rfl)]
        split <;> simp
  all_goals rfl

/-! Machine/Mem. -/

@[simp] theorem vLoad_mem (s : State) (i : Instr) (f : MFmt) (c : Cx) : (Res.state (vLoad i f c s)).mem = s.mem := by
  simp [vLoad]
@[simp] theorem vStore_mem (s : State) (i : Instr) (f : MFmt) (c : Cx) : (Res.state (vStore i f c s)).mem = s.mem := by
  simp [vStore]
@[simp] theorem execLadleFetch_mem (s : State) (core gid slice q ahead : Nat) :
    (nextOr s (execLadleFetch core gid slice q ahead s)).mem = s.mem := by
  unfold execLadleFetch
  extract_lets w
  split
  · rfl
  · split
    · rfl
    · split
      · rfl
      · simp only
        split
        · rfl
        · simp only [nextOr_next, updIssuer_mem]
          rw [foldl_mem (fun t b => logDie_mem t _ _ _ _ _ _)]
          split <;> simp

/-! Machine/Block. -/

@[simp] theorem dropPool_mem (s : State) (n id : Nat) : (s.dropPool n id).mem = s.mem := rfl
@[simp] theorem noteTaken_mem (s : State) (n : Nat) (w : Who) : (s.noteTaken n w).mem = s.mem := rfl
@[simp] theorem noteGranted_mem (s : State) (n : Nat) (q : PoolReq) : (s.noteGranted n q).mem = s.mem := rfl
@[simp] theorem askPool_mem (s : State) (c : Cx) (n regs gangs : Nat) (start : Pc) :
    (Res.state (c.askPool n regs gangs start s)).mem = s.mem := by
  simp [Cx.askPool]
@[simp] theorem grown_mem (s : State) (c : Cx) (f : DFmt) (b : Bool) : (Res.state (c.grown f b s)).mem = s.mem := by
  simp [Cx.grown]
@[simp] theorem execPoolGrant_mem (s : State) (core : Nat) : (nextOr s (execPoolGrant core s)).mem = s.mem := by
  simp only [execPoolGrant]
  repeat' split
  all_goals simp
@[simp] theorem execGrowFail_mem (s : State) (core : Nat) : (nextOr s (execGrowFail core s)).mem = s.mem := by
  simp only [execGrowFail]
  repeat' split
  all_goals simp
@[simp] theorem launchGangs_mem (s : State) (c : Cx) (f : LFmt) (core blk units : Nat) (start : Pc) :
    (c.launchGangs f core blk units start s).2.mem = s.mem := rfl
@[simp] theorem launchCoreBody_mem (s : State) (f : LFmt) (c : Cx) : (Res.state (launchCoreBody f c s)).mem = s.mem := by
  unfold launchCoreBody
  split
  next core blk _ =>
    extract_lets n k done launch
    have hdone (st : Nat) (gids : List Nat) (t : State) : (Res.state (done st gids t)).mem = t.mem := asyncNow_mem ..
    have hlaunch (units : Nat) (start : Pc) (t : State) : (Res.state (launch units start t)).mem = t.mem :=
      (hdone _ _ _).trans (launchGangs_mem ..)
    generalize c.fr.wait = w
    cases w with
    | poolDone => exact hdone _ _ _
    | denied => exact hdone _ _ _
    | pool =>
      dsimp only
      split
      · exact hdone _ _ _
      · split
        · rw [hlaunch, noteGranted_mem, dropPool_mem]
        · rfl
    | _ =>
      dsimp only
      split
      · rfl
      · exact hdone _ _ _
      · split
        · exact hdone _ _ _
        next hd _ =>
          generalize (if bitsAt f.imm 8 6 = 0 then hd.regs else bitsAt f.imm 8 6) = units
          split
          · exact hdone _ _ _
          · split
            · rw [hlaunch, noteTaken_mem]
            · split
              · exact hdone _ _ _
              · exact askPool_mem ..
  all_goals rfl
@[simp] theorem joinCoreBody_mem (s : State) (f : LFmt) (c : Cx) : (Res.state (joinCoreBody f c s)).mem = s.mem := by
  simp only [joinCoreBody]
  repeat' split
  all_goals simp
@[simp] theorem barDone_mem (s : State) (c : Cx) (k : BarKey) (f : LFmt) (err : Bool) :
    (Res.state (c.barDone k f err s)).mem = s.mem := by
  simp [Cx.barDone]
@[simp] theorem bound_mem (s : State) (c : Cx) (f : LFmt) (st : Nat) : (Res.state (c.bound f st s)).mem = s.mem := by
  simp [Cx.bound]
@[simp] theorem writeProg_mem (s : State) (w : Who) (v : BitVec 16) : (s.writeProg w v).mem = s.mem := by
  simp only [State.writeProg]
  repeat' split
  all_goals simp
@[simp] theorem idleDone_mem (s : State) (c : Cx) (bars : List BarKey) : (Res.state (c.idleDone bars s)).mem = s.mem := by
  simp [Cx.idleDone]
@[simp] theorem execIdleTimeout_mem (s : State) (who : Who) : (nextOr s (execIdleTimeout who s)).mem = s.mem := by
  simp [execIdleTimeout]

/-! Machine/Window. -/

@[simp] theorem sendMsg_mem (s : State) (m : Msg) : (s.sendMsg m).mem = s.mem := rfl
@[simp] theorem putOut_mem (s : State) (m : Msg) : (s.putOut m).mem = s.mem := by
  unfold State.putOut; split <;> rfl
@[simp] theorem sendReq_mem (s : State) (o : ReqOwner) (m : Msg) : (s.sendReq o m).mem = s.mem := by
  simp [State.sendReq]

/-! Machine/Remote. -/

@[simp] theorem sendEntry_mem (s : State) (core g n : Nat) : (s.sendEntry core g n).mem = s.mem := by
  refine foldl_mem (fun t i => ?_) _ s
  repeat' split
  all_goals simp
@[simp] theorem sendLog_mem (s : State) (core g : Nat) : (s.sendLog core g).mem = s.mem := by
  unfold State.sendLog; split <;> simp
@[simp] theorem execAccessReturn_wf {s : State} {core gid entry : Nat} {lanes : BitVec 32} (h : s.mem.wf = true) :
    (nextOr s (execAccessReturn core gid entry lanes s)).mem.wf = true := by
  simp [execAccessReturn, h]
/-- A remote access enters the log, and what is sent of it leaves memory (R443). -/
@[simp] theorem remote_mem (c : Cx) (i : Instr) (op : Nat) (f : MFmt) (kind : AccKind) (uni : Bool) (accs : List Acc) (s : State) :
    (Res.state (c.remote i op f kind uni accs s)).mem = s.mem := by
  unfold Cx.remote
  split
  case h_1 =>
    simp only
    split
    · rfl
    · split
      · simp
      · simp only [state_ok, events_mem, sendLog_mem, updIssuer_mem]
        rw [foldl_mem (fun t p => foldl_mem (fun t a => by split <;> simp) _ _), foldl_mem (fun t p => updIssuer_mem t _ _)]
        split <;> simp
  all_goals rfl
@[simp] theorem answerLog_mem (s : State) (core g n : Nat) (req resp : Msg) :
    (s.answerLog core g n req resp).mem = s.mem := by
  simp only [State.answerLog]
  split
  · rfl
  · split
    · rfl
    · simp only [sendLog_mem, updIssuer_mem]
      refine foldl_mem (fun t i => ?_) _ s
      repeat' split
      all_goals simp

/-! Machine/Copy. -/

@[simp] theorem updCopy_mem (s : State) (id : Nat) (f : Copy → Copy) : (s.updCopy id f).mem = s.mem := rfl
@[simp] theorem feed_mem (s : State) (c : Copy) : (s.feed c).mem = s.mem := by
  simp [State.feed]
@[simp] theorem feedCopies_mem (s : State) : s.feedCopies.mem = s.mem := by
  simp [State.feedCopies]
@[simp] theorem packetDone_mem (s : State) (seq status cause addr : Nat) :
    (s.packetDone seq status cause addr).mem = s.mem := rfl
@[simp] theorem creditCopy_mem (s : State) (c : Copy) : (s.creditCopy c).mem = s.mem := by
  simp only [State.creditCopy]
  repeat' split
  all_goals simp
@[simp] theorem retireCopy_mem (s : State) (c : Copy) : (s.retireCopy c).mem = s.mem := by
  unfold State.retireCopy; split <;> simp
@[simp] theorem testCopy_mem (s : State) (id : Nat) : (s.testCopy id).mem = s.mem := by
  unfold State.testCopy; split <;> simp
@[simp] theorem denyCopy_mem (s : State) (c : Copy) (addr cause : Nat) : (s.denyCopy c addr cause).mem = s.mem := by
  simp only [State.denyCopy]
  repeat' split
  all_goals simp
@[simp] theorem toFirmware_mem (s : State) (c : Copy) (addr : Nat) : (s.toFirmware c addr).mem = s.mem := by
  simp [State.toFirmware]
@[simp] theorem pieceOver_mem (s : State) (c : Copy) (p m : Nat) : (s.pieceOver c p m).mem = s.mem := by
  simp only [State.pieceOver]
  repeat' split
  all_goals simp
@[simp] theorem putPiece_wf {s : State} {id p m : Nat} {bs : List Byte} {pois : Bool} (h : s.mem.wf = true) :
    (s.putPiece id p m bs pois).mem.wf = true := by
  simp only [State.putPiece]
  repeat' split
  all_goals simp [h]
theorem takePiece_mem {s t : State} {c : Copy} {p : Nat} {bs : List Byte} {o : Option Nat} (e : s.takePiece c p = .ok (bs, o, t)) :
    t.mem = s.mem := by
  unfold State.takePiece at e
  split at e
  · cases e; rfl
  · split at e <;> cases e
    split <;> rfl
@[simp] theorem sendPiece_mem (s : State) (c : Copy) (p peer : Nat) (m : Msg) : (s.sendPiece c p peer m).mem = s.mem := by
  simp [State.sendPiece]
@[simp] theorem copyPiece_wf {s : State} {id p m : Nat} (h : s.mem.wf = true) : (s.copyPiece id p m).mem.wf = true := by
  simp only [State.copyPiece]
  split
  · exact h
  · split
    · exact h
    · split
      · exact h
      · split
        · exact h
        · simpa using h
        · split
          · simpa using h
          · split
            · exact h
            · simpa using h
            next bs pois t e =>
              have ht : t.mem.wf = true := by rw [takePiece_mem e]; exact h
              repeat' split
              all_goals simp [ht]
@[simp] theorem answerCopy_wf {s : State} {id p : Nat} {resp : Msg} (h : s.mem.wf = true) :
    (s.answerCopy id p resp).mem.wf = true := by
  simp only [State.answerCopy]
  repeat' split
  all_goals simp [h]
@[simp] theorem claimLoc_mem (s : State) (ctx : Nat) (l : Loc) : (s.claimLoc ctx l).mem = s.mem := by
  unfold State.claimLoc; split <;> simp
@[simp] theorem failMember_mem (s : State) (id m reason : Nat) : (s.failMember id m reason).mem = s.mem := by
  simp only [State.failMember]
  repeat' split
  all_goals simp
@[simp] theorem goneMembers_mem (s : State) (core slot : Nat) : (s.goneMembers core slot).mem = s.mem := by
  refine foldl_mem (fun t c => ?_) _ s
  split
  · rfl
  · refine foldl_mem (fun t p => ?_) _ t
    repeat' split
    all_goals simp
@[simp] theorem dropCopies_mem (s : State) (p : Copy → Bool) : (s.dropCopies p).mem = s.mem := by
  simp [State.dropCopies]

/-! Machine/Stockpot. -/

@[simp] theorem updRec_mem (s : State) (p n : Nat) (f : Rec → Rec) : (s.updRec p n f).mem = s.mem := rfl
@[simp] theorem tryInsert_mem (s : State) (p ctx : Nat) (i : Image) (timeout podN : Option Nat) :
    (s.tryInsert p ctx i timeout podN).1.mem = s.mem := by
  simp only [State.tryInsert]
  repeat' split
  all_goals simp
@[simp] theorem giveRed_mem (s : State) (w : Who) (sm : BitVec 8) (tag sd : Nat) (v st : Dword) :
    (s.giveRed w sm tag sd v st).mem = s.mem := by
  simp [State.giveRed]
@[simp] theorem completeRed_mem (s : State) (p n st : Nat) (words : List Word) (count : Nat) :
    (s.completeRed p n st words count).mem = s.mem := by
  unfold State.completeRed; split <;> simp
@[simp] theorem flushRed_mem (s : State) (n : Nat) : (s.flushRed n).mem = s.mem := by
  simp only [State.flushRed]
  repeat' split
  all_goals simp
@[simp] theorem contribute_mem (s : State) (p n : Nat) (k : Contrib) : (s.contribute p n k).mem = s.mem := by
  simp only [State.contribute]
  repeat' split
  all_goals simp
@[simp] theorem execReduceTimeout_mem (s : State) (p n : Nat) : (nextOr s (execReduceTimeout p n s)).mem = s.mem := by
  simp only [execReduceTimeout]
  repeat' split
  all_goals simp
@[simp] theorem execIntermediateFlush_mem (s : State) (n : Nat) : (nextOr s (execIntermediateFlush n s)).mem = s.mem := by
  simp only [execIntermediateFlush]
  repeat' split
  all_goals simp
@[simp] theorem respond_mem (s : State) (m : Msg) (status : Nat) (data : List Byte) :
    (s.respond m status data).mem = s.mem := rfl
@[simp] theorem answerRemote_mem (s : State) (src tid : Nat) (v : Dword) : (s.answerRemote src tid v).mem = s.mem := rfl
@[simp] theorem answerJoiners_mem (s : State) (ctx g : Nat) : (s.answerJoiners ctx g).mem = s.mem := by
  unfold State.answerJoiners
  split
  · rfl
  · split
    · rfl
    · simp only
      rw [foldl_mem (fun t j => by split <;> simp)]
      rfl
@[simp] theorem dropInsert_mem (s : State) (id : Nat) : (s.dropInsert id).mem = s.mem := rfl
@[simp] theorem updInsert_mem (s : State) (id : Nat) (f : PendIns → PendIns) : (s.updInsert id f).mem = s.mem := rfl
@[simp] theorem updArm_mem (s : State) (d e : Nat) (f : Arm → Arm) : (s.updArm d e f).mem = s.mem := rfl
@[simp] theorem insSpfull_mem (s : State) (p : PendIns) (i : Image) : (s.insSpfull p i).mem = s.mem := by
  unfold State.insSpfull; split <;> simp
@[simp] theorem packetRetire_mem (s : State) (seq : Nat) (err : Bool) : (s.packetRetire seq err).mem = s.mem := rfl
@[simp] theorem packetRefuse_mem (s : State) (seq st addr : Nat) : (s.packetRefuse seq st addr).mem = s.mem := by
  unfold State.packetRefuse; split <;> rfl
@[simp] theorem insRefuse_mem (s : State) (p : PendIns) (st count : Nat) : (s.insRefuse p st count).mem = s.mem := by
  unfold State.insRefuse; split <;> simp
@[simp] theorem fireOver_mem (s : State) (d e : Nat) : (s.fireOver d e).mem = s.mem := by
  simp only [State.fireOver]
  repeat' split
  all_goals simp
@[simp] theorem dropFiring_mem (s : State) (p : PendIns) (d e info : Nat) : (s.dropFiring p d e info).mem = s.mem := by
  simp [State.dropFiring]
@[simp] theorem insArrived_mem (s : State) (p : PendIns) (n : Nat) (comb : Bool) (count : Nat) :
    (s.insArrived p n comb count).mem = s.mem := by
  unfold State.insArrived; split <;> simp
@[simp] theorem logImage_mem (s : State) (pot addr ctx : Nat) : (s.logImage pot addr ctx).mem = s.mem := by
  simp [State.logImage]
@[simp] theorem arriveInsert_mem (s : State) (p : PendIns) (i : Image) : (s.arriveInsert p i).mem = s.mem := by
  have ht := tryInsert_mem s p.pot p.ctx i p.timeout p.podN
  simp only [State.arriveInsert]
  split
  next s' n comb count e => rw [e] at ht; simpa using ht
  all_goals
    repeat' split
    all_goals simp
@[simp] theorem sendInsert_mem (s : State) (p : PendIns) (i : Image) : (s.sendInsert p i).mem = s.mem := by
  simp [State.sendInsert]
@[simp] theorem attemptInsert_mem (s : State) (p : PendIns) : (s.attemptInsert p).mem = s.mem := by
  simp only [State.attemptInsert]
  repeat' split
  all_goals simp
@[simp] theorem launchPotBody_mem (s : State) (f : LFmt) (c : Cx) : (Res.state (launchPotBody f c s)).mem = s.mem := by
  simp only [launchPotBody]
  repeat' split
  all_goals simp
@[simp] theorem launchBody_mem (s : State) (f : LFmt) (c : Cx) : (Res.state (launchBody f c s)).mem = s.mem := by
  unfold launchBody; split <;> simp
@[simp] theorem addJoiner_mem (s : State) (p ctx g : Nat) (j : Joiner) : (s.addJoiner p ctx g j).mem = s.mem := rfl
@[simp] theorem dropJoiner_mem (s : State) (p ctx g : Nat) (j : Joiner) : (s.dropJoiner p ctx g j).mem = s.mem := rfl
@[simp] theorem joinPotBody_mem (s : State) (f : LFmt) (c : Cx) : (Res.state (joinPotBody f c s)).mem = s.mem := by
  simp only [joinPotBody]
  repeat' split
  all_goals simp
@[simp] theorem joinBody_mem (s : State) (f : LFmt) (c : Cx) : (Res.state (joinBody f c s)).mem = s.mem := by
  unfold joinBody; split <;> simp
@[simp] theorem answerJoin_mem (s : State) (w : Who) (tid : Nat) (v : Dword) : (s.answerJoin w tid v).mem = s.mem := by
  simp [State.answerJoin]
@[simp] theorem reduceBody_mem (s : State) (f : LFmt) (c : Cx) : (Res.state (reduceBody f c s)).mem = s.mem := by
  simp only [reduceBody]
  repeat' split
  all_goals simp

/-! Machine/Arms. -/

@[simp] theorem armOver_mem (s : State) (p : PendArm) (st handle : Nat) : (s.armOver p st handle).mem = s.mem := by
  simp only [State.armOver]
  repeat' split
  all_goals simp
@[simp] theorem attemptArm_mem (s : State) (id : Nat) : (s.attemptArm id).mem = s.mem := by
  simp only [State.attemptArm]
  repeat' split
  all_goals simp
@[simp] theorem armBody_mem (s : State) (f : LFmt) (c : Cx) : (Res.state (armBody f c s)).mem = s.mem := by
  simp only [armBody]
  repeat' split
  all_goals simp
@[simp] theorem missArm_mem (s : State) (d n : Nat) : (s.missArm d n).mem = s.mem := rfl
@[simp] theorem fireArm_mem (s : State) (d e : Nat) (a : Arm) (img : Image) : (s.fireArm d e a img).mem = s.mem := by
  simp [State.fireArm]
@[simp] theorem execArmTimeFire_mem (s : State) (d e : Nat) : (nextOr s (execArmTimeFire d e s)).mem = s.mem := by
  simp only [execArmTimeFire]
  repeat' split
  all_goals simp
@[simp] theorem tagMessage_mem (s : State) (ctx : Nat) (tag : BitVec 32) (payload : Dword) :
    (s.tagMessage ctx tag payload).1.mem = s.mem := by
  simp only [State.tagMessage]
  repeat' split
  all_goals simp
@[simp] theorem execArmTagFire_mem (s : State) (ctx : Nat) (tag : BitVec 32) (payload : BitVec 64) :
    (nextOr s (execArmTagFire ctx tag payload s)).mem = s.mem := by
  simp [execArmTagFire]

end Sys2Proof.Proofs
end

-- Proofs: memory under the array, control registers and debugging (O59)
section
/-! Memory under the array, the control registers, debugging, and the records of the stockpots. -/
namespace Sys2Proof.Proofs

open Sys2Proof Sys2Proof.Machine Sys2Proof.Laws

/-! Machine/Matrix. -/

@[simp] theorem handRow_mem (s : State) (core : Nat) (o : ArrOp) (loc : Loc) (bs : List Byte) (bar : Option BarKey) :
    (s.handRow core o loc bs bar).mem = s.mem := rfl
@[simp] theorem stepState_next (s t : State) (o : ArrOp) (n : Nat) : Step.state s (Step.next t o n) = t := by
  simp only [Step.next]; split <;> rfl
@[simp] theorem mulStep_mem (s : State) (core : Nat) (o : ArrOp) (op : Nat) (f : XFmt) :
    (Step.state s (s.mulStep core o op f)).mem = s.mem := by
  unfold State.mulStep
  extract_lets c t kk ty aty i fresh wa wb pa pb slot usable rows cols old z put sc
  have hput (g : List (List Nat)) (fl : Nat) : (Step.state s (put g fl)).mem = s.mem := by simp [put]
  clear_value rows cols put
  split
  · rfl
  · cases rows with
    | hold => rfl
    | pois => cases cols <;> rfl
    | ok =>
      cases cols with
      | hold | pois => rfl
      | ok =>
        dsimp only
        split
        · rfl
        · split
          · exact hput _ _
          · exact hput _ _
@[simp] theorem hldStep_mem (s : State) (core : Nat) (o : ArrOp) (f : XFmt) :
    (Step.state s (s.hldStep core o f)).mem = s.mem := by
  simp only [State.hldStep]
  repeat' split
  all_goals simp
@[simp] theorem zldStep_mem (s : State) (core : Nat) (o : ArrOp) (f : XFmt) (space : Nat) :
    (Step.state s (s.zldStep core o f space)).mem = s.mem := by
  unfold State.zldStep
  extract_lets a kind p
  split
  · split <;> simp
  · split
    · rfl
    · rfl
    · extract_lets ws
      split
      · rfl
      · simp
@[simp] theorem zstStep_mem (s : State) (core : Nat) (o : ArrOp) (f : XFmt) (space : Nat) :
    (Step.state s (s.zstStep core o f space)).mem = s.mem := by
  unfold State.zstStep
  extract_lets c kind p bar t bs
  split
  · simp
  · split
    · simp
    · split <;> simp
@[simp] theorem zepiStep_mem (s : State) (core : Nat) (o : ArrOp) (f : XFmt) (space : Nat) :
    (Step.state s (s.zepiStep core o f space)).mem = s.mem := by
  unfold State.zepiStep
  extract_lets c t ty rb p
  split <;> simp
@[simp] theorem enqueue_mem (s : State) (c : Cx) (i : Instr) (sa sb : Dword) (va vb : List Word) :
    (Res.state (c.enqueue i sa sb va vb s)).mem = s.mem := by
  simp only [Cx.enqueue]
  repeat' split
  all_goals simp
@[simp] theorem arrIssue_mem (s : State) (c : Cx) (i : Instr) (bar : Option Nat) (fs : List Foot) (sa sb : Dword)
    (va vb : List Word) :
    (Res.state (c.arrIssue i bar fs sa sb va vb s)).mem = s.mem := by
  simp only [Cx.arrIssue]
  repeat' split
  all_goals simp

/-! Machine/Csr. -/

@[simp] theorem writeBarCfg_mem (s : State) (k : BarKey) (v : Dword) : (stateOr s (s.writeBarCfg k v)).mem = s.mem := by
  simp only [State.writeBarCfg]
  repeat' split
  all_goals simp
/-- A write of a control register keeps memory canonical: TRCTL and TRRD may store a record of lost ones (R281). -/
@[simp] theorem csrWrite_wf {s : State} {w : Who} {u : Issuer} {num : Nat} {js : List Nat} {val : Nat → Dword} {v : Dword}
    (h : s.mem.wf = true) : (stateOr s (s.csrWrite w u num js val v)).mem.wf = true := by
  have hbar (k : BarKey) : (stateOr s (match s.writeBarCfg k v with
      | .inl i => .inl (0x42, i)
      | .inr s => .inr s)).mem.wf = true := by
    have hk := writeBarCfg_mem s k v
    cases e : s.writeBarCfg k v <;> simp_all
  have hput (f : Issuer → Issuer) : (stateOr s (.inr (s.updIssuer w f) : (Nat × Nat) ⊕ State)).mem.wf = true := by simpa using h
  have hprobe (n : Nat) (f : Probe → Probe) : (stateOr s (.inr (s.updProbe n f) : (Nat × Nat) ⊕ State)).mem.wf = true := by
    simpa using h
  have htrace (n : Nat) (f : Probe → Probe) :
      (stateOr s (.inr ((s.updProbe n f).lostRec n) : (Nat × Nat) ⊕ State)).mem.wf = true := by simp [h]
  unfold State.csrWrite
  extract_lets put num'
  iterate 7 refine wf_stateOr_ite (hput _) ?_
  split
  · exact wf_stateOr_ite h (wf_stateOr_ite h (hbar _))
  split
  · exact h
  refine wf_stateOr_ite (hput _) (wf_stateOr_ite (wf_stateOr_ite (hput _) h) (wf_stateOr_ite (hput _) ?_))
  split
  · exact h
  next n b _ =>
    refine wf_stateOr_ite (by simpa using h) (wf_stateOr_ite (hbar _) ?_)
    iterate 2 refine wf_stateOr_ite (hprobe _ _) ?_
    refine wf_stateOr_ite (wf_stateOr_ite h (htrace _ _)) (wf_stateOr_ite (wf_stateOr_ite h (hprobe _ _)) ?_)
    refine wf_stateOr_ite (htrace _ _) ?_
    iterate 2 refine wf_stateOr_ite (hprobe _ _) ?_
    exact wf_stateOr_ite (by simpa using h) h
/-- A write of a control register that is taken keeps memory canonical. -/
theorem wf_of_csrWrite {s t : State} {w : Who} {u : Issuer} {num : Nat} {js : List Nat} {val : Nat → Dword} {v : Dword}
    (h : s.mem.wf = true) (e : s.csrWrite w u num js val v = .inr t) : t.mem.wf = true := by
  have ht := csrWrite_wf (w := w) (u := u) (num := num) (js := js) (val := val) (v := v) h
  rwa [e] at ht
@[simp] theorem execHctlClr_mem (s : State) (core : Nat) : (nextOr s (execHctlClr core s)).mem = s.mem := rfl
@[simp] theorem execLogctlDrop_mem (s : State) (core gid : Nat) : (nextOr s (execLogctlDrop core gid s)).mem = s.mem := by
  simp [execLogctlDrop]

/-! Machine/Factor. -/

@[simp] theorem factStep_mem (s : State) (core : Nat) (o : ArrOp) (op : Nat) (f : XFmt) :
    (Step.state s (s.factStep core o op f)).mem = s.mem := by
  unfold State.factStep
  extract_lets c ty t ta p up unit trans n a npd rd pair pois w0 o' fin stat r0 keep order r k src o''
  have hkeep (r : FactOut) : (keep r).1.mem = s.mem := updCore_mem ..
  have hk : k.1.mem = s.mem := hkeep r
  clear_value pois k
  split
  · rfl
  · split
    · split
      · rfl
      · exact hkeep _
      · exact hkeep _
    · split
      · split
        · exact hk
        · exact hk
      · split
        · exact hk
        · split
          · exact hk
          · split
            · exact hk
            · exact hk
@[simp] theorem factIssue_mem (s : State) (c : Cx) (i : Instr) (op : Nat) (f : XFmt) (va vb : List Word) :
    (Res.state (c.factIssue i op f va vb s)).mem = s.mem := by
  simp only [Cx.factIssue]
  repeat' split
  all_goals simp
@[simp] theorem stepOp_mem (s : State) (core : Nat) (o : ArrOp) : (Step.state s (s.stepOp core o)).mem = s.mem := by
  simp only [State.stepOp]
  repeat' split
  all_goals simp
@[simp] theorem arrReturn_mem (s : State) (o : ArrOp) (ts : List (Nat × Tgt)) : (s.arrReturn o ts).mem = s.mem := by
  simp [State.arrReturn]
@[simp] theorem arrCount_mem (s : State) (w : Who) : (s.arrCount w).mem = s.mem := by
  simp [State.arrCount]
@[simp] theorem arrLeave_mem (s : State) (core : Nat) (o : ArrOp) : (s.arrLeave core o).mem = s.mem := rfl
@[simp] theorem arrComplete_mem (s : State) (core : Nat) (o : ArrOp) (ts : List (Nat × Tgt)) :
    (s.arrComplete core o ts).mem = s.mem := by
  simp [State.arrComplete]
@[simp] theorem arrFault_mem (s : State) (core : Nat) (o : ArrOp) (cause : Nat) (tval : Dword) (full : Bool)
    (ts : List (Nat × Tgt)) :
    (s.arrFault core o cause tval full ts).mem = s.mem := by
  simp [State.arrFault]
@[simp] theorem execArrayStep_mem (s : State) (core : Nat) : (nextOr s (execArrayStep core s)).mem = s.mem := by
  unfold execArrayStep
  split
  · rfl
  · split
    · rfl
    next o _ =>
      split
      · rfl
      · extract_lets put
        have hstep := stepOp_mem s core { o with started := true }
        have hput (t : State) (p : ArrOp) : (put t p).mem = t.mem := updCore_mem ..
        split
        · rfl
        next e => rw [e] at hstep; exact (hput _ _).trans hstep
        next e =>
          rw [e] at hstep
          split
          · exact (hput _ _).trans hstep
          · exact (arrComplete_mem ..).trans hstep
        next e => rw [e] at hstep; exact (arrFault_mem ..).trans hstep
@[simp] theorem performRow_wf {s : State} {core row : Nat} (h : s.mem.wf = true) :
    (s.performRow core row).mem.wf = true := by
  simp only [State.performRow]
  repeat' split
  all_goals simp [h, storeFlat_wf]

/-! Machine/Debug. -/

@[simp] theorem priv_mem {c : Cx} {s : State} {body : State → Res} (hb : (Res.state (body s)).mem = s.mem) :
    (Res.state (c.priv s body)).mem = s.mem := by
  unfold Cx.priv; split
  · exact hb
  · rfl
theorem priv_wf {c : Cx} {s : State} {body : State → Res} (h : s.mem.wf = true) (hb : (Res.state (body s)).mem.wf = true) :
    (Res.state (c.priv s body)).mem.wf = true := by
  unfold Cx.priv; split
  · exact hb
  · exact h
@[simp] theorem record_wf {s : State} {c : Cx} {kind : Nat} {data : Dword} (h : s.mem.wf = true) :
    (Res.state (c.record kind data s)).mem.wf = true := by
  unfold Cx.record; split <;> simp [h]
@[simp] theorem dput_wf {s : State} {n : Nat} {me : Option Who} {d : DbgOp} {v : Dword} {lanes : Nat → Word} (h : s.mem.wf = true) :
    (s.dput n me d v lanes).2.mem.wf = true := by
  unfold State.dput
  split
  · exact h
  · extract_lets w b stopped ts
    split
    · exact h
    · split
      · split
        · exact h
        · simpa using h
      · split
        · split
          · exact h
          · exact wf_of_csrWrite h ‹_›
        · rw [apply_ite Prod.snd, apply_ite State.mem]
          simp [h]
@[simp] theorem streamGoes_mem (s : State) (w : Who) : (s.streamGoes w).mem = s.mem := by
  unfold State.streamGoes; split <;> rfl
@[simp] theorem drun_mem (s : State) (n : Nat) (me : Option Who) (d : DbgOp) : (s.drun n me d).2.mem = s.mem := by
  unfold State.drun; split <;> simp
theorem dstep_mem {s t : State} {n : Nat} {me : Option Who} {d : DbgOp} {w : Who} {tag sd : Nat} {sm : BitVec 8}
    (e : s.dstep n me d w tag sd sm = .inr t) : t.mem = s.mem := by
  unfold State.dstep at e
  split at e <;> cases e
  simp
@[simp] theorem answer_mem (s : State) (c : Cx) (f : DFmt) (a : DbgAns) (value : Bool) :
    (Res.state (c.answer f a value s)).mem = s.mem := by
  simp [Cx.answer]
@[simp] theorem updPort_mem (s : State) (n : Nat) (f : DebugPort → DebugPort) : (s.updPort n f).mem = s.mem := rfl
@[simp] theorem portDone_mem (s : State) (n st : Nat) (v : Option Dword) (lanes : List (Nat × Word)) :
    (s.portDone n st v lanes).mem = s.mem := by
  unfold State.portDone; split <;> rfl
@[simp] theorem portOp_mem {s : State} {n op : Nat} {body : State → State} (hb : (body s).mem = s.mem) :
    (s.portOp n op body).mem = s.mem := by
  simp only [State.portOp]
  repeat' split
  all_goals simp [hb]
theorem portOp_wf {s : State} {n op : Nat} {body : State → State} (h : s.mem.wf = true) (hb : (body s).mem.wf = true) :
    (s.portOp n op body).mem.wf = true := by
  simp only [State.portOp]
  repeat' split
  all_goals simp [h, hb]
@[simp] theorem execPortDget_mem (s : State) (core : Nat) : (nextOr s (execPortDget core s)).mem = s.mem := by
  simp [execPortDget]
@[simp] theorem execPortDput_wf {s : State} {core : Nat} (h : s.mem.wf = true) :
    (nextOr s (execPortDput core s)).mem.wf = true := by
  rw [execPortDput, nextOr_next]
  refine portOp_wf h ?_
  simp [h]
@[simp] theorem execPortDstep_mem (s : State) (core : Nat) : (nextOr s (execPortDstep core s)).mem = s.mem := by
  rw [execPortDstep, nextOr_next]
  refine portOp_mem ?_
  split
  · simp
  next e => exact dstep_mem e
@[simp] theorem execPortDrun_mem (s : State) (core : Nat) : (nextOr s (execPortDrun core s)).mem = s.mem := by
  simp [execPortDrun]
@[simp] theorem execPortDstat_mem (s : State) (core : Nat) : (nextOr s (execPortDstat core s)).mem = s.mem := by
  simp [execPortDstat]
@[simp] theorem execPortBadop_mem (s : State) (core : Nat) : (nextOr s (execPortBadop core s)).mem = s.mem := by
  simp only [execPortBadop]
  repeat' split
  all_goals simp
@[simp] theorem execSample_wf {s : State} {core : Nat} (h : s.mem.wf = true) :
    (nextOr s (execSample core s)).mem.wf = true := by
  simp only [execSample]
  repeat' split
  all_goals simp [h]
@[simp] theorem coreCycle_mem (s : State) (core : Nat) (issued : List (Who × Nat)) :
    (s.coreCycle core issued).mem = s.mem := rfl
@[simp] theorem execCoreCycle_mem (s : State) (core : Nat) (issued : List (Who × Nat)) :
    (nextOr s (execCoreCycle core issued s)).mem = s.mem := by
  unfold execCoreCycle; split <;> rfl

/-! Machine/Records. -/

@[simp] theorem takeCluster_mem (s : State) (ctx c : Nat) : (s.takeCluster ctx c).mem = s.mem := by
  unfold State.takeCluster; split <;> rfl
@[simp] theorem takeDie_mem (s : State) (ctx d : Nat) : (s.takeDie ctx d).mem = s.mem := by
  simp [State.takeDie]
@[simp] theorem dropRec_mem (s : State) (p n : Nat) : (s.dropRec p n).mem = s.mem := rfl
@[simp] theorem transfer_mem (s : State) (p n q : Nat) : (s.transfer p n q).mem = s.mem := by
  simp only [State.transfer]
  repeat' split
  all_goals simp
@[simp] theorem placeBlock_mem (s : State) (p n : Nat) (r : Rec) (core slot : Nat) :
    (s.placeBlock p n r core slot).mem = s.mem := by
  simp [State.placeBlock]
@[simp] theorem placeSeq_mem (s : State) (p n : Nat) (r : Rec) (w : Who) : (s.placeSeq p n r w).mem = s.mem := by
  unfold State.placeSeq; split <;> simp
@[simp] theorem performStop_wf {s : State} {id : Nat} (h : s.mem.wf = true) : (s.performStop id).mem.wf = true := by
  simp only [State.performStop]
  repeat' split
  all_goals simp [h, pkgStore_wf]
@[simp] theorem performStops_wf {s : State} (h : s.mem.wf = true) : s.performStops.mem.wf = true :=
  foldl_wf (fun _ _ ht => performStop_wf ht) _ h
@[simp] theorem storeStop_wf {s : State} {seq v : Nat} (h : s.mem.wf = true) : (s.storeStop seq v).mem.wf = true := by
  simp only [State.storeStop]
  repeat' split
  all_goals simp [h]
@[simp] theorem startCollectives_wf {s : State} {r : Rec} (h : s.mem.wf = true) : (s.startCollectives r).mem.wf = true := by
  unfold State.startCollectives
  split
  · exact h
  · refine foldl_wf (fun t q ht => ?_) _ h
    split
    · exact ht
    · split
      · exact ht
      · exact storeStop_wf ht
@[simp] theorem leaveIdle_mem (s : State) : s.leaveIdle.mem = s.mem := rfl
@[simp] theorem execDispatch_wf {s : State} {p : Nat} (h : s.mem.wf = true) :
    (nextOr s (execDispatch p s)).mem.wf = true := by
  simp only [execDispatch]
  repeat' split
  all_goals simp [h]
@[simp] theorem retireRec_wf {s : State} {p n : Nat} {st : BitVec 32} {bad : Bool} (h : s.mem.wf = true) :
    (s.retireRec p n st bad).mem.wf = true := by
  unfold State.retireRec
  extract_lets err
  split
  · exact h
  · extract_lets s2 s3 s4
    have h2 : s2.mem.wf = true := foldl_wf (fun t g ht => by simp only; split <;> simpa using ht) _
      (by simpa +zetaDelta using h)
    have h3 : s3.mem.wf = true := foldl_wf (fun t q ht => by simpa using ht) _ h2
    have h4 : s4.mem.wf = true := by
      simp only [s4]
      split
      · exact foldl_wf (fun t q ht => storeStop_wf ht) _ h3
      · exact h3
    simpa using h4
@[simp] theorem freeBlock_mem (s : State) (core slot : Nat) : (s.freeBlock core slot).mem = s.mem := by
  simp [State.freeBlock]
@[simp] theorem failStart_wf {s : State} {p n : Nat} (h : s.mem.wf = true) : (s.failStart p n).mem.wf = true := by
  simp only [State.failStart]
  repeat' split
  all_goals simp [h]
@[simp] theorem execRecordStart_wf {s : State} {p n : Nat} (h : s.mem.wf = true) :
    (nextOr s (execRecordStart p n s)).mem.wf = true := by
  simp only [execRecordStart]
  repeat' split
  all_goals simp [h]
@[simp] theorem execRecordRetire_wf {s : State} {p n : Nat} (h : s.mem.wf = true) :
    (nextOr s (execRecordRetire p n s)).mem.wf = true := by
  simp only [execRecordRetire]
  repeat' split
  all_goals simp [h]
@[simp] theorem execBlockRetire_wf {s : State} {core slot : Nat} (h : s.mem.wf = true) :
    (nextOr s (execBlockRetire core slot s)).mem.wf = true := by
  simp only [execBlockRetire]
  repeat' split
  all_goals simp [h]
@[simp] theorem execInsert_mem (s : State) (id : Nat) : (nextOr s (execInsert id s)).mem = s.mem := by
  unfold execInsert; split <;> simp
@[simp] theorem execStockpotRetry_mem (s : State) (id : Nat) : (nextOr s (execStockpotRetry id s)).mem = s.mem := by
  unfold execStockpotRetry; split <;> simp

end Sys2Proof.Proofs
end

-- Proofs: memory under messages, dies and contexts (O59)
section
/-! Memory under messages, fetches, dies, contexts, and the bodies of control, scalar and floating-point instructions. -/
namespace Sys2Proof.Proofs

open Sys2Proof Sys2Proof.Machine Sys2Proof.Laws

/-! Machine/Fabric. -/

@[simp] theorem updLink_mem (s : State) (n : Nat) (f : Port → Port) : (s.updLink n f).mem = s.mem := rfl
@[simp] theorem noteCuts_mem (s : State) : s.noteCuts.mem = s.mem := by
  simp [State.noteCuts]
@[simp] theorem reroute_mem (s : State) : s.reroute.mem = s.mem := by
  simp [State.reroute]
@[simp] theorem portDown_mem (s : State) (n reason : Nat) : (s.portDown n reason).mem = s.mem := by
  simp [State.portDown]
@[simp] theorem trainFailed_mem (s : State) (n : Nat) : (s.trainFailed n).mem = s.mem := by
  simp [State.trainFailed]
@[simp] theorem execPortEnable_mem (s : State) (n : Nat) : (nextOr s (execPortEnable n s)).mem = s.mem := by
  unfold execPortEnable; split <;> rfl
@[simp] theorem execPortDisable_mem (s : State) (n : Nat) : (nextOr s (execPortDisable n s)).mem = s.mem := by
  unfold execPortDisable; split <;> simp
@[simp] theorem execDetect_mem (s : State) (n : Nat) (found : Bool) : (nextOr s (execDetect n found s)).mem = s.mem := by
  simp only [execDetect]
  repeat' split
  all_goals simp
@[simp] theorem execLinkUp_mem (s : State) (n : Nat) (v : LinkView) : (nextOr s (execLinkUp n v s)).mem = s.mem := by
  simp only [execLinkUp]
  repeat' split
  all_goals simp
@[simp] theorem execTrainingTimeout_mem (s : State) (n : Nat) : (nextOr s (execTrainingTimeout n s)).mem = s.mem := by
  simp only [execTrainingTimeout]
  repeat' split
  all_goals simp
@[simp] theorem execRetrain_mem (s : State) (n : Nat) : (nextOr s (execRetrain n s)).mem = s.mem := by
  unfold execRetrain; split <;> simp
@[simp] theorem execFabidWrite_mem (s : State) (v : BitVec 64) : (nextOr s (execFabidWrite v s)).mem = s.mem := by
  simp [execFabidWrite]
@[simp] theorem execMessageRelay_mem (s : State) (m : Msg) : (nextOr s (execMessageRelay m s)).mem = s.mem := by
  simp only [execMessageRelay]
  repeat' split
  all_goals simp
@[simp] theorem takeSent_mem (s : State) (m : Msg) : (s.takeSent m).mem = s.mem := rfl
theorem screen_mem {s t : State} {m : Msg} (e : s.screen m = some t) : t.mem = s.mem := by
  unfold State.screen at e
  repeat' split at e
  all_goals cases e
  all_goals simp
@[simp] theorem refuseReq_mem (s : State) (m : Msg) (ctx st : Nat) : (s.refuseReq m ctx st).mem = s.mem := by
  simp [State.refuseReq]
@[simp] theorem serveOne_wf {s : State} {m : Msg} {key pa k : Nat} (h : s.mem.wf = true) :
    (s.serveOne m key pa k).1.mem.wf = true := by
  simp only [State.serveOne]
  repeat' split
  all_goals simp [h, pkgStore_wf]
/-- What serves a request of a peer keeps memory canonical. -/
theorem serve_wf {s : State} {m : Msg} {ctx base : Nat} {r : State × List Byte} (h : s.mem.wf = true)
    (e : s.serve m ctx base = .ok r) : r.1.mem.wf = true := by
  unfold State.serve at e
  extract_lets n at_ pas r' covered at e
  have hr : r'.1.mem.wf = true :=
    List.foldlRecOn (motive := fun x : State × List Byte => x.1.mem.wf = true) _ _ h fun x hx p _ => serveOne_wf hx
  split at e
  · cases e
  · split at e
    · cases e
    · split at e
      · cases e
      · cases e
        simp only
        split
        · exact foldl_wf (fun t p ht => by split <;> simpa using ht) _ hr
        · exact hr
@[simp] theorem serveReq_wf {s : State} {m : Msg} {x : Export} (h : s.mem.wf = true) : (s.serveReq m x).mem.wf = true := by
  unfold State.serveReq
  split
  · simpa using h
  · split
    · exact h
    · simpa using h
    · simpa using serve_wf h ‹_›
@[simp] theorem execRemoteRequest_wf {s : State} {m : Msg} (h : s.mem.wf = true) :
    (nextOr s (execRemoteRequest m s)).mem.wf = true := by
  unfold execRemoteRequest
  extract_lets t
  have ht : t.mem.wf = true := by simpa [t] using h
  split
  · exact ht
  · split
    next e => simpa [screen_mem e] using ht
    · split
      · simp only [nextOr_next]
        split
        · simpa using ht
        · simpa using ht
      · exact serveReq_wf ht
@[simp] theorem serveHeld_wf {s : State} {id : Nat} (h : s.mem.wf = true) : (s.serveHeld id).mem.wf = true := by
  unfold State.serveHeld
  split
  · exact h
  · simp only
    split
    · exact h
    · simpa using h
    · simpa using serve_wf h ‹_›
@[simp] theorem denyHeld_mem (s : State) (id : Nat) : (s.denyHeld id).mem = s.mem := by
  unfold State.denyHeld; split <;> simp
@[simp] theorem execFxrevoke_mem (s : State) (e : Nat) : (nextOr s (execFxrevoke e s)).mem = s.mem := by
  unfold execFxrevoke; split <;> rfl
@[simp] theorem execRemoteInsert_wf {s : State} {m : Msg} (h : s.mem.wf = true) :
    (nextOr s (execRemoteInsert m s)).mem.wf = true := by
  unfold execRemoteInsert
  extract_lets t
  have ht : t.mem.wf = true := by simpa [t] using h
  split
  · exact ht
  · split
    next e => simpa [screen_mem e] using ht
    · split
      · simpa using ht
      · split
        · simpa using ht
        · split
          · simpa using ht
          · simpa +zetaDelta using h
@[simp] theorem execRemoteJoin_wf {s : State} {m : Msg} (h : s.mem.wf = true) :
    (nextOr s (execRemoteJoin m s)).mem.wf = true := by
  unfold execRemoteJoin
  extract_lets t
  have ht : t.mem.wf = true := by simpa [t] using h
  split
  · exact ht
  · split
    next e => simpa [screen_mem e] using ht
    · split
      · simpa using ht
      · simpa using ht
@[simp] theorem dropReq_mem (s : State) (tid : Nat) : (s.dropReq tid).mem = s.mem := rfl
@[simp] theorem sendResults_mem (s : State) (r : Rec) :
    (s.sendResults r).mem = s.mem := foldl_mem (fun t _ => sendMsg_mem t _) _ s
@[simp] theorem testRoot_mem (s : State) (n want : Nat) : (s.testRoot n want).mem = s.mem := by
  unfold State.testRoot; split <;> simp
@[simp] theorem execReductionPartial_wf {s : State} {m : Msg} (h : s.mem.wf = true) :
    (nextOr s (execReductionPartial m s)).mem.wf = true := by
  unfold execReductionPartial
  extract_lets t
  have ht : t.mem.wf = true := by simpa [t] using h
  split
  · exact ht
  · split
    next e => simpa [screen_mem e] using ht
    · split
      · simpa using ht
      · split
        · simpa using ht
        · split
          · simpa using ht
          · simpa using ht
@[simp] theorem execReductionResult_wf {s : State} {m : Msg} (h : s.mem.wf = true) :
    (nextOr s (execReductionResult m s)).mem.wf = true := by
  unfold execReductionResult
  extract_lets t
  have ht : t.mem.wf = true := by simpa [t] using h
  split
  · exact ht
  · split
    next e => simpa [screen_mem e] using ht
    · split
      · exact ht
      · simpa using ht
@[simp] theorem answerInsert_mem (s : State) (id : Nat) (resp : Msg) : (s.answerInsert id resp).mem = s.mem := by
  simp only [State.answerInsert]
  repeat' split
  all_goals simp
@[simp] theorem answerReq_wf {s : State} {r : Req} {resp : Msg} (h : s.mem.wf = true) :
    (s.answerReq r resp).mem.wf = true := by
  simp only [State.answerReq]
  repeat' split
  all_goals simp [h]
@[simp] theorem execRemoteResponse_wf {s : State} {m : Msg} (h : s.mem.wf = true) :
    (nextOr s (execRemoteResponse m s)).mem.wf = true := by
  unfold execRemoteResponse
  extract_lets t
  have ht : t.mem.wf = true := by simpa [t] using h
  split
  · exact ht
  · split
    next e => simpa [screen_mem e] using ht
    · split
      · exact ht
      · exact answerReq_wf ht
@[simp] theorem endCut_mem (s : State) (tid : Nat) : (s.endCut tid).mem = s.mem := by
  unfold State.endCut; split <;> simp
@[simp] theorem execResponseTimeout_wf {s : State} {tid : Nat} (h : s.mem.wf = true) :
    (nextOr s (execResponseTimeout tid s)).mem.wf = true := by
  simp only [execResponseTimeout]
  repeat' split
  all_goals simp [h]
@[simp] theorem resend_wf {s : State} {r : Req} (h : s.mem.wf = true) : (s.resend r).mem.wf = true := by
  simp only [State.resend]
  repeat' split
  all_goals simp [h]
@[simp] theorem execRetryResend_wf {s : State} {tid : Nat} (h : s.mem.wf = true) :
    (nextOr s (execRetryResend tid s)).mem.wf = true := by
  simp only [execRetryResend]
  repeat' split
  all_goals simp [h]
@[simp] theorem execRemoteInsertResend_wf {s : State} {tid : Nat} (h : s.mem.wf = true) :
    (nextOr s (execRemoteInsertResend tid s)).mem.wf = true := by
  simp only [execRemoteInsertResend]
  repeat' split
  all_goals simp [h]

/-! Machine/Fetch. -/

@[simp] theorem prospect_mem (s : State) (w : Who) (e : Nat) : (Plan.state s (s.prospect w e)).mem = s.mem := by
  unfold State.prospect
  split
  · rfl
  · extract_lets f t ill chk cur
    split
    · rfl
    · split
      · rfl
      · clear_value chk
        cases chk with
        | wait => rfl
        | bad => exact dropLine_mem ..
        | ok =>
          dsimp only
          split
          · rfl
          · split
            · rfl
            · split <;> rfl
@[simp] theorem plan_mem (s : State) (w : Who) (e : Nat) : (Plan.state s (s.plan w e)).mem = s.mem := by
  unfold State.plan
  split
  · rfl
  · split
    · rfl
    · exact prospect_mem ..
@[simp] theorem trapAt_wf {s : State} {w : Who} {e : Nat} {t : TrapReq} (h : s.mem.wf = true) :
    (s.trapAt w e t).mem.wf = true := by
  unfold State.trapAt; split <;> simp [h]
@[simp] theorem pairBegun_mem (s : State) (cur : Cur) (a b : Instr) : (s.pairBegun cur a b).mem = s.mem := by
  unfold State.pairBegun
  split
  · rfl
  next u _ =>
    split
    next t e =>
      have ht := prologue_mem s cur.who u cur [(a, cur.pc), (b, Pc.advance cur.pc 1)]
      rw [e] at ht
      exact ht
    · rfl
@[simp] theorem passTime_mem (s : State) (cycles ns : Nat) : (s.passTime cycles ns).mem = s.mem := rfl

/-! Machine/Die. -/

@[simp] theorem execLineFetch_mem (s : State) (pl : Place) (ctx line : Nat) :
    (nextOr s (execLineFetch pl ctx line s)).mem = s.mem := by
  simp only [execLineFetch]
  repeat' split
  all_goals simp
@[simp] theorem performSignal_wf {s : State} {seq : Nat} (h : s.mem.wf = true) : (s.performSignal seq).mem.wf = true := by
  simp only [State.performSignal]
  repeat' split
  all_goals simp [h, pkgStore_wf]
@[simp] theorem reportFault_wf {s : State} {d e : Nat} (h : s.mem.wf = true) : (s.reportFault d e).mem.wf = true := by
  simp only [State.reportFault]
  repeat' split
  all_goals simp [h, sysStore_wf]
@[simp] theorem newFault_wf {s : State} {d ctx page kb : Nat} {r : Requester} (h : s.mem.wf = true) :
    (s.newFault d ctx page kb r).mem.wf = true := by
  simp only [State.newFault]
  repeat' split
  all_goals simp [h]
@[simp] theorem freeFault_wf {s : State} {d e : Nat} (h : s.mem.wf = true) : (s.freeFault d e).mem.wf = true := by
  simp only [State.freeFault]
  split
  · exact h
  · exact foldl_wf (fun t x ht => newFault_wf ht) _ (newFault_wf h)
@[simp] theorem goOn_wf {s : State} {r : Requester} (h : s.mem.wf = true) : (s.goOn r).mem.wf = true := by
  unfold State.goOn; split <;> simp [h]
@[simp] theorem walkFor_wf {s : State} {d ctx page kind : Nat} {r : Requester} (h : s.mem.wf = true) :
    (s.walkFor d ctx page kind r).mem.wf = true := by
  unfold State.walkFor
  split
  · exact goOn_wf h
  · split
    · exact h
    · extract_lets s1 s2
      have h1 : s1.mem.wf = true := by simp only [s1]; split <;> simpa using h
      have h2 : s2.mem.wf = true := by
        simp only [s2]
        repeat' split
        all_goals simpa using h1
      exact newFault_wf h2
@[simp] theorem askWalk_wf {s : State} {d ctx page kind : Nat} {r : Requester} (h : s.mem.wf = true) :
    (s.askWalk d ctx page kind r).mem.wf = true := by
  simp only [State.askWalk]
  repeat' split
  all_goals simp [h]
@[simp] theorem execWalk_wf {s : State} {d ctx page kind : Nat} {r : Requester} (h : s.mem.wf = true) :
    (nextOr s (execWalk d ctx page kind r s)).mem.wf = true := by
  simp only [execWalk]
  repeat' split
  all_goals simp [h]
@[simp] theorem staleFid_mem (s : State) (d : Nat) : (s.staleFid d).mem = s.mem := rfl
@[simp] theorem fillFault_wf {s : State} {d : Nat} {fid : BitVec 32} (h : s.mem.wf = true) :
    (s.fillFault d fid).mem.wf = true := by
  unfold State.fillFault
  split
  · simpa using h
  · exact foldl_wf (fun t r ht => askWalk_wf ht) _ (freeFault_wf h)
@[simp] theorem denyOne_wf {s : State} {ctx page kind : Nat} {r : Requester} (h : s.mem.wf = true) :
    (s.denyOne ctx page kind r).mem.wf = true := by
  simp only [State.denyOne]
  repeat' split
  all_goals simp [h]
@[simp] theorem denyFault_wf {s : State} {d : Nat} {fid : BitVec 32} (h : s.mem.wf = true) :
    (s.denyFault d fid).mem.wf = true := by
  unfold State.denyFault
  split
  · simpa using h
  · refine foldl_wf (fun t r ht => ?_) _ (freeFault_wf h)
    split
    · exact denyOne_wf ht
    · exact ht
@[simp] theorem execFill_wf {s : State} {d : Nat} {fid : BitVec 32} (h : s.mem.wf = true) :
    (nextOr s (execFill d fid s)).mem.wf = true := by
  unfold execFill; split <;> simp [h]
@[simp] theorem execDeny_wf {s : State} {d : Nat} {fid : BitVec 32} (h : s.mem.wf = true) :
    (nextOr s (execDeny d fid s)).mem.wf = true := by
  unfold execDeny; split <;> simp [h]
@[simp] theorem resolve_wf {s : State} {d : Nat} {lo : Dword} (h : s.mem.wf = true) : (s.resolve d lo).mem.wf = true := by
  simp only [State.resolve]
  repeat' split
  all_goals simp [h]
@[simp] theorem invalidate_mem (s : State) (p : Tlb → Bool) : (s.invalidate p).mem = s.mem :=
  foldl_mem (fun t d => updDie_mem t d _) _ s
@[simp] theorem execTinvRange_mem (s : State) (ctx : Nat) (va : BitVec 64) (len : Nat) :
    (nextOr s (execTinvRange ctx va len s)).mem = s.mem := rfl
@[simp] theorem execTinvContext_mem (s : State) (ctx : Nat) : (nextOr s (execTinvContext ctx s)).mem = s.mem := rfl
@[simp] theorem execTinvAll_mem (s : State) : (nextOr s (execTinvAll s)).mem = s.mem := rfl
@[simp] theorem tinv_mem (s : State) (lo hi : Dword) : (s.tinv lo hi).mem = s.mem := by
  simp [State.tinv]
@[simp] theorem execElpop_mem (s : State) (d : Nat) : (nextOr s (execElpop d s)).mem = s.mem := by
  unfold execElpop; split <;> rfl
@[simp] theorem scCommand_mem (s : State) (d : Nat) (dies : Bool) (src dst k : Nat) :
    (s.scCommand d dies src dst k).mem = s.mem := rfl
@[simp] theorem execScalesPeriod_mem (s : State) (d : Nat) (dies : Bool) :
    (nextOr s (execScalesPeriod d dies s)).mem = s.mem := by
  simp only [execScalesPeriod]
  repeat' split
  all_goals simp
@[simp] theorem sccmd_mem (s : State) (d : Nat) (v : Dword) : (s.sccmd d v).mem = s.mem := by
  simp [State.sccmd]
@[simp] theorem execSccmd_mem (s : State) (d : Nat) (v : BitVec 64) : (nextOr s (execSccmd d v s)).mem = s.mem := by
  unfold execSccmd; split <;> simp
@[simp] theorem execMigration_mem (s : State) (d : Nat) (dies : Bool) : (nextOr s (execMigration d dies s)).mem = s.mem := by
  simp only [execMigration]
  repeat' split
  all_goals simp

/-! Machine/Context. -/

@[simp] theorem updQueue_mem (s : State) (q : Nat) (f : Queue → Queue) : (s.updQueue q f).mem = s.mem := rfl
@[simp] theorem complete_wf {s : State} {q seq : Nat} {bs : List Byte} (h : s.mem.wf = true) :
    (s.complete q seq bs).mem.wf = true := by
  simp [State.complete, h, sysStore_wf]
@[simp] theorem dropIssuers_mem (s : State) (ws : List Who) : (s.dropIssuers ws).mem = s.mem := by
  refine (foldl_mem (fun t w => forgetMember_mem t w) ws _).trans ?_
  refine (foldl_mem (fun t w => ?_) ws _).trans (dropCopies_mem _ _)
  split
  · rfl
  · exact foldl_mem (fun t x => by split <;> simp) _ t
@[simp] theorem discardBlock_mem (s : State) (core slot : Nat) : (s.discardBlock core slot).mem = s.mem := by
  simp [State.discardBlock]
@[simp] theorem unrun_mem (s : State) (p n : Nat) : (s.unrun p n).mem = s.mem := rfl
@[simp] theorem flushBlock_mem (s : State) (core slot : Nat) : (s.flushBlock core slot).mem = s.mem := by
  unfold State.flushBlock; split <;> simp
@[simp] theorem testFree_mem (s : State) (n : Nat) : (s.testFree n).mem = s.mem := by
  simp [State.testFree]
@[simp] theorem finishFlush_mem (s : State) (n : Nat) : (s.finishFlush n).mem = s.mem := by
  simp [State.finishFlush]
@[simp] theorem execCopyPiece_wf {s : State} {id p m : Nat} (h : s.mem.wf = true) :
    (nextOr s (execCopyPiece id p m s)).mem.wf = true := by
  unfold execCopyPiece; split <;> simp [h]
@[simp] theorem execRowPerformed_wf {s : State} {core row : Nat} (h : s.mem.wf = true) :
    (nextOr s (execRowPerformed core row s)).mem.wf = true := by
  simp [execRowPerformed, h]
@[simp] theorem discardContext_wf {s : State} {ctx : Nat} (h : s.mem.wf = true) : (s.discardContext ctx).mem.wf = true := by
  refine foldl_wf (fun t d ht => foldl_wf (fun t f ht => freeFault_wf ht) _ ht) _ ?_
  simp only [dropCopies_mem, dropIssuers_mem]
  rw [foldl_mem (fun t c => foldl_mem (fun t b => by split <;> simp) _ t)]
  exact h
@[simp] theorem faultContext_wf {s : State} {ctx addr : Nat} (h : s.mem.wf = true) :
    (s.faultContext ctx addr).mem.wf = true := by
  simp only [State.faultContext]
  refine foldl_wf (fun t q ht => ?_) _ (by simp [h])
  split
  · exact complete_wf ht
  · exact ht

/-! Machine/Control. -/

@[simp] theorem forgetTarget_mem (s : State) (c : Cx) (t : Dword) : (s.forgetTarget c t).mem = s.mem := by
  unfold State.forgetTarget; split <;> rfl
/-- A transfer leaves memory where its other effect does. -/
theorem execTransfer_mem {op : Nat} {f : BFmt} {eff : Cx → List Nat → State → State} (he : ∀ c js s, (eff c js s).mem = s.mem)
    (c : Cx) (s : State) : (Res.state (transfer op f eff c s)).mem = s.mem := by
  unfold transfer
  extract_lets ts
  split
  · rfl
  · simp only [state_trap]
    split
    · rfl
    · simp
  · simp [he]
theorem plainTransfer_mem (op : Nat) (f : BFmt) (c : Cx) (s : State) : (Res.state (plainTransfer op f c s)).mem = s.mem :=
  execTransfer_mem (fun _ _ _ => rfl) c s
@[simp] theorem splitOff_mem (s : State) (c : Cx) : (c.splitOff s).mem = s.mem := by
  simp [Cx.splitOff]

/-! Machine/Scalar. -/

@[simp] theorem sInt_mem (s : State) (op : Int → Int → Int) (f : SFmt) (c : Cx) :
    (Res.state (sInt op f c s)).mem = s.mem := by
  simp [sInt]
@[simp] theorem sBits_mem (s : State) (op : Dword → Dword → Dword) (f : SFmt) (c : Cx) :
    (Res.state (sBits op f c s)).mem = s.mem := by
  simp [sBits]
@[simp] theorem sShift_mem (s : State) (op : Nat → Nat → Nat → Nat) (f : SFmt) (c : Cx) :
    (Res.state (sShift op f c s)).mem = s.mem := by
  simp [sShift]
@[simp] theorem sPlain_mem (s : State) (op : Nat → Nat → Dword) (f : SFmt) (c : Cx) :
    (Res.state (sPlain op f c s)).mem = s.mem := by
  simp [sPlain]

/-! Machine/VFloat. -/

@[simp] theorem vFp_mem (s : State) (lat : Nat) (op : Nat → Nat → Val → Val → Val → Nat × Nat) (f : VFmt) (c : Cx) :
    (Res.state (vFp lat op f c s)).mem = s.mem := by
  simp [vFp]

/-! Machine/Cross. -/

@[simp] theorem xMove_mem (s : State) (f : VFmt) (g : Nat → Nat × Nat) (c : Cx) :
    (Res.state (xMove f g c s)).mem = s.mem := by
  simp [xMove]
@[simp] theorem xFrom_mem (s : State) (f : VFmt) (src : Cx → Nat → Nat) (c : Cx) :
    (Res.state (xFrom f src c s)).mem = s.mem := by
  simp [xFrom]

end Sys2Proof.Proofs
end

-- Proofs: memory under preemption, queues and the host (O59)
section
/-! Memory under preemption, queues, the commands of the package, and the host. -/
namespace Sys2Proof.Proofs

open Sys2Proof Sys2Proof.Machine Sys2Proof.Laws

/-! Machine/Preempt. -/

@[simp] theorem stopBlock_mem (s : State) (core slot : Nat) : (s.stopBlock core slot).mem = s.mem := rfl
@[simp] theorem treatBlock_mem (s : State) (core slot kind : Nat) : (s.treatBlock core slot kind).mem = s.mem := by
  simp only [State.treatBlock]
  repeat' split
  all_goals simp
@[simp] theorem requestPreempt_mem (s : State) (core kind : Nat) : (s.requestPreempt core kind).mem = s.mem := by
  simp only [State.requestPreempt]
  repeat' split
  all_goals simp
@[simp] theorem preemptFor_mem (s : State) (core kind ctx : Nat) : (s.preemptFor core kind ctx).mem = s.mem := by
  simp [State.preemptFor]
@[simp] theorem execPreemptRequest_mem (s : State) (core kind : Nat) :
    (nextOr s (execPreemptRequest core kind s)).mem = s.mem := by
  simp only [execPreemptRequest]
  repeat' split
  all_goals simp
@[simp] theorem execQuantumExpiry_mem (s : State) (core : Nat) : (nextOr s (execQuantumExpiry core s)).mem = s.mem := by
  simp only [execQuantumExpiry]
  repeat' split
  all_goals simp
@[simp] theorem execBudgetExpiry_mem (s : State) (core slot : Nat) :
    (nextOr s (execBudgetExpiry core slot s)).mem = s.mem := by
  unfold execBudgetExpiry; split <;> simp
@[simp] theorem holdContext_mem (s : State) (ctx : Nat) : (s.holdContext ctx).mem = s.mem := by
  simp [State.holdContext]
@[simp] theorem execDebugHold_mem (s : State) (core : Nat) : (nextOr s (execDebugHold core s)).mem = s.mem := by
  simp only [execDebugHold]
  repeat' split
  all_goals simp
@[simp] theorem renameCore_mem (s : State) (a b : Nat) : (s.renameCore a b).mem = s.mem := by
  simp [State.renameCore]
@[simp] theorem bulkStore_wf {s : State} {key pa : Nat} {bs : List Byte} (h : s.mem.wf = true) :
    (s.bulkStore key pa bs).mem.wf = true := by
  simp [State.bulkStore, h, splice_wf]
theorem hitImage_mem {s t : State} {ctx : Nat} {xs : List Section} {off : Nat} (e : s.hitImage ctx xs off = some t) :
    t.mem = s.mem := by
  unfold State.hitImage at e
  repeat' split at e
  all_goals cases e
  simp
theorem writeImage_wf {s t : State} {ctx core : Nat} {xs : List Section} {what : Saved} {pois : List Nat} (h : s.mem.wf = true)
    (e : s.writeImage ctx core xs what pois = some t) : t.mem.wf = true := by
  simp only [State.writeImage] at e
  split at e <;> cases e
  exact bulkStore_wf h
@[simp] theorem leaveCore_mem (s : State) (n limbo : Nat) : (s.leaveCore n limbo).mem = s.mem := rfl
@[simp] theorem saveFailed_wf {s : State} {n ctx : Nat} (h : s.mem.wf = true) : (s.saveFailed n ctx).mem.wf = true := by
  simp only [State.saveFailed]
  repeat' split
  all_goals simp [h]
@[simp] theorem execCoreImageSave_wf {s : State} {n : Nat} (h : s.mem.wf = true) :
    (nextOr s (execCoreImageSave n s)).mem.wf = true := by
  unfold execCoreImageSave
  extract_lets s' c
  have hs : s'.mem.wf = true := by simpa [s'] using h
  split
  · split
    · exact hs
    · extract_lets t
      split
      · exact saveFailed_wf hs
      next e => simpa using writeImage_wf (by simpa [t] using hs) e
  · exact hs
@[simp] theorem restoreMem_wf {s : State} {k : Nat} {bs : List Byte} {pois : List Nat} (h : s.mem.wf = true) :
    (s.restoreMem k bs pois).mem.wf = true := by
  simp [State.restoreMem, h, splice_wf]
@[simp] theorem dropImage_mem (s : State) (id : Nat) : (s.dropImage id).mem = s.mem := rfl
@[simp] theorem enterCore_wf {s : State} {i : SavedImg} {limbo m : Nat} {shared : Bool} (h : s.mem.wf = true) :
    (s.enterCore i limbo m shared).mem.wf = true := by
  unfold State.enterCore; split <;> simp [h]
@[simp] theorem restoreCore_wf {s : State} {i : SavedImg} {limbo m : Nat} (h : s.mem.wf = true) :
    (s.restoreCore i limbo m).mem.wf = true := by
  simp only [State.restoreCore]
  repeat' split
  all_goals simp [h]
@[simp] theorem flushSeq_mem (s : State) (w : Who) : (s.flushSeq w).mem = s.mem := by
  unfold State.flushSeq; split <;> simp
@[simp] theorem spanBad_wf {s : State} {i : SavedImg} {bad cores : Nat → Bool} {seqs : List Who} {mem : Bool}
    (h : s.mem.wf = true) :
    (s.spanBad i bad cores seqs mem).mem.wf = true := by
  simp only [State.spanBad]
  repeat' split
  all_goals simp [h]
@[simp] theorem restoreBars_mem (s : State) (key : Nat → BarKey) (bars : List (Nat × Barrier)) :
    (s.restoreBars key bars).mem = s.mem := by
  simp [State.restoreBars]
@[simp] theorem restoreCluster_wf {s : State} {i : SavedImg} {c : Nat} {bars : List (Nat × Barrier)} (h : s.mem.wf = true) :
    (s.restoreCluster i c bars).mem.wf = true := by
  simp only [State.restoreCluster]
  repeat' split
  all_goals simp [h]
@[simp] theorem restoreDie_wf {s : State} {i : SavedImg} {d : Nat} {bars : List (Nat × Barrier)} (h : s.mem.wf = true) :
    (s.restoreDie i d bars).mem.wf = true := by
  simp only [State.restoreDie]
  repeat' split
  all_goals simp [h]
@[simp] theorem execRestore_wf {s : State} {image m : Nat} (h : s.mem.wf = true) :
    (nextOr s (execRestore image m s)).mem.wf = true := by
  simp only [execRestore]
  repeat' split
  all_goals simp [h]
@[simp] theorem takeBars_mem (s : State) (of : BarKey → Option Nat) : (s.takeBars of).2.mem = s.mem := rfl
@[simp] theorem execClusterOwnershipPass_wf {s : State} {c : Nat} (h : s.mem.wf = true) :
    (nextOr s (execClusterOwnershipPass c s)).mem.wf = true := by
  have hb f : (s.takeBars f).2.mem.wf = true := by simpa using h
  have hw {t u : State} {o n xs what pois} (ht : t.mem.wf = true) : t.writeImage o n xs what pois = some u → u.mem.wf = true :=
    writeImage_wf ht
  unfold execClusterOwnershipPass
  generalize State.writeImage = w at hw ⊢
  split
  · exact h
  · split
    · exact h
    · dsimp only
      split
      · exact faultContext_wf h
      next u e => simpa using hw (hb _) e
set_option maxRecDepth 6000 in
@[simp] theorem execDieOwnershipPass_wf {s : State} {d : Nat} (h : s.mem.wf = true) :
    (nextOr s (execDieOwnershipPass d s)).mem.wf = true := by
  have hb f : (s.takeBars f).2.mem.wf = true := by simpa using h
  have hw {t u : State} {o n xs what pois} (ht : t.mem.wf = true) : t.writeImage o n xs what pois = some u → u.mem.wf = true :=
    writeImage_wf ht
  unfold execDieOwnershipPass
  generalize State.writeImage = w at hw ⊢
  split
  · exact h
  · split
    · exact h
    · dsimp only
      split
      · exact faultContext_wf h
      next u e => simpa using hw (hb _) e
theorem hitImage_wf {s t : State} {ctx : Nat} {xs : List Section} {off : Nat} (h : s.mem.wf = true)
   (e : s.hitImage ctx xs off = some t) : t.mem.wf = true := by rw [hitImage_mem e]; exact h
@[simp] theorem imageError_wf {s : State} {p : Place} {off : Nat} (h : s.mem.wf = true) :
    (s.imageError p off).mem.wf = true := by
  unfold State.imageError
  extract_lets fault
  have hfault (o : Nat) (xs : List Section) : (fault o xs).mem.wf = true := by
    simp only [fault]
    split
    · exact h
    next t e => exact faultContext_wf (hitImage_wf h e)
  split
  · extract_lets s'
    have hs : s'.mem.wf = true := by simp [s', h]
    split
    · split
      · split
        · exact hs
        next t e => exact saveFailed_wf (hitImage_wf hs e)
      · exact hs
    · exact hs
  · split
    · exact h
    · split
      · exact hfault _ _
      · exact h
  · split
    · exact h
    · split
      · exact hfault _ _
      · exact h
  · exact h

/-! Machine/Queues. -/

@[simp] theorem enableQueue_mem (s : State) (q : Nat) : (s.enableQueue q).mem = s.mem := by
  simp [State.enableQueue]
@[simp] theorem execQueueEnable_mem (s : State) (q : Nat) : (nextOr s (execQueueEnable q s)).mem = s.mem := by
  unfold execQueueEnable; split <;> simp
@[simp] theorem readWi_mem (s : State) (q : Nat) : (s.readWi q).mem = s.mem := by
  simp [State.readWi]
@[simp] theorem execDoorbell_mem (s : State) (q : Nat) : (nextOr s (execDoorbell q s)).mem = s.mem := by
  unfold execDoorbell; split <;> simp
@[simp] theorem execWiPoll_mem (s : State) (q : Nat) : (nextOr s (execWiPoll q s)).mem = s.mem := by
  unfold execWiPoll; split <;> simp
@[simp] theorem journal_wf {s : State} {seq off : Nat} {bs : List Byte} (h : s.mem.wf = true) :
    (s.journal seq off bs).mem.wf = true := by
  simp [State.journal, h, sysStore_wf]
theorem accept_wf {s t : State} {q : Nat} {suits : Nat → Bool} {p : Packet} (h : s.mem.wf = true)
    (e : s.accept q suits = some (t, p)) : t.mem.wf = true := by
  simp only [State.accept] at e
  split at e <;> cases e
  split <;> simp [h, sysStore_wf]
theorem acceptAs_wf {s : State} {q : Nat} {suits : Nat → Bool} {act : State → Packet → State}
    (ha : ∀ t p, t.mem.wf = true → (act t p).mem.wf = true) (h : s.mem.wf = true) :
    (nextOr s (s.acceptAs q suits act)).mem.wf = true := by
  unfold State.acceptAs
  split
  · exact h
  next t p e =>
    have ht := accept_wf h e
    simp only [nextOr_next]
    split
    · exact ht
    · exact ha t p ht
@[simp] theorem launchPacket_mem (s : State) (p : Packet) : (s.launchPacket p).mem = s.mem := rfl
@[simp] theorem execPacketLaunch_wf {s : State} {q : Nat} (h : s.mem.wf = true) :
    (nextOr s (execPacketLaunch q s)).mem.wf = true :=
  acceptAs_wf (fun _ _ ht => by simpa using ht) h
@[simp] theorem copyPacket_mem (s : State) (p : Packet) : (s.copyPacket p).mem = s.mem := by
  simp [State.copyPacket]
@[simp] theorem execPacketCopy_wf {s : State} {q : Nat} (h : s.mem.wf = true) :
    (nextOr s (execPacketCopy q s)).mem.wf = true :=
  acceptAs_wf (fun _ _ ht => by simpa using ht) h
@[simp] theorem armPacket_mem (s : State) (p : Packet) : (s.armPacket p).mem = s.mem := rfl
@[simp] theorem execPacketArm_wf {s : State} {q : Nat} (h : s.mem.wf = true) :
    (nextOr s (execPacketArm q s)).mem.wf = true :=
  acceptAs_wf (fun _ _ ht => by simpa using ht) h
@[simp] theorem execPacketSignal_wf {s : State} {q : Nat} (h : s.mem.wf = true) :
    (nextOr s (execPacketSignal q s)).mem.wf = true :=
  acceptAs_wf (fun _ _ ht => performSignal_wf ht) h
@[simp] theorem testFence_mem (s : State) (q : Nat) : (s.testFence q).mem = s.mem := by
  unfold State.testFence; split <;> simp
@[simp] theorem execPacketFence_wf {s : State} {q : Nat} (h : s.mem.wf = true) :
    (nextOr s (execPacketFence q s)).mem.wf = true := by
  unfold execPacketFence
  split
  · simpa using h
  next e => simpa using accept_wf h e
@[simp] theorem execPacketSkip_wf {s : State} {q : Nat} (h : s.mem.wf = true) :
    (nextOr s (execPacketSkip q s)).mem.wf = true :=
  acceptAs_wf (fun _ _ ht => by simpa using ht) h
@[simp] theorem execCompletionRecord_wf {s : State} {seq : Nat} (h : s.mem.wf = true) :
    (nextOr s (execCompletionRecord seq s)).mem.wf = true := by
  unfold execCompletionRecord
  split
  · exact h
  · split
    · exact h
    · simp only [nextOr_next, testFence_mem]
      split
      · exact complete_wf (by simp [h])
      · simp [h]
@[simp] theorem execJrdWrite_mem (s : State) (v : BitVec 64) : (nextOr s (execJrdWrite v s)).mem = s.mem := rfl
@[simp] theorem writeFrrd_wf {s : State} {ctx : Nat} {v : Dword} (h : s.mem.wf = true) :
    (s.writeFrrd ctx v).mem.wf = true := by
  simp only [State.writeFrrd]
  split
  · exact h
  · exact foldl_wf (fun t x ht => reportFault_wf ht) _ h
@[simp] theorem execFrrdWrite_wf {s : State} {ctx : Nat} {v : BitVec 64} (h : s.mem.wf = true) :
    (nextOr s (execFrrdWrite ctx v s)).mem.wf = true := by
  unfold execFrrdWrite; split <;> simp [h]

/-! Machine/Package. -/

@[simp] theorem ctxError_mem (s : State) (e : Bool) : (s.ctxError e).mem = s.mem := rfl
@[simp] theorem createCtx_mem (s : State) (n : Nat) : (s.createCtx n).mem = s.mem := by
  simp only [State.createCtx]
  repeat' split
  all_goals simp
@[simp] theorem eraseCtx_wf {s : State} {n : Nat} {zero : Bool} (h : s.mem.wf = true) :
    (s.eraseCtx n zero).mem.wf = true := by
  simp [State.eraseCtx, h]
@[simp] theorem destroyCtx_wf {s : State} {n : Nat} (h : s.mem.wf = true) : (s.destroyCtx n).mem.wf = true := by
  unfold State.destroyCtx; split <;> simp [h]
@[simp] theorem resetCtx_wf {s : State} {n : Nat} (h : s.mem.wf = true) : (s.resetCtx n).mem.wf = true := by
  unfold State.resetCtx; split <;> simp [h]
@[simp] theorem revokeCtx_wf {s : State} {n : Nat} (h : s.mem.wf = true) : (s.revokeCtx n).mem.wf = true := by
  simp only [State.revokeCtx]
  repeat' split
  all_goals simp [h]
@[simp] theorem switchCtx_mem (s : State) (n : Nat) : (s.switchCtx n).mem = s.mem := by
  unfold State.switchCtx; split <;> simp
@[simp] theorem command_mem {s : State} {n : Nat} {f : State → Nat → State} (hf : (f s n).mem = s.mem) :
    (s.command n f).mem = s.mem := by
  unfold State.command; split
  · rfl
  · exact hf
@[simp] theorem command_wf {s : State} {n : Nat} {f : State → Nat → State} (h : s.mem.wf = true) (hf : (f s n).mem.wf = true) :
    (s.command n f).mem.wf = true := by
  unfold State.command; split
  · exact h
  · exact hf
@[simp] theorem execCreate_mem (s : State) (ctx : Nat) : (nextOr s (execCreate ctx s)).mem = s.mem := by
  simp [execCreate]
@[simp] theorem execDestroy_wf {s : State} {ctx : Nat} (h : s.mem.wf = true) :
    (nextOr s (execDestroy ctx s)).mem.wf = true := by
  simp [execDestroy, h]
@[simp] theorem execReset_wf {s : State} {ctx : Nat} (h : s.mem.wf = true) : (nextOr s (execReset ctx s)).mem.wf = true := by
  simp [execReset, h]
@[simp] theorem execRevoke_wf {s : State} {ctx : Nat} (h : s.mem.wf = true) :
    (nextOr s (execRevoke ctx s)).mem.wf = true := by
  simp [execRevoke, h]
@[simp] theorem execSwitch_mem (s : State) (ctx : Nat) : (nextOr s (execSwitch ctx s)).mem = s.mem := by
  simp [execSwitch]
@[simp] theorem sleep_wf {s : State} (h : s.mem.wf = true) : s.sleep.mem.wf = true := by
  simp [State.sleep, h]
@[simp] theorem suspend_wf {s : State} (h : s.mem.wf = true) : s.suspend.mem.wf = true := by
  simp only [State.suspend]
  repeat' split
  all_goals simp [h]
@[simp] theorem broadcast_mem (s : State) (v : Nat) :
    (s.broadcast v).mem = s.mem := foldl_mem (fun t _ => sendMsg_mem t _) _ s
@[simp] theorem resume_wf {s : State} (h : s.mem.wf = true) : s.resume.mem.wf = true := by
  unfold State.resume
  split
  · split
    · exact h
    · simp only
      split
      · simpa using h
      · refine foldl_wf (fun t n ht => ?_) _ h
        split
        · exact faultContext_wf ht
        · exact ht
  · split <;> exact h
@[simp] theorem execSuspend_wf {s : State} (h : s.mem.wf = true) : (nextOr s (execSuspend s)).mem.wf = true := by
  simp [execSuspend, h]
@[simp] theorem execPodSuspend_wf {s : State} (h : s.mem.wf = true) : (nextOr s (execPodSuspend s)).mem.wf = true := by
  unfold execPodSuspend; split <;> simp [h]
@[simp] theorem execResume_wf {s : State} (h : s.mem.wf = true) : (nextOr s (execResume s)).mem.wf = true := by
  simp [execResume, h]
@[simp] theorem execPodResume_wf {s : State} (h : s.mem.wf = true) : (nextOr s (execPodResume s)).mem.wf = true := by
  simp [execPodResume, h]
@[simp] theorem measured_mem (s : State) (off : Int) : (s.measured off).mem = s.mem := by
  simp [State.measured]
@[simp] theorem announced_mem (s : State) (port dataset : Nat) : (s.announced port dataset).mem = s.mem := by
  unfold State.announced; split <;> rfl
@[simp] theorem execPrecisionTimeMeasurement_mem (s : State) (t : BitVec 64) :
    (nextOr s (execPrecisionTimeMeasurement t s)).mem = s.mem := by
  simp [execPrecisionTimeMeasurement]
@[simp] theorem execSystemMessage_wf {s : State} {m : SystemMsg} (h : s.mem.wf = true) :
    (nextOr s (execSystemMessage m s)).mem.wf = true := by
  unfold execSystemMessage
  split
  · exact h
  · split
    · simp only [nextOr_next]
      cases e : s.screen m.header with
      | none => exact h
      | some t => simpa [screen_mem e] using h
    · split
      · simp only [nextOr_next]; split <;> simpa using h
      · simp only [nextOr_next]; split <;> simpa using h
      · simp [h]
      · simp [h]
      · simp only [nextOr_next]; split <;> simpa using h
@[simp] theorem logCell_mem (s : State) (k : Nat) : (s.logCell k).mem = s.mem := by
  simp [State.logCell]
@[simp] theorem hitGranule_mem (s : State) (k ctx : Nat) : (s.hitGranule k ctx).mem = s.mem := by
  simp [State.hitGranule]
@[simp] theorem copyDstError_mem (s : State) (c : Copy) (p m : Nat) : (s.copyDstError c p m).mem = s.mem := by
  simp only [State.copyDstError]
  repeat' split
  all_goals simp
@[simp] theorem copySrcError_mem (s : State) (c : Copy) (p : Nat) : (s.copySrcError c p).mem = s.mem := by
  unfold State.copySrcError; split <;> simp
@[simp] theorem execUncorrectableError_wf {s : State} {e : MemError} (h : s.mem.wf = true) :
    (nextOr s (execUncorrectableError e s)).mem.wf = true := by
  simp only [execUncorrectableError]
  repeat' split
  all_goals simp [h]
@[simp] theorem execScrub_mem (s : State) (stack corrected : Nat) :
    (nextOr s (execScrub stack corrected s)).mem = s.mem := by
  unfold execScrub; split <;> rfl
@[simp] theorem execRailAlarm_mem (s : State) (lower : Bool) : (nextOr s (execRailAlarm lower s)).mem = s.mem := by
  unfold execRailAlarm; split <;> rfl
@[simp] theorem execIdleGating_mem (s : State) : (nextOr s (execIdleGating s)).mem = s.mem := by
  unfold execIdleGating; split <;> rfl
@[simp] theorem execSpdmRequest_mem (s : State) (code : BitVec 8) : (nextOr s (execSpdmRequest code s)).mem = s.mem := by
  simp only [execSpdmRequest]
  repeat' split
  all_goals simp
@[simp] theorem execHostLinkTraining_mem (s : State) (mode width : Nat) :
    (nextOr s (execHostLinkTraining mode width s)).mem = s.mem := by
  unfold execHostLinkTraining; split <;> rfl
@[simp] theorem hostAnswer_mem (s : State) (a n : Nat) : (s.hostAnswer a n).mem = s.mem := rfl
@[simp] theorem execHostMemoryAccess_wf {s : State} {x : HostAccess} (h : s.mem.wf = true) :
    (nextOr s (execHostMemoryAccess x s)).mem.wf = true := by
  simp only [execHostMemoryAccess]
  repeat' split
  all_goals simp [h, sysStore_wf]
@[simp] theorem popLog_mem (s : State) : s.popLog.mem = s.mem := by
  unfold State.popLog; split <;> rfl
@[simp] theorem execPelpop_mem (s : State) : (nextOr s (execPelpop s)).mem = s.mem := by
  simp [execPelpop]

/-! Machine/HostRegs. -/

@[simp] theorem ctxCommand_wf {s : State} {op n : Nat} (h : s.mem.wf = true) : (s.ctxCommand op n).mem.wf = true := by
  simp only [State.ctxCommand]
  repeat' split
  all_goals simp [h]
@[simp] theorem suspCtl_wf {s : State} {v : Dword} (h : s.mem.wf = true) : (s.suspCtl v).mem.wf = true := by
  simp only [State.suspCtl]
  repeat' split
  all_goals simp [h]
@[simp] theorem writePkgReg_wf {s : State} {off : Nat} {v : Dword} (h : s.mem.wf = true) :
    (s.writePkgReg off v).mem.wf = true := by
  simp [State.writePkgReg, h]
@[simp] theorem queueLive_mem (s : State) (q : Nat) : (s.queueLive q).mem = s.mem := rfl
@[simp] theorem writeQueue_mem (s : State) (q off : Nat) (v : Dword) : (s.writeQueue q off v).mem = s.mem := by
  simp [State.writeQueue]
@[simp] theorem writeQueuePart_mem (s : State) (q off len : Nat) (v : Dword) :
    (s.writeQueuePart q off len v).mem = s.mem := by
  simp [State.writeQueuePart]
@[simp] theorem writeDieReg_wf {s : State} {d off : Nat} {v : Dword} (h : s.mem.wf = true) :
    (s.writeDieReg d off v).mem.wf = true := by
  simp only [State.writeDieReg]
  repeat' split
  all_goals simp [h]
@[simp] theorem writePotReg_mem (s : State) (off : Nat) (v : Dword) : (s.writePotReg off v).mem = s.mem := by
  unfold State.writePotReg; split <;> simp
@[simp] theorem writePort_mem (s : State) (n off : Nat) (v : Dword) : (s.writePort n off v).mem = s.mem := by
  simp [State.writePort]
@[simp] theorem writeFabric_mem (s : State) (off : Nat) (v : Dword) : (s.writeFabric off v).mem = s.mem := by
  simp [State.writeFabric]
@[simp] theorem hostWrite_wf {s : State} {off : Nat} {v : Dword} (h : s.mem.wf = true) :
    (s.hostWrite off v).mem.wf = true := by
  simp only [State.hostWrite]
  repeat' split
  all_goals simp [h]
@[simp] theorem execHostRegisterWrite_wf {s : State} {off : Nat} {v : HostStore} (h : s.mem.wf = true) :
    (nextOr s (execHostRegisterWrite off v s)).mem.wf = true := by
  unfold execHostRegisterWrite
  split
  · simp only [nextOr_next]
    split
    · simpa using h
    · exact h
  · split
    · simp [h]
    · split
      · split
        · simp [h]
        · simp [h]
      · simp [h]

/-! Machine/Mask. -/

@[simp] theorem putM_mem (s : State) (c : Cx) (r : BitVec 6) (f : Nat → BitVec 4) : (c.putM r f s).mem = s.mem := by
  simp [Cx.putM]
@[simp] theorem mBits_mem (s : State) (op : Word → Word → Word) (f : SFmt) (c : Cx) :
    (Res.state (mBits op f c s)).mem = s.mem := by
  simp [mBits]
@[simp] theorem mToS_mem (s : State) (op : Word → Nat) (f : SFmt) (c : Cx) : (Res.state (mToS op f c s)).mem = s.mem := by
  simp [mToS]

/-! Machine/Vector. -/

@[simp] theorem vInt_mem (s : State) (op : Int → Int → Int → Int) (f : VFmt) (c : Cx) :
    (Res.state (vInt op f c s)).mem = s.mem := by
  simp [vInt]
@[simp] theorem vBits_mem (s : State) (op : Nat → Nat → Nat → Nat → Nat) (f : VFmt) (c : Cx) :
    (Res.state (vBits op f c s)).mem = s.mem := by
  simp [vBits]

/-! Machine/Turns. -/

@[simp] theorem keepFault_mem (begun s1 s2 : State) (w : Who) (t : TrapReq) :
    (begun.keepFault s1 s2 w t).mem = begun.mem := by
  simp only [State.keepFault]
  repeat' split
  all_goals simp

end Sys2Proof.Proofs
end

-- Proofs: every instruction and event keeps memory canonical (O59)
section
/-! The instructions whose bodies branch, and `exec`. -/
namespace Sys2Proof.Proofs

open Sys2Proof Sys2Proof.Machine Sys2Proof.Laws

theorem wf_of_mem {s t : State} (e : t.mem = s.mem) (h : s.mem.wf = true) : t.mem.wf = true :=
  (congrArg Memory.wf e).trans h
/-- An issue keeps memory canonical where its instruction's body leaves memory. -/
theorem issue_wf_of_mem {s : State} {i : Instr} {hd : Hdr} {body : Cx → State → Res}
    (hb : ∀ c t, (Res.state (body c t)).mem = t.mem) (h : s.mem.wf = true) : (nextOr s (issue i hd body s)).mem.wf = true :=
  issue_wf (fun c t ht => wf_of_mem (hb c t) ht) h
@[simp] theorem execMwait_wf {h : Hdr} {f : XFmt} {s : State} (hs : s.mem.wf = true) :
    (nextOr s (execMwait h f s)).mem.wf = true := by
  unfold execMwait
  refine issue_wf_of_mem (fun c t => ?_) hs
  dsimp only
  split
  · rfl
  · split
    · rfl
    · have he := enqueue_mem t c (.mwait h f) (fieldAt 32 (t.arrOut c.who) ||| fieldAt 0 c.u.mwDone)
        (c.passMask.setWidth 64) [] []
      split
      next e =>
        rw [e] at he
        rw [state_ok, updIssuer_mem]
        exact he
      · exact he
@[simp] theorem execSvset_wf {h : Hdr} {f : DFmt} {s : State} (hs : s.mem.wf = true) :
    (nextOr s (execSvset h f s)).mem.wf = true := by
  unfold execSvset
  refine issue_wf_of_mem (fun c t => priv_mem ?_) hs
  dsimp only
  split
  · rfl
  · split
    · rfl
    · rw [state_ok, updProbe_mem]
@[simp] theorem execSvclr_wf {h : Hdr} {f : DFmt} {s : State} (hs : s.mem.wf = true) :
    (nextOr s (execSvclr h f s)).mem.wf = true := by
  unfold execSvclr
  refine issue_wf_of_mem (fun c t => priv_mem ?_) hs
  split
  · rfl
  · rw [state_ok, updProbe_mem]
@[simp] theorem execDput_wf {h : Hdr} {f : DFmt} {s : State} (hs : s.mem.wf = true) :
    (nextOr s (execDput h f s)).mem.wf = true := by
  unfold execDput
  refine issue_wf (fun c t ht => priv_wf ht ?_) hs
  simp [ht]
@[simp] theorem execDstep_wf {h : Hdr} {f : DFmt} {s : State} (hs : s.mem.wf = true) :
    (nextOr s (execDstep h f s)).mem.wf = true := by
  unfold execDstep
  refine issue_wf_of_mem (fun c t => priv_mem ?_) hs
  dsimp only
  split
  · exact answer_mem ..
  next e => exact (dstep_mem e).trans (async_mem ..)
@[simp] theorem execCsrw_wf {h : Hdr} {f : DFmt} {s : State} (hs : s.mem.wf = true) :
    (nextOr s (execCsrw h f s)).mem.wf = true := by
  unfold execCsrw
  refine issue_wf (fun c t ht => ?_) hs
  split
  · exact ht
  next e => exact wf_of_csrWrite ht e
@[simp] theorem execTrapret_wf {h : Hdr} {f : DFmt} {s : State} (hs : s.mem.wf = true) :
    (nextOr s (execTrapret h f s)).mem.wf = true := by
  unfold execTrapret
  refine issue_wf (fun c t ht => ?_) hs
  extract_lets nxt epc e resumed
  have hres : resumed.mem.wf = true := by
    simp only [resumed]
    repeat' split
    all_goals simpa using ht
  split
  · split
    · exact ht
    · exact takeHeld_wf (by simpa using hres)
  · simpa using hres
@[simp] theorem execExit_wf {h : Hdr} {f : BFmt} {s : State} (hs : s.mem.wf = true) :
    (nextOr s (execExit h f s)).mem.wf = true := by
  unfold execExit
  refine issue_wf_of_mem (fun c t => ?_) hs
  split
  · simp only [state_moved]
    split
    · simp
    · split <;> simp
  all_goals simp
/-- What any instruction or event does keeps memory canonical. -/
theorem exec_wf (i : Instr) {s : State} (h : s.mem.wf = true) : (nextOr s (exec i s)).mem.wf = true := by
  cases i with
  | sadd | ssub | smul | smulh | sdiv | srem | smin | smax | slea =>
    exact issue_wf_of_mem (fun _ _ => sInt_mem ..) h
  | sand | sor | sxor | sandn =>
    exact issue_wf_of_mem (fun _ _ => sBits_mem ..) h
  | sshl | sshr | ssar =>
    exact issue_wf_of_mem (fun _ _ => sShift_mem ..) h
  | spopc | sclz | sbfx =>
    exact issue_wf_of_mem (fun _ _ => sPlain_mem ..) h
  | mand | mor | mxor | mandn | mnot =>
    exact issue_wf_of_mem (fun _ _ => mBits_mem ..) h
  | mpopc | mffs | mget =>
    exact issue_wf_of_mem (fun _ _ => mToS_mem ..) h
  | bra | brc | brz | brnz | brvAny | brvAll | brl | ret =>
    exact issue_wf_of_mem (fun _ _ => plainTransfer_mem ..) h
  | call =>
    exact issue_wf_of_mem (fun _ _ => execTransfer_mem (fun _ _ _ => by simp) _ _) h
  | vadd | vsub | vmul | vmulh | vmad | vmin | vmax | vabs | vneg =>
    exact issue_wf_of_mem (fun _ _ => vInt_mem ..) h
  | vand | vor | vxor | vandn | vshr | vsar | vpopc | vclz | vbfx | vbfi | vmov =>
    exact issue_wf_of_mem (fun _ _ => vBits_mem ..) h
  | vfadd | vfsub | vfmul | vfma | vfms | vfnma | vrcp | vrsq | vsqrt | vdiv | vexp2 | vlog2 | vsin | vcos | vfrnd
  | vftrunc =>
    exact issue_wf_of_mem (fun _ _ => vFp_mem ..) h
  | qswap | qbcast | vshfl | vbcast =>
    exact issue_wf_of_mem (fun _ _ => xFrom_mem ..) h
  | vld | vldx | fld =>
    exact issue_wf_of_mem (fun _ _ => vLoad_mem ..) h
  | vst | vstx | fst =>
    exact issue_wf_of_mem (fun _ _ => vStore_mem ..) h
  | launchCore | launchStockpot =>
    exact issue_wf_of_mem (fun _ _ => launchBody_mem ..) h
  | joinCore | joinStockpot =>
    exact issue_wf_of_mem (fun _ _ => joinBody_mem ..) h
  | reduce | reducePod =>
    exact issue_wf_of_mem (fun _ _ => reduceBody_mem ..) h
  | armAt | armTag =>
    exact issue_wf_of_mem (fun _ _ => armBody_mem ..) h
  | smov | sli | sbfi | scmp | ssel | mput | mmov | nop | regang | trap | vcmp | vsel | vdot4 | vspl | vfmin
  | vfmax | vfcmp | vfclass | vfscale | vcvt | vpack | vunpack | vquant | vdeq | vscale | vred | vscan | vballot
  | velect | vcompact | sld | sst | vatom | satom | ladle | ldrain | pref | rld | rst | ratom | rcas | rsig | mma
  | mmas | mmat | hld | zclr | zld | zldA | zldK | zst | zstA | zstK | zepi | factLu | factCh | factQr | trsm
  | qapply | perm | ztr | dget | drun | dstat | shrink | prog | clock | reservedOpcode =>
    exact issue_wf_of_mem (fun _ _ => by simp) h
  | copy | mcast | cwait | fence | bind | unbind | bar | disarm | grow | idle =>
    refine issue_wf_of_mem (fun _ _ => ?_) h
    dsimp only
    repeat' split
    all_goals simp
  | bara | barw | vshl | csrr | yield =>
    refine issue_wf_of_mem (fun _ _ => ?_) h
    repeat' split
    all_goals simp
  | mark | trace => exact issue_wf (fun _ _ ht => record_wf ht) h
  | exit => exact execExit_wf h
  | mwait => exact execMwait_wf h
  | svset => exact execSvset_wf h
  | svclr => exact execSvclr_wf h
  | dput => exact execDput_wf h
  | dstep => exact execDstep_wf h
  | csrw => exact execCsrw_wf h
  | trapret => exact execTrapret_wf h
  | rowPerformed => exact execRowPerformed_wf h
  | dispatch => exact execDispatch_wf h
  | recordStart => exact execRecordStart_wf h
  | recordRetire => exact execRecordRetire_wf h
  | blockRetire => exact execBlockRetire_wf h
  | accessReturn => exact execAccessReturn_wf h
  | walk => exact execWalk_wf h
  | fill => exact execFill_wf h
  | deny => exact execDeny_wf h
  | copyPiece => exact execCopyPiece_wf h
  | coreImageSave => exact execCoreImageSave_wf h
  | restore => exact execRestore_wf h
  | clusterOwnershipPass => exact execClusterOwnershipPass_wf h
  | dieOwnershipPass => exact execDieOwnershipPass_wf h
  | reductionPartial => exact execReductionPartial_wf h
  | reductionResult => exact execReductionResult_wf h
  | remoteRequest => exact execRemoteRequest_wf h
  | remoteResponse => exact execRemoteResponse_wf h
  | responseTimeout => exact execResponseTimeout_wf h
  | retryResend => exact execRetryResend_wf h
  | remoteInsert => exact execRemoteInsert_wf h
  | remoteInsertResend => exact execRemoteInsertResend_wf h
  | remoteJoin => exact execRemoteJoin_wf h
  | sample => exact execSample_wf h
  | portDput => exact execPortDput_wf h
  | packetLaunch => exact execPacketLaunch_wf h
  | packetCopy => exact execPacketCopy_wf h
  | packetArm => exact execPacketArm_wf h
  | packetSignal => exact execPacketSignal_wf h
  | packetFence => exact execPacketFence_wf h
  | packetSkip => exact execPacketSkip_wf h
  | completionRecord => exact execCompletionRecord_wf h
  | frrdWrite => exact execFrrdWrite_wf h
  | destroy => exact execDestroy_wf h
  | reset => exact execReset_wf h
  | revoke => exact execRevoke_wf h
  | suspend => exact execSuspend_wf h
  | podSuspend => exact execPodSuspend_wf h
  | resume => exact execResume_wf h
  | podResume => exact execPodResume_wf h
  | systemMessage => exact execSystemMessage_wf h
  | uncorrectableError => exact execUncorrectableError_wf h
  | packageReset => rfl
  | hostRegisterWrite => exact execHostRegisterWrite_wf h
  | hostMemoryAccess => exact execHostMemoryAccess_wf h
  | coreCycle => exact wf_of_mem (execCoreCycle_mem ..) h
  | insert => exact wf_of_mem (execInsert_mem ..) h
  | stockpotRetry => exact wf_of_mem (execStockpotRetry_mem ..) h
  | poolGrant => exact wf_of_mem (execPoolGrant_mem ..) h
  | growFail => exact wf_of_mem (execGrowFail_mem ..) h
  | idleTimeout => exact wf_of_mem (execIdleTimeout_mem ..) h
  | lineFetch => exact wf_of_mem (execLineFetch_mem ..) h
  | ladleFetch => exact wf_of_mem (execLadleFetch_mem ..) h
  | arrayStep => exact wf_of_mem (execArrayStep_mem ..) h
  | preemptRequest => exact wf_of_mem (execPreemptRequest_mem ..) h
  | quantumExpiry => exact wf_of_mem (execQuantumExpiry_mem ..) h
  | budgetExpiry => exact wf_of_mem (execBudgetExpiry_mem ..) h
  | scalesPeriod => exact wf_of_mem (execScalesPeriod_mem ..) h
  | migration => exact wf_of_mem (execMigration_mem ..) h
  | armTimeFire => exact wf_of_mem (execArmTimeFire_mem ..) h
  | armTagFire => exact wf_of_mem (execArmTagFire_mem ..) h
  | reduceTimeout => exact wf_of_mem (execReduceTimeout_mem ..) h
  | intermediateFlush => exact wf_of_mem (execIntermediateFlush_mem ..) h
  | fxrevoke => exact wf_of_mem (execFxrevoke_mem ..) h
  | portDget => exact wf_of_mem (execPortDget_mem ..) h
  | portDstep => exact wf_of_mem (execPortDstep_mem ..) h
  | portDrun => exact wf_of_mem (execPortDrun_mem ..) h
  | portDstat => exact wf_of_mem (execPortDstat_mem ..) h
  | portBadop => exact wf_of_mem (execPortBadop_mem ..) h
  | doorbell => exact wf_of_mem (execDoorbell_mem ..) h
  | wiPoll => exact wf_of_mem (execWiPoll_mem ..) h
  | jrdWrite => exact wf_of_mem (execJrdWrite_mem ..) h
  | create => exact wf_of_mem (execCreate_mem ..) h
  | switch => exact wf_of_mem (execSwitch_mem ..) h
  | tinvRange => exact wf_of_mem (execTinvRange_mem ..) h
  | tinvContext => exact wf_of_mem (execTinvContext_mem ..) h
  | tinvAll => exact wf_of_mem (execTinvAll_mem ..) h
  | sccmd => exact wf_of_mem (execSccmd_mem ..) h
  | elpop => exact wf_of_mem (execElpop_mem ..) h
  | pelpop => exact wf_of_mem (execPelpop_mem ..) h
  | hctlClr => exact wf_of_mem (execHctlClr_mem ..) h
  | logctlDrop => exact wf_of_mem (execLogctlDrop_mem ..) h
  | portEnable => exact wf_of_mem (execPortEnable_mem ..) h
  | portDisable => exact wf_of_mem (execPortDisable_mem ..) h
  | detect => exact wf_of_mem (execDetect_mem ..) h
  | linkUp => exact wf_of_mem (execLinkUp_mem ..) h
  | trainingTimeout => exact wf_of_mem (execTrainingTimeout_mem ..) h
  | retrain => exact wf_of_mem (execRetrain_mem ..) h
  | scrub => exact wf_of_mem (execScrub_mem ..) h
  | railAlarm => exact wf_of_mem (execRailAlarm_mem ..) h
  | idleGating => exact wf_of_mem (execIdleGating_mem ..) h
  | spdmRequest => exact wf_of_mem (execSpdmRequest_mem ..) h
  | hostLinkTraining => exact wf_of_mem (execHostLinkTraining_mem ..) h
  | precisionTimeMeasurement => exact wf_of_mem (execPrecisionTimeMeasurement_mem ..) h
  | messageRelay => exact wf_of_mem (execMessageRelay_mem ..) h
  | fabidWrite => exact wf_of_mem (execFabidWrite_mem ..) h
  | queueEnable => exact wf_of_mem (execQueueEnable_mem ..) h
  | debugHold => exact wf_of_mem (execDebugHold_mem ..) h

end Sys2Proof.Proofs
end

-- Proofs: every step keeps memory canonical (O59)
section
/-! Pairs, attempts, turns and the step. -/
namespace Sys2Proof.Proofs

open Sys2Proof Sys2Proof.Machine Sys2Proof.Laws

theorem nextOr_wf {s : State} {o : Host.Outcome State Fault Refusal} (h : s.mem.wf = true)
    (ho : ∀ t, o = .next t → t.mem.wf = true) : (nextOr s o).mem.wf = true := by
  cases o with
  | next t => exact ho t rfl
  | fault | refused => exact h
theorem wf_of_nextOr {s t : State} {o : Host.Outcome State Fault Refusal} (h : (nextOr s o).mem.wf = true) (e : o = .next t) :
    t.mem.wf = true := by
  rwa [e] at h
theorem exec_next_wf {i : Instr} {s t : State} (h : s.mem.wf = true) (e : exec i s = .next t) : t.mem.wf = true :=
  wf_of_nextOr (exec_wf i h) e
/-- A pair keeps memory canonical: every state that it may leave comes from at most two runs of `exec` and from marks on the state in
which the pair began. -/
theorem runPair_wf {a b : Instr} {cur : Cur} {s : State} (h : s.mem.wf = true) :
    (nextOr s (runPair a b cur s)).mem.wf = true := by
  unfold runPair
  extract_lets swap x y p2 curX curY w e second begun swapped
  have hbegun : begun.mem.wf = true := by simpa [begun] using h
  have hsecond {t u : State} {lads : Option (Tab Nat Ladle)} (ht : t.mem.wf = true) (hu : second t lads = .next u) :
      u.mem.wf = true :=
    exec_next_wf (by simpa using ht) hu
  clear_value begun second
  split
  · exact h
  · exact h
  next s1 e1 =>
    have h1 : s1.mem.wf = true := exec_next_wf (by exact h) e1
    split
    · split
      · exact h
      · exact h
      next s2 e2 =>
        have h2 : s2.mem.wf = true := hsecond h1 e2
        split
        · exact h2
        · exact h2
        · split
          next s3 e3 =>
            split
            · simpa using hsecond hbegun e3
            · exact markStalled_wf hbegun
          next ho => exact nextOr_wf h fun u e => absurd e (ho u)
        · split
          next s3 e3 =>
            split
            · exact markTrapped_wf (hsecond hbegun e3)
            · exact markTrapped_wf (by simpa using hbegun)
          next ho => exact nextOr_wf h fun u e => absurd e (ho u)
    · split
      · split
        next s4 e4 =>
          have h4 : s4.mem.wf = true := exec_next_wf (by simpa [swapped] using h) e4
          split
          · exact h4
          · exact h1
        next ho => exact nextOr_wf h fun u e => absurd e (ho u)
      · exact h1
    · exact h1
theorem attempt_wf {p : Plan} {w : Who} {e : Nat} {s : State} (hp : (Plan.state s p).mem.wf = true) (h : s.mem.wf = true) :
    (nextOr s (attempt p w e s)).mem.wf = true := by
  cases p with
  | idle => exact h
  | stall => exact markStalled_wf h
  | trap => exact trapAt_wf hp
  | one => exact nextOr_wf h fun t e => exec_next_wf (by exact h) e
  | two => exact runPair_wf h
theorem tryIssue_wf {w : Who} {e : Nat} {s : State} (h : s.mem.wf = true) : (nextOr s (tryIssue w e s)).mem.wf = true :=
  attempt_wf (by simpa using h) h
theorem runEvent_wf {i : Instr} {s : State} (h : s.mem.wf = true) : (nextOr s (runEvent i s)).mem.wf = true :=
  nextOr_wf h fun _ e => exec_next_wf (by exact h) e
theorem runTurn_wf {t : Turn} {s : State} (h : s.mem.wf = true) : (nextOr s (runTurn t s)).mem.wf = true := by
  cases t with
  | issue => exact tryIssue_wf h
  | event => exact runEvent_wf h
  | pass => simpa [runTurn] using h
theorem doTurn_wf {t : Turn} {s : State} (h : s.mem.wf = true) : (nextOr s (doTurn t s)).mem.wf = true :=
  nextOr_wf h fun _ e => wf_of_nextOr (runTurn_wf (by simpa using h)) e
theorem endCycle_wf {s : State} {issued : List (Who × Nat)} (h : s.mem.wf = true) : (s.endCycle issued).mem.wf = true := by
  have hsample (t : State) (n : Nat) (ht : t.mem.wf = true) : (match runEvent (.sample n) t with
      | .next u => u
      | .fault _ => t
      | .refused _ => t).mem.wf = true := by
    split
    next e => exact wf_of_nextOr (runEvent_wf ht) e
    · exact ht
    · exact ht
  unfold State.endCycle
  refine foldl_wf (fun t n ht => ?_) _ ?_
  · dsimp only
    split
    · exact hsample t n ht
    · exact ht
  · rw [passTime_mem]
    exact wf_of_mem (foldl_mem (fun t n => coreCycle_mem t n issued) _ s) h
/-- What the attempt of a fragment comes to keeps memory canonical. -/
theorem issues_wf {s t : State} {x : Who × Nat} {b : Bool} (h : s.mem.wf = true) (e : s.issues x = some (.next t, b)) :
    t.mem.wf = true := by
  unfold State.issues at e
  split at e
  next u eu =>
    have hu : u.mem.wf = true := wf_of_nextOr (tryIssue_wf (s := s.quiet) h) eu
    repeat' split at e
    all_goals cases e
    all_goals exact hu
  all_goals cases e
theorem firstIssue_wf {s t : State} {x : Who × Nat} {b : Bool} (h : s.mem.wf = true) {xs : List (Who × Nat)}
    (e : s.firstIssue xs = some (x, .next t, b)) : t.mem.wf = true := by
  induction xs with
  | nil => cases e
  | cons y ys ih =>
    unfold State.firstIssue at e
    split at e
    next o eo => cases e; exact issues_wf h eo
    · exact ih e
theorem defaultTurn_wf {s : State} (h : s.mem.wf = true) : (nextOr s (defaultTurn s)).mem.wf = true := by
  unfold defaultTurn
  extract_lets r
  have hr : r.mem.wf = true := by simpa [r] using h
  split
  · exact nextOr_wf h fun _ e => wf_of_nextOr (runEvent_wf hr) e
  · split
    next e =>
      split at e
      · cases e
      · exact endCycle_wf (firstIssue_wf hr e)
    next o _ _ e =>
      split at e
      · cases e
      · refine nextOr_wf h fun t eo => ?_
        rw [eo] at e
        exact firstIssue_wf hr e
    · split
      · exact nextOr_wf h fun _ e => wf_of_nextOr (runEvent_wf hr) e
      · exact endCycle_wf hr
theorem step_wf {s : State} (h : s.mem.wf = true) : (nextOr s (step s)).mem.wf = true := by
  unfold step
  split
  · exact defaultTurn_wf h
  · exact nextOr_wf h fun _ e => wf_of_nextOr (doTurn_wf (by exact h)) e
/-- Settles O59, each function of the model being followed in the order of the model's files: the writers keep memory canonical, all
others leave it. -/
theorem stepKeepsMemoryCanonical : Obligations.StepKeepsMemoryCanonical := by
  unfold Obligations.StepKeepsMemoryCanonical
  exact fun s t h e => wf_of_nextOr (step_wf h) e

end Sys2Proof.Proofs
end

-- Proofs: what the issue of an instruction that has begun answers, and the vector integer instructions (O6)
section
/-! The answer of an instruction that has begun, by the answer of its body; then group 4's integer instructions (R140, R142). -/
namespace Sys2Proof.Proofs

open Sys2Proof Sys2Proof.Machine Sys2Proof.Safety Sys2Proof.Laws

section
variable {i : Instr} {h : Hdr} {s : State} {b : Begun}

/-- An instruction whose body is done ends its step with the state that the body has made. -/
theorem issue_ok_of_begun {body : Cx → State → Res} {t : State} (hb : begun i h s = some b) (e : body b.c b.s = .ok t) :
    issue i h body s = .next (b.done t) :=
  (issue_of_begun hb body).1 t e

/-- An instruction whose body traps, and that is not the second of a pair, ends its attempt with the trap (R124). -/
theorem issue_trap_of_begun {body : Cx → State → Res} {x : TrapReq} {t : State} (hb : begun i h s = some b)
    (hr : ∀ o, b.c.cur.role ≠ .second o) (e : body b.c b.s = .trap x t) :
    issue i h body s = .next (t.markTrapped b.c.who b.c.entry b.c.cur.pc x) :=
  have ⟨_, _, _, _, trap, _⟩ := issue_of_begun hb body
  trap x t e hr

/-- An instruction that acts lane by lane (R137). -/
theorem issue_vec_of_begun (hb : begun i h s = some b) (lat : Nat) (go : Cx → Nat → LaneOut) :
    issue i h (fun c => c.vec lat (go c)) s = b.lanes lat (go b.c) :=
  issue_ok_of_begun hb rfl

/-- An instruction that acts element by element (R12, R140). -/
theorem issue_vElems_of_begun (hb : begun i h s = some b) (f : VFmt) (lat : Nat) (op : Nat → Nat → Nat → Nat → Nat × Nat) :
    issue i h (fun c => c.vElems f lat op) s = b.elems f lat op :=
  issue_ok_of_begun hb rfl

/-- An instruction whose elements are exact integers, wrapped or saturated (R18, R140). -/
theorem issue_vInt_of_begun (hb : begun i h s = some b) (op : Int → Int → Int → Int) (f : VFmt) :
    issue i h (vInt op f) s = b.ints f op := by
  unfold Begun.ints vInt
  exact issue_vElems_of_begun hb f 2 _

end

/-- The magnitude that VABS takes is the value or its negation, by the sign (R140). -/
theorem natAbs_eq_ite (x : Int) : (x.natAbs : Int) = if x < 0 then -x else x := by
  split <;> omega

/-- VDOT4 takes the bytes of its operands, the immediate among them, as 8-bit elements (R142). -/
theorem vdot4_of_begun {h : Hdr} {f : VFmt} {s : State} {b : Begun} (hb : begun (.vdot4 h f) h s = some b) :
    exec (.vdot4 h f) s = b.lanes 2 (fun l =>
      let bytes := fun (ty : Nat) (x : Word) => (unpackN 8 4 x.toNat).map (elemInt ty)
      let p := List.zipWith (fun x y => x * y) (bytes f.ty.toNat (b.c.v1 f.va.toNat l))
        (bytes f.aux.toNat (if f.i then f.imm else b.c.v1 f.vb.toNat l))
      let r := intOut 2 f.sat (p.foldl (fun x y => x + y) (b.c.v1 f.vc.toNat l).toInt)
      { tgts := [laneTgt l f.vd.toNat r.1], flags := r.2, fmt := [] }) := by
  refine (issue_vec_of_begun hb 2 _).trans ?_
  simp only [apply_ite BitVec.toNat]

/-- Settles O6: the body of each is that of an element-wise integer instruction; VABS and VDOT4 say the same in other words. -/
theorem vectorIntegerResults : Obligations.VectorIntegerResults := by
  intro h f s b
  refine ⟨fun hb => ?vadd, fun hb => ?vsub, fun hb => ?vmul, fun hb => ?vmulh, fun hb => ?vmad, fun hb => ?vmin, fun hb => ?vmax,
    fun hb => ?vabs, fun hb => ?vneg, vdot4_of_begun⟩
  case vabs => exact (issue_vInt_of_begun hb _ f).trans (by simp only [natAbs_eq_ite])
  all_goals exact issue_vInt_of_begun hb _ f

end Sys2Proof.Proofs
end

-- Proofs: the control registers that O17 speaks of
section
/-! What a control register reads as and what a write of it makes (R33, R96, R126, R129, R130): a lemma for each register that O17
speaks of, and one for each way of being refused. -/
namespace Sys2Proof.Proofs

open Sys2Proof Sys2Proof.Machine Sys2Proof.Safety Sys2Proof.Laws

variable {s : State} {w : Who} {u : Issuer}

/-! A register with a copy for each slice. -/

/-- A table in which the values of some keys are changed, one key after the other. -/
def putEach {α : Type} (js : List Nat) (g : Nat → α → α) (d : α) (t : Tab Nat α) : Tab Nat α :=
  js.foldl (fun t j => t.put j (g j (t.get j d))) t

/-- A change that twice made is the change once made reaches the keys named, and no other. -/
theorem get_putEach {α : Type} (js : List Nat) {g : Nat → α → α} (hg : ∀ j a, g j (g j a) = g j a) (d : α) (t : Tab Nat α)
    (i : Nat) : (putEach js g d t).get i d = if i ∈ js then g i (t.get i d) else t.get i d := by
  unfold putEach
  induction js generalizing t with
  | nil => rfl
  | cons j r ih =>
    rw [List.foldl_cons, ih]
    by_cases hi : i = j
    · subst hi; simp [hg]
    · simp [hi, get_put_ne]

theorem get_putEach_copy (js : List Nat) (val : Nat → Dword) (t : Tab Nat Dword) (i : Nat) :
    (putEach js (fun j _ => val j) 0 t).get i 0 = if i ∈ js then val i else t.get i 0 :=
  get_putEach js (g := fun j _ => val j) (fun _ _ => rfl) 0 t i
theorem get_putEach_clear {n : Nat} (js : List Nat) (val : Nat → BitVec n) (t : Tab Nat (BitVec n)) (i : Nat) :
    (putEach js (fun j a => a &&& ~~~(val j)) 0 t).get i 0 = if i ∈ js then t.get i 0 &&& ~~~(val i) else t.get i 0 :=
  get_putEach js (fun _ _ => by rw [BitVec.and_assoc, BitVec.and_self]) 0 t i

/-! Reads. A number that a lemma gives a range for passes the tests of `State.csrRead` one by one: each is false by the bounds, so that
no proof term holds more than one comparison. -/

/-- The barrier registers of the levels above the block lie from 0x240 to 0x29F (R359, R379, R413). -/
theorem barRegs_eq_none (w : Who) {num : Nat} (hn : num < 0x240 ∨ 0x2A0 ≤ num) : barRegs w num = none := by
  cases w <;> simp (disch := omega) only [barRegs, if_neg, ite_self]

/-- A number below the special registers or beyond the last register names none (R129). -/
theorem csrRead_absent {num : Nat} (j : Nat) (hn : num < 0x10 ∨ 0x600 ≤ num) : s.csrRead w u num j = .inl cNum := by
  unfold State.csrRead
  rw [barRegs_eq_none w (by omega)]
  simp only [if_neg (show ¬ (num = 0x11 ∨ num / 256 = 1) by omega)]
  rcases hn with hn | hn <;>
  · iterate 9 refine (if_neg (by omega)).trans ?_
    split
    · rfl
    · iterate 30 refine (if_neg (by omega)).trans ?_
      rfl

theorem csrRead_fstat (j : Nat) : s.csrRead w u 0x10 j = .inr ((u.rdF j).setWidth 64) := rfl
theorem csrRead_level (j : Nat) : s.csrRead w u 0x12 j = .inr (s.levelReg u) := rfl
theorem csrRead_tvec (j : Nat) : s.csrRead w u 0x20 j = .inr u.tvec := rfl
theorem csrRead_tepc (j : Nat) : s.csrRead w u 0x21 j = .inr u.tepc := rfl
theorem csrRead_tcause (j : Nat) : s.csrRead w u 0x22 j = .inr u.tcause := rfl
theorem csrRead_tval (j : Nat) : s.csrRead w u 0x23 j = .inr u.tval := rfl
theorem csrRead_tmask (j : Nat) : s.csrRead w u 0x24 j = .inr (u.tmask.setWidth 64) := rfl
theorem csrRead_tscr0 (j : Nat) : s.csrRead w u 0x25 j = .inr (u.tscr0.get j 0) := rfl
theorem csrRead_tscr1 (j : Nat) : s.csrRead w u 0x26 j = .inr (u.tscr1.get j 0) := rfl
theorem csrRead_gstat (core g j : Nat) : s.csrRead (.gang core g) u 0x11 j = .inr (u.gstat g) := rfl

section
variable {m k : Nat} {x : Block} (hm : s.blockOf w = some (m, k)) (hx : s.block m k = some x)
include hm hx

/-- MPROG and HDESC are registers of a block that has the array (R244). -/
theorem csrRead_array_priv {num : Nat} (j : Nat) (ha : x.array = false) (hn : num = 0x300 ∨ 0x310 ≤ num ∧ num ≤ 0x31F) :
    s.csrRead w u num j = .inl cPriv := by
  unfold State.csrRead
  rw [barRegs_eq_none w (by omega), hm]
  rcases hn with rfl | ⟨hlo, hhi⟩
  · simp [hx, ha]
  · simp only [hx, Option.map_some, if_neg (show ¬ (num = 0x11 ∨ num / 256 = 1) by omega)]
    iterate 20 refine (if_neg (by omega)).trans ?_
    exact (if_pos ⟨hlo, hhi⟩).trans (if_neg (by simp [ha]))

/-- The sieve and halt registers are registers of a context with DEBUG (R264, R285). -/
theorem csrRead_debug_priv {num : Nat} (j : Nat) (hd : s.debugOk u = false) (hn : 0x400 ≤ num ∧ num ≤ 0x451 ∨ num = 0x470) :
    s.csrRead w u num j = .inl cPriv := by
  unfold State.csrRead
  rw [barRegs_eq_none w (by omega), hm]
  rcases hn with ⟨hlo, hhi⟩ | rfl
  · simp only [hx, Option.map_some, hd, Bool.false_eq_true, if_false, if_neg (show ¬ (num = 0x11 ∨ num / 256 = 1) by omega)]
    iterate 21 refine (if_neg (by omega)).trans ?_
    iterate 6 refine ite_eq_left_iff.mpr fun _ => ?_
    exact if_pos (by omega)
  · simp [hx, hd]

theorem csrRead_trctl (j : Nat) : s.csrRead w u 0x460 j = .inr (s.core m).probe.trctl := by
  unfold State.csrRead
  rw [barRegs_eq_none w (by omega), hm]
  simp [hx]
theorem csrRead_trbase (j : Nat) : s.csrRead w u 0x461 j = .inr (s.core m).probe.trbase := by
  unfold State.csrRead
  rw [barRegs_eq_none w (by omega), hm]
  simp [hx]
end

/-! Writes. -/

section
variable {js : List Nat} {val : Nat → Dword} {v : Dword}

/-- FSTAT loses the flags that the source has in its slice (R33). -/
theorem csrWrite_fstat : s.csrWrite w u 0x10 js val v = .inr (s.updIssuer w (fun u =>
    { u with fstat := putEach js (fun j a => a &&& ~~~((val j).setWidth 6)) 0 u.fstat })) := by
  refine congrArg (fun g => Sum.inr (s.updIssuer w g)) (funext fun u => ?_)
  exact List.foldl_hom (fun t => ({ u with fstat := t } : Issuer)) fun _ _ => rfl

theorem csrWrite_tvec : s.csrWrite w u 0x20 js val v = .inr (s.updIssuer w (fun u => { u with tvec := v })) := rfl
theorem csrWrite_tepc : s.csrWrite w u 0x21 js val v = .inr (s.updIssuer w (fun u => { u with tepc := v })) := rfl
theorem csrWrite_tval : s.csrWrite w u 0x23 js val v = .inr (s.updIssuer w (fun u => { u with tval := v })) := rfl
/-- Software writes of TCAUSE its bits [47:32] and [10:0] (R126). -/
theorem csrWrite_tcause : s.csrWrite w u 0x22 js val v = .inr (s.updIssuer w (fun u =>
    { u with tcause := (u.tcause &&& ~~~0x0000FFFF000007FF) ||| (v &&& 0x0000FFFF000007FF) })) := rfl

theorem csrWrite_tscr0 : s.csrWrite w u 0x25 js val v = .inr (s.updIssuer w (fun u =>
    { u with tscr0 := putEach js (fun j _ => val j) 0 u.tscr0 })) := by
  refine congrArg (fun g => Sum.inr (s.updIssuer w g)) (funext fun u => ?_)
  exact List.foldl_hom (fun t => ({ u with tscr0 := t } : Issuer)) fun _ _ => rfl

theorem csrWrite_tscr1 : s.csrWrite w u 0x26 js val v = .inr (s.updIssuer w (fun u =>
    { u with tscr1 := putEach js (fun j _ => val j) 0 u.tscr1 })) := by
  refine congrArg (fun g => Sum.inr (s.updIssuer w g)) (funext fun u => ?_)
  exact List.foldl_hom (fun t => ({ u with tscr1 := t } : Issuer)) fun _ _ => rfl

/-- A register that its issuer may not read is not written either, the special registers of every issuer apart (R130). -/
theorem csrWrite_of_read_inl {num c : Nat} (hb : barRegs w num = none) (hn : num < 0x10 ∨ 0x26 < num)
    (hr : s.csrRead w u num 0 = .inl c) : s.csrWrite w u num js val v = .inl (c, 0) := by
  unfold State.csrWrite
  iterate 7 refine (if_neg (by omega)).trans ?_
  rw [hb, hr]

/-- LEVEL and TMASK are read only (R126, R131). -/
theorem csrWrite_readOnly {num : Nat} (hn : num = 0x12 ∨ num = 0x24) : s.csrWrite w u num js val v = .inl (cNum, 0) := by
  unfold State.csrWrite
  rw [barRegs_eq_none w (by omega)]
  rcases hn with rfl | rfl <;> cases s.blockOf w <;> rfl

theorem csrWrite_gstat (core g : Nat) : s.csrWrite (.gang core g) u 0x11 js val v =
    .inr (s.updIssuer (.gang core g) (fun u => { u with unfused := v.extractLsb' 32 16 })) := rfl

section
variable {m k : Nat} {x : Block} (hm : s.blockOf w = some (m, k)) (hx : s.block m k = some x)
include hm hx

/-- TRCTL refuses a SIZE outside 4 to 24 (R285). -/
theorem csrWrite_trctl_value (hv : bitsAt v 8 5 < 4 ∨ 24 < bitsAt v 8 5) : s.csrWrite w u 0x460 js val v = .inl (cVal, 0) := by
  unfold State.csrWrite
  rw [barRegs_eq_none w (by omega), csrRead_trctl hm hx, hm]
  simp [hv]

/-- TRBASE refuses an address that is not aligned (R285). -/
theorem csrWrite_trbase_value (hv : bitsAt v 0 6 ≠ 0) : s.csrWrite w u 0x461 js val v = .inl (cVal, 0) := by
  unfold State.csrWrite
  rw [barRegs_eq_none w (by omega), csrRead_trbase hm hx, hm]
  simp [hv]
end
end

end Sys2Proof.Proofs
end

-- Proofs: registers of the pool, progress, time and control registers (O17)
section
/-! GROW, SHRINK, PROG, CLOCK, CSRR and CSRW (R101, R129, R132, R133): what each answers once it has begun, then O17 put together
from these and the control registers. -/
namespace Sys2Proof.Proofs

open Sys2Proof Sys2Proof.Machine Sys2Proof.Safety Sys2Proof.Laws

/-! SHRINK and PROG. -/

/-- What is still on its way after SHRINK aims below the new allocation (R101). -/
theorem under_of_mem_shrunk (u : Issuer) (n : Nat) : ∀ x ∈ (u.shrunk n).flights, ∀ t ∈ x.tgts, t.under (8 * (u.alloc - n)) = true := by
  intro x hx t ht
  obtain ⟨y, -, rfl⟩ := List.mem_map.mp hx
  exact (List.mem_filter.mp ht).2

theorem block_updBlock {s : State} {m k : Nat} {x : Block} (f : Block → Block) (hx : s.block m k = some x) :
    (s.updBlock m k f).block m k = some (f x) := by
  unfold State.block at hx
  simp [State.updBlock, State.block, hx]

/-- Of two writes of BPROG in one cycle the one of the lower gang stands (R132). -/
theorem bprog_writeProg {s : State} {w : Who} {m k : Nat} {x : Block} (v : BitVec 16) : s.blockOf w = some (m, k) →
    s.block m k = some x → ((s.writeProg w v).block m k).map (fun y => y.bprog) = some (match x.bprogBy with
      | none => v
      | some (t, r) => if t = s.cycles ∧ r < (match w with | .gang _ g => g + 1 | _ => 0) then x.bprog else v) := by
  intro hm hx
  unfold State.writeProg
  rw [hm]
  simp only [block_updBlock _ hx, Option.map_some]
  cases x.bprogBy with
  | none => rfl
  | some p => cases w <;> simp [apply_ite Block.bprog]

section
variable {h : Hdr} {f : DFmt} {s : State} {b : Begun}

/-! GROW. -/

section
variable {core g : Nat} (hb : begun (.grow h f) h s = some b) (hw : b.c.who = .gang core g) (hf : b.c.fr.wait = .none)
  (hn : 0 < bitsAt f.imm 0 6)
include hb hw hf hn

/-- GROW that fits, with no older request at the pool, takes its registers (R101). -/
theorem grow_granted (ha : b.c.u.alloc + bitsAt f.imm 0 6 ≤ 32) (ho : b.s.noneOlder core b.c.who = true)
    (hr : 8 * bitsAt f.imm 0 6 ≤ (b.s.core core).freeRegs) :
    exec (.grow h f) s = .next (b.done (b.c.fixed 1 (b.c.pass.map (fun j => (j, Tgt.c j (f.sd.toNat % 16) true)))
      ((b.s.noteTaken core b.c.who).updIssuer b.c.who (fun u => { u with alloc := u.alloc + bitsAt f.imm 0 6 })))) := by
  refine issue_ok_of_begun hb ?_
  simp only [hw] at ho ⊢
  simp only [hf, Nat.ne_of_gt hn, Nat.not_lt.mpr ha, ho, hr, if_false, Bool.true_and, decide_true, if_true]
  simp only [Cx.grown]

/-- GROW beyond 256 registers fails (R101). -/
theorem grow_refused (ha : 32 < b.c.u.alloc + bitsAt f.imm 0 6) :
    exec (.grow h f) s = .next (b.done (b.c.fixed 1 (b.c.pass.map (fun j => (j, Tgt.c j (f.sd.toNat % 16) false))) b.s)) := by
  refine issue_ok_of_begun hb ?_
  simp only [hw, hf, Nat.ne_of_gt hn, ha, if_false, if_true]
  rfl

end

/-! CSRR and CSRW. -/

/-- CSRR of a register that the issuer has sends it slice by slice (R129). -/
theorem csrr_of_read {v : Dword} (hb : begun (.csrr h f) h s = some b)
    (e : b.s.csrRead b.c.who b.c.u f.csr.toNat b.c.low = .inr v) :
    exec (.csrr h f) s = b.putS f.sd (fun j => match b.s.csrRead b.c.who b.c.u f.csr.toNat j with
      | .inl _ => 0
      | .inr x => x) := by
  refine issue_ok_of_begun hb ?_
  split
  next hk => cases e.symm.trans hk
  next => rfl

/-- CSRR of a register that every slice may read. -/
theorem csrr_value {k : Nat} {val : Nat → Dword} (e : ∀ j, b.s.csrRead b.c.who b.c.u k j = .inr (val j))
    (hb : begun (.csrr h f) h s = some b) (hk : f.csr.toNat = k) : exec (.csrr h f) s = b.putS f.sd val := by
  subst hk
  rw [csrr_of_read hb (e _)]
  simp only [e]

/-- The instruction, once begun, traps with the cause, unless it is the second of a pair (R124). -/
def trapsWith (h : Hdr) (s : State) (b : Begun) (i : Instr) (cause : Nat) : Prop :=
  begun i h s = some b → (∀ o, b.c.cur.role ≠ .second o) →
    exec i s = .next (b.s.markTrapped b.c.who b.c.entry b.c.cur.pc (b.c.fault cause 0 0))

theorem csrr_traps {k : Nat} (e : b.s.csrRead b.c.who b.c.u f.csr.toNat b.c.low = .inl k) : trapsWith h s b (.csrr h f) k := by
  refine fun hb hr => issue_trap_of_begun hb hr ?_
  simp only [e]

/-- CSRW as the issue in progress makes it: from each slice's copy of the source, and from that of the lowest slice. -/
def csrwOf (b : Begun) (f : DFmt) (k : Nat) : (Nat × Nat) ⊕ State :=
  b.s.csrWrite b.c.who b.c.u k b.c.pass (fun j => b.c.s f.sa j) (b.c.sl f.sa)

/-- CSRW of a register that takes the value ends its step with the state written (R129). -/
theorem csrw_of_write {k : Nat} {t : State} (e : csrwOf b f k = .inr t) (hb : begun (.csrw h f) h s = some b)
    (hk : f.csr.toNat = k) : exec (.csrw h f) s = .next (b.done t) := by
  subst hk
  refine issue_ok_of_begun hb ?_
  unfold csrwOf at e
  simp only [e]

theorem csrw_traps {k : Nat} (e : csrwOf b f f.csr.toNat = .inl (k, 0)) : trapsWith h s b (.csrw h f) k := by
  refine fun hb hr => issue_trap_of_begun hb hr ?_
  unfold csrwOf at e
  simp only [e]

/-- A CSRW that changes the issuer by `g` leaves it as `g` makes it. -/
theorem csrw_issuer {k : Nat} {g : Issuer → Issuer} {P : Issuer → Issuer → Prop} (e : csrwOf b f k = .inr (b.s.updIssuer b.c.who g))
    (hP : ∀ x, P x (g x)) (hb : begun (.csrw h f) h s = some b) (hk : f.csr.toNat = k) :
    ∃ t, exec (.csrw h f) s = .next (b.done t) ∧ ∀ x, b.s.issuer b.c.who = some x → ∃ y, t.issuer b.c.who = some y ∧ P x y :=
  ⟨_, csrw_of_write e hb hk, fun x hx => ⟨g x, by rw [issuer_updIssuer, hx, Option.map_some], hP x⟩⟩

/-- Both accesses to a register that the issuer may not read trap (R130). -/
theorem csr_traps {k : Nat} (hw : barRegs b.c.who f.csr.toNat = none) (hn : f.csr.toNat < 0x10 ∨ 0x26 < f.csr.toNat)
    (e : ∀ j, b.s.csrRead b.c.who b.c.u f.csr.toNat j = .inl k) :
    trapsWith h s b (.csrr h f) k ∧ trapsWith h s b (.csrw h f) k :=
  ⟨csrr_traps (e _), csrw_traps (csrWrite_of_read_inl hw hn (e 0))⟩

/-- CSRR and CSRW of a number that names no register, and CSRW of one that is read only (R126, R130). -/
theorem csr_traps_absent (hn : f.csr.toNat < 0x10 ∨ 0x600 ≤ f.csr.toNat) :
    trapsWith h s b (.csrr h f) 8 ∧ trapsWith h s b (.csrw h f) 8 :=
  csr_traps (barRegs_eq_none _ (by omega)) (by omega) fun j => csrRead_absent j hn

section
variable {m k : Nat} {x : Block} (hm : b.s.blockOf b.c.who = some (m, k)) (hx : b.s.block m k = some x)
include hm hx

/-- Registers of the array and of the debug unit, to an issuer that may not use them (R244, R264). -/
theorem csr_traps_priv (hp : x.array = false ∧ (f.csr.toNat = 0x300 ∨ 0x310 ≤ f.csr.toNat ∧ f.csr.toNat ≤ 0x31F) ∨
      b.s.debugOk b.c.u = false ∧ (0x400 ≤ f.csr.toNat ∧ f.csr.toNat ≤ 0x451 ∨ f.csr.toNat = 0x470)) :
    trapsWith h s b (.csrr h f) 7 ∧ trapsWith h s b (.csrw h f) 7 :=
  csr_traps (barRegs_eq_none _ (by omega)) (by omega) fun j => hp.elim
    (fun ⟨ha, hn⟩ => csrRead_array_priv hm hx j ha hn) (fun ⟨hd, hn⟩ => csrRead_debug_priv hm hx j hd hn)

/-- Values that TRCTL and TRBASE refuse (R285). -/
theorem csrw_traps_value (hv : f.csr.toNat = 0x460 ∧ (bitsAt (b.c.sl f.sa) 8 5 < 4 ∨ 24 < bitsAt (b.c.sl f.sa) 8 5) ∨
      f.csr.toNat = 0x461 ∧ bitsAt (b.c.sl f.sa) 0 6 ≠ 0) : trapsWith h s b (.csrw h f) 10 := by
  refine csrw_traps ?_
  rcases hv with ⟨hk, hv⟩ | ⟨hk, hv⟩ <;> rw [hk]
  · exact csrWrite_trctl_value hm hx hv
  · exact csrWrite_trbase_value hm hx hv

end
end

/-- Settles O17, instruction by instruction, and for CSRR and CSRW register by register. -/
theorem resourceResults : Obligations.ResourceResults := by
  intro h f s b n
  refine ⟨fun core g hb hw hf hn ha ho hr => grow_granted hb hw hf hn ha ho hr,
    fun core g hb hw hf ha hn => grow_refused hb hw hf hn ha,
    fun hb => ⟨issue_ok_of_begun hb rfl, rfl, rfl, under_of_mem_shrunk _ _⟩,
    fun hb => issue_ok_of_begun hb rfl,
    fun w v m k x => bprog_writeProg v,
    fun hb => issue_ok_of_begun hb rfl,
    fun v hb e => csrr_of_read hb e,
    fun t hb e => csrw_of_write e hb rfl, ?_⟩
  intro csr u w reads writes copies traps
  refine ⟨csrr_value csrRead_fstat, csrr_value csrRead_level, csrr_value csrRead_tvec, csrr_value csrRead_tepc,
    csrr_value csrRead_tcause, csrr_value csrRead_tval, csrr_value csrRead_tmask, csrr_value csrRead_tscr0, csrr_value csrRead_tscr1,
    fun core g hw => ⟨csrr_value fun j => ?gstat, csrw_of_write ?unfused⟩,
    csrw_issuer csrWrite_fstat fun x => ⟨rfl, fun j _ => get_putEach_clear _ _ _ j⟩,
    csrw_of_write csrWrite_tvec, csrw_of_write csrWrite_tepc, csrw_of_write csrWrite_tval, csrw_of_write csrWrite_tcause,
    csrw_issuer csrWrite_tscr0 fun x => ⟨rfl, fun j _ => get_putEach_copy _ _ _ j⟩,
    csrw_issuer csrWrite_tscr1 fun x => ⟨rfl, fun j _ => get_putEach_copy _ _ _ j⟩,
    csr_traps_absent,
    fun hn => csrw_traps (csrWrite_readOnly hn),
    fun m k x hm hx => ⟨csr_traps_priv hm hx, csrw_traps_value hm hx⟩⟩
  case gstat => rw [hw]; exact csrRead_gstat core g j
  case unfused => unfold csrwOf; rw [hw]; exact csrWrite_gstat core g

end Sys2Proof.Proofs
end

-- Proofs: slice-uniform division, bit operations, comparison and selection (O2, O3, O4)
section
/-! Groups 0 and 1 (R109 to R113): the bodies they share, then the statements put together from these. -/
namespace Sys2Proof.Proofs

open Sys2Proof Sys2Proof.Machine Sys2Proof.Safety Sys2Proof.Laws

section
variable {i : Instr} {h : Hdr} {s : State} {b : Begun}

/-- An instruction that sends a value to copies of an s register (R108). -/
theorem issue_putS_of_begun (hb : begun i h s = some b) (r : BitVec 6) (v : Cx → Nat → Dword) :
    issue i h (fun c s => .ok (c.putS r (v c) s)) s = b.putS r (v b.c) :=
  issue_ok_of_begun hb rfl

/-- An instruction whose result is an exact one of both operands (R109). -/
theorem issue_sInt_of_begun (hb : begun i h s = some b) (op : Int → Int → Int) (f : SFmt) :
    issue i h (sInt op f) s = b.putInt f (fun j => op (b.x f j) (b.y f j)) :=
  issue_putS_of_begun hb f.sd _

/-- An instruction whose result is a bitwise one of both operands (R109). -/
theorem issue_sBits_of_begun (hb : begun i h s = some b) (op : Dword → Dword → Dword) (f : SFmt) :
    issue i h (sBits op f) s = b.putInt f (fun j => ((op (b.c.s f.sa j) (b.c.srcB f j)).toNat : Int)) :=
  issue_putS_of_begun hb f.sd _

/-- A shift: of the first source reduced to the type, by the whole second source (R111). -/
theorem issue_sShift_of_begun (hb : begun i h s = some b) (op : Nat → Nat → Nat → Nat) (f : SFmt) :
    issue i h (sShift op f) s = b.putInt f (fun j =>
      ((op (tyBits f.ty.toNat) ((b.c.s f.sa j).toNat % 2 ^ tyBits f.ty.toNat) (b.c.srcB f j).toNat : Nat) : Int)) :=
  issue_putS_of_begun hb f.sd _

/-- An instruction whose result, of the first source reduced to the type, is not extended (R109, R112). -/
theorem issue_sPlain_of_begun (hb : begun i h s = some b) (op : Nat → Nat → Dword) (f : SFmt) :
    issue i h (sPlain op f) s = b.putS f.sd (fun j =>
      op (tyBits f.ty.toNat) ((b.c.s f.sa j).toNat % 2 ^ tyBits f.ty.toNat)) :=
  issue_putS_of_begun hb f.sd _

end

/-- Settles O2: both are exact results of both operands, a zero divisor being a case of the operation. -/
theorem scalarDivision : Obligations.ScalarDivision := by
  intro h f s b
  exact ⟨fun hb => issue_sInt_of_begun hb divT f, fun hb => issue_sInt_of_begun hb remT f⟩

/-- Settles O3, by the four kinds of body: bitwise, shift, a result that is not extended, and SBFI, which inserts into what its
destination holds. SSHL and SSHR test their amount on numbers, the statement on the integers that these are. -/
theorem scalarBitResults : Obligations.ScalarBitResults := by
  intro h f s b
  refine ⟨fun hb => issue_sBits_of_begun hb (fun x y => x &&& y) f,
    fun hb => issue_sBits_of_begun hb (fun x y => x ||| y) f,
    fun hb => issue_sBits_of_begun hb (fun x y => x ^^^ y) f,
    fun hb => issue_sBits_of_begun hb (fun x y => x &&& ~~~y) f,
    fun hb => (issue_sShift_of_begun hb shlW f).trans ?sshl,
    fun hb => (issue_sShift_of_begun hb shrW f).trans ?sshr,
    fun hb => issue_sShift_of_begun hb sarW f,
    fun hb => issue_sPlain_of_begun hb (fun w x => BitVec.ofNat 64 (popCount x w)) f,
    fun hb => issue_sPlain_of_begun hb (fun w x => BitVec.ofNat 64 (leadingZeros x w)) f,
    fun hb => issue_sPlain_of_begun hb (fun _ x => BitVec.ofInt 64 (fieldOf (f.ty.toNat < 4) x f.pos.toNat f.wid.toNat)) f,
    fun hb => issue_putS_of_begun hb f.sd _⟩
  case sshl => simp only [shlW, apply_ite (Nat.cast : Nat → Int), Int.cast_ofNat_Int]
  case sshr => simp only [shrW, apply_ite (Nat.cast : Nat → Int), Int.cast_ofNat_Int]

/-- The condition that the number of an `aux` field stands for, by the field itself (R113). -/
theorem condInt_toNat (aux : BitVec 4) (x y : Int) : condInt aux.toNat x y =
    if aux = 0 then x == y
    else if aux = 1 then x != y
    else if aux = 2 then decide (x < y)
    else if aux = 3 then decide (x ≤ y)
    else if aux = 4 then decide (x > y)
    else decide (x ≥ y) := by
  simp only [← BitVec.toNat_inj]
  rfl

/-- SCMP sends its condition on both operands to a flag (R113). -/
theorem scmp_of_begun {h : Hdr} {f : SFmt} {s : State} {b : Begun} (hb : begun (.scmp h f) h s = some b) :
    exec (.scmp h f) s = b.putC f.cx (fun j => condInt f.aux.toNat (b.x f j) (b.y f j)) :=
  issue_ok_of_begun hb rfl

/-- Settles O4: the condition of SCMP by its number, and the selection of SSEL as its body makes it. -/
theorem compareAndSelect : Obligations.CompareAndSelect := by
  intro h f s b
  refine ⟨fun hb => (scmp_of_begun hb).trans ?scmp,
    fun hb => issue_putS_of_begun hb f.sd (fun c j => if c.c f.cx j then c.s f.sa j else c.srcB f j)⟩
  case scmp => simp only [condInt_toNat]

end Sys2Proof.Proofs
end

-- Proofs: idling (O18)
section
/-! IDLE (R135): what it answers where it has nothing to wait for, and where its wait is over. -/
namespace Sys2Proof.Proofs

open Sys2Proof Sys2Proof.Machine Sys2Proof.Safety Sys2Proof.Laws

section
variable {h : Hdr} {f : DFmt} {s : State} {b : Begun} (hb : begun (.idle h f) h s = some b)
include hb

/-- A gang or stream that names no barrier and no time goes on at once. -/
theorem idle_nothing (hn : bitsSet (bitsAt f.imm 0 16) 16 = []) (hl : b.c.sl f.sa = 0) (hw : b.c.who.isSeq = false) :
    exec (.idle h f) s = .next (b.done b.s) := by
  refine issue_ok_of_begun hb ?_
  simp [hn, hl, hw]

/-- An IDLE that waits ends, its watches forgotten, when its time is over or a barrier that it watches has flipped. Where it names
neither there are no watches to forget. -/
theorem idle_ended {t0 : Nat} (hn : ∀ n ∈ bitsSet (bitsAt f.imm 0 16) 16, n < b.s.barCount b.c.who) (hf : b.c.fr.wait = .idle t0)
    (he : b.s.idleOver t0 (b.c.sl f.sa).toNat = true ∨ ∃ k ∈ (bitsSet (bitsAt f.imm 0 16) 16).map (b.s.barKey b.c.who 1 ·),
      ∃ e, b.s.arrOf k b.c.who (16 + b.c.entry) = some (.seen e)) :
    ∃ t, b.c.idleDone ((bitsSet (bitsAt f.imm 0 16) 16).map (b.s.barKey b.c.who 1 ·)) b.s = .ok t ∧
      exec (.idle h f) s = .next (b.done t) := by
  refine ⟨_, rfl, issue_ok_of_begun hb ?_⟩
  have hall : (bitsSet (bitsAt f.imm 0 16) 16).all (fun n => n < b.s.barCount b.c.who) = true := by simpa using hn
  simp only [hall, hf, Bool.not_true, Bool.false_eq_true, if_false]
  split
  next hnone =>
    simp only [Bool.and_eq_true, List.isEmpty_iff] at hnone
    obtain ⟨⟨hnil, -⟩, -⟩ := hnone
    simp only [hnil, List.map_nil, List.foldl_nil]
  next =>
    refine if_pos ?_
    rcases he with hover | ⟨k, hk, e, hseen⟩
    · rw [hover, Bool.true_or]
    · rw [List.any_eq_true.mpr ⟨k, hk, by rw [hseen]⟩, Bool.or_true]

end

/-- Settles O18. -/
theorem idleResults : Obligations.IdleResults := by
  intro h f s b ns bars
  exact ⟨idle_nothing, fun t0 hb hn hf he => idle_ended hb hn hf he⟩

end Sys2Proof.Proofs
end

-- Proofs: vector bits, moves, comparison and selection, and vector floating point (O7, O8)
section
/-! Groups 4 and 5 (R140 to R149, R151): the bodies that their instructions share, then the statements put together from these. -/
namespace Sys2Proof.Proofs

open Sys2Proof Sys2Proof.Machine Sys2Proof.Safety Sys2Proof.Laws

section
variable {i : Instr} {h : Hdr} {s : State} {b : Begun}

/-- An instruction whose elements are made of the bits of its sources, with no flags of its own (R140). -/
theorem issue_vBits_of_begun (hb : begun i h s = some b) (op : Nat → Nat → Nat → Nat → Nat) (f : VFmt) :
    issue i h (vBits op f) s = b.elems f 2 (fun x y z old => (op x y z old, 0)) := by
  unfold vBits
  exact issue_vElems_of_begun hb f 2 _

/-- An instruction on the values of floating-point elements, rounded in the mode that it names (R146). -/
theorem issue_vFp_of_begun (hb : begun i h s = some b) (lat : Nat) (op : Nat → Nat → Val → Val → Val → Nat × Nat) (f : VFmt) :
    issue i h (vFp lat op f) s = b.floats f lat (op f.ty.toNat f.rnd.toNat) := by
  unfold Begun.floats vFp
  exact issue_vElems_of_begun hb f lat _

end

/-- VSHL: a saturating shift clamps the exact product, the plain one drops what leaves the element (R141). -/
theorem vshl_of_begun {h : Hdr} {f : VFmt} {s : State} {b : Begun} (hb : begun (.vshl h f) h s = some b) :
    exec (.vshl h f) s = b.elems f 2 (fun x y _ _ =>
      if f.sat then clampInt f.ty.toNat (elemInt f.ty.toNat x * ((2 ^ Nat.min y (tyBits f.ty.toNat) : Nat) : Int))
      else (shlW (tyBits f.ty.toNat) x y, 0)) := by
  refine issue_ok_of_begun hb ?_
  cases f.sat
  case true => rfl
  case false => rfl

/-- Settles O7: most are made of the bits of each element; VSHL has a saturating form, and VSPL, VCMP and VSEL act lane by lane. -/
theorem vectorBitResults : Obligations.VectorBitResults := by
  intro h f s b w
  refine ⟨fun hb => ?vand, fun hb => ?vor, fun hb => ?vxor, fun hb => ?vandn, vshl_of_begun, fun hb => ?vshr, fun hb => ?vsar,
    fun hb => ?vpopc, fun hb => ?vclz, fun hb => ?vbfx, fun hb => ?vbfi, fun hb => ?vmov,
    fun hb => ?vspl, fun hb => ?vcmp, fun hb => ?vsel⟩
  case vspl | vcmp | vsel => exact issue_vec_of_begun hb 2 _
  all_goals exact issue_vBits_of_begun hb _ f

/-- Settles O8: sums, products and rounding act on the values of the elements, VFMIN and VFMAX on their codes; VFCMP, VFCLASS and
VFSCALE, whose result or second source is of another type, act lane by lane. -/
theorem vectorFloatResults : Obligations.VectorFloatResults := by
  intro h f s b ty rnd
  refine ⟨fun hb => ?vfadd, fun hb => ?vfsub, fun hb => ?vfmul, fun hb => ?vfma, fun hb => ?vfms, fun hb => ?vfnma,
    fun hb => ?vfmin, fun hb => ?vfmax, fun hb => ?vfrnd, fun hb => ?vftrunc, fun hb => ?vfcmp, fun hb => ?vfclass,
    fun hb => ?vfscale⟩
  case vfmin | vfmax => exact issue_vElems_of_begun hb f 4 _
  case vfcmp | vfclass | vfscale => exact issue_vec_of_begun hb 4 _
  all_goals exact issue_vFp_of_begun hb 4 _ f

end Sys2Proof.Proofs
end

-- Proofs: conversions and cross-lane instructions (O10, O11)
section
/-! Groups 6 and 7 (R152 to R162): conversions act lane by lane, and cross-lane instructions move values of other lanes. -/
namespace Sys2Proof.Proofs

open Sys2Proof Sys2Proof.Machine Sys2Proof.Safety Sys2Proof.Laws

/-- Settles O10: each acts lane by lane; VQUANT chooses its scale from all active lanes before it does. -/
theorem conversionResults : Obligations.ConversionResults := by
  intro h f s b ty src w sel byte
  refine ⟨fun hb => ?vcvt, fun hb => ?vpack, fun hb => ?vunpack, fun hb => ?vdeq, fun hb => ?vscale, fun hb => ?vquant⟩
  all_goals exact issue_vec_of_begun hb 4 _

section
variable {i : Instr} {h : Hdr} {s : State} {b : Begun}

/-- An instruction that gives each active lane a value of its type, with flags (R156). -/
theorem issue_xMove_of_begun (hb : begun i h s = some b) (f : VFmt) (g : Cx → Nat → Nat × Nat) :
    issue i h (fun c => xMove f (g c) c) s = b.crosses f (g b.c) :=
  issue_vec_of_begun hb 6 _

/-- An instruction that gives each active lane the value of a lane that it names, zero for one outside the fragment (R156). -/
theorem issue_xFrom_of_begun (hb : begun i h s = some b) (f : VFmt) (src : Cx → Nat → Nat) :
    issue i h (xFrom f src) s = b.crosses f (fun l => (b.c.xsrc f (src b.c l), 0)) :=
  issue_xMove_of_begun hb f _

end

/-- Settles O11: the quad instructions, VSHFL and VBCAST name the lane whose value each lane takes; VRED and VSCAN give values that
they make of all active lanes; VBALLOT writes an s register; VELECT and VCOMPACT act lane by lane. -/
theorem crossLaneResults : Obligations.CrossLaneResults := by
  intro h f s b ty aux src op
  refine ⟨fun hb => ?qswap, fun hb => ?qbcast, fun hb => ?vshfl, fun hb => ?vbcast, fun hb => ?vred, fun hb => ?vscan,
    fun hb => issue_ok_of_begun hb rfl, fun hb => ?velect, fun hb => ?vcompact⟩
  case qswap | qbcast | vshfl | vbcast => exact issue_xFrom_of_begun hb f _
  case vred | vscan => exact issue_xMove_of_begun hb f _
  case velect | vcompact => exact issue_vec_of_begun hb 6 _

end Sys2Proof.Proofs
end

-- Proofs: accesses of gangs and hints (O15, O16)
section
/-! Gang memory (R165 to R171, R176, R180, R183, R190): where an instruction of group 8 that has begun enters its accesses, then O15 and
O16 put together. -/
namespace Sys2Proof.Proofs

open Sys2Proof Sys2Proof.Machine Sys2Proof.Safety Sys2Proof.Laws

/-- A gang with a free log entry enters its accesses without waiting (R183). -/
theorem access_ok_of_freeLog {c : Cx} {core g : Nat} (hw : c.who = .gang core g) (hf : c.u.freeLog.isSome) (i : Instr) (kind : AccKind)
    (space width : Nat) (uni : Bool) (accs : List Acc) (s : State) : ∃ t, c.access i kind space width uni accs s = .ok t := by
  obtain ⟨n, hn⟩ := Option.isSome_iff_exists.mp hf
  unfold Cx.access
  simp only [hw, hn]
  by_cases ha : accs.isEmpty = true
  · exact ⟨s, if_pos ha⟩
  · exact ⟨_, if_neg ha⟩

/-- The access of a lane lies at its index, or at its lane offset where there is none (R165, R167). -/
theorem laneAccs_eq (c : Cx) (f : MFmt) (len : Nat) (data : Nat → Nat × Nat) :
    c.laneAccs f len data = c.act.map (fun l => Acc.lane1 l len (c.s f.sb (l / 4) + f.disp.signExtend 64
      + (if f.x then (c.v1 f.vi.toNat l).signExtend 64 else BitVec.ofNat 64 (len * l))) (data l).1 (data l).2) := by
  unfold Cx.laneAccs Cx.ea
  cases f.x
  case true => simp only [if_true, BitVec.ofNat_eq_ofNat, BitVec.add_zero]
  case false => simp only [Bool.false_eq_true, if_false, BitVec.ofNat_eq_ofNat, BitVec.add_zero]

section
variable {i : Instr} {h : Hdr} {s : State} {b : Begun} {core g : Nat}

/-- An instruction whose body is an access enters it in the log and ends its step (R183). -/
theorem logs_of_begun (hw : b.c.who = .gang core g) (hf : b.c.u.freeLog.isSome) (hb : begun i h s = some b) (kind : AccKind)
    (space width : Nat) (uni : Bool) (accs : Cx → List Acc) :
    b.logs (issue i h (fun c => c.access i kind space width uni (accs c)) s) i kind space width uni (accs b.c) :=
  have ⟨t, ht⟩ := access_ok_of_freeLog hw hf i kind space width uni (accs b.c) b.s
  ⟨t, ht, issue_ok_of_begun hb ht⟩

end

/-- Settles O15: each is one access with its lanes' or its slices' addresses and data. -/
theorem gangAccessResults : Obligations.GangAccessResults := by
  intro h f s b core g ty w lane data reg vt len hw hf
  have lanes (n : Nat) (d : Nat → Nat × Nat) : lane n d = b.c.laneAccs f n d := (laneAccs_eq b.c f n d).symm
  simp only [lanes]
  refine ⟨fun hb => ?vld, fun hb => ?vst, fun hb => ?vldx, fun hb => ?vstx, fun hb => ?fld, fun hb => ?fst, fun hb => ?vatom,
    fun hb => ?sld, fun hb => ?sst, fun hb => ?satom, fun hb => ?ladle⟩
  all_goals exact logs_of_begun hw hf hb _ _ _ _ (fun c => _)

/-- Settles O16: both bodies are done at once. -/
theorem ladleAndHintResults : Obligations.LadleAndHintResults :=
  fun _ _ _ _ => ⟨fun hb => issue_ok_of_begun hb rfl, fun hb => issue_ok_of_begun hb rfl⟩

end Sys2Proof.Proofs
end

-- Proofs: an owed halt stores its record (O57)
section
/-! Memory at the issue of an instruction (R183, R271, R281): a halt that a marker's load has matched waits with its fragment, and is
taken, with its HALT record, at a step for which no sieve is set any more. -/
namespace Sys2Proof.Proofs

open Sys2Proof Sys2Proof.Machine Sys2Proof.Laws

/-- A NOP under a true guard. -/
def plainNop : Instr := .nop ⟨false, 0⟩ ⟨0, 0, false, 0, 0, 0, 0, false, 0, 0, 0⟩

/-- A fragment of eight slices at PC 0 whose marker has committed a load that sieve 0 halts lane 0 for (R271). -/
def owingFrag : Frag :=
  { Frag.fresh 0 0xFFFFFFFF 0xFF with held := [[{ sv := 0, act := 2, lanes := [(0, 0)], pc := 0, mask := 1 }]] }

/-- Gang 0 of core 0 about to issue alone at PC 0: its fragment owes a halt, its core has no sieve set and keeps HALT records in a ring
of 16 at address 0, which its context may write. -/
def owingHalt : State :=
  { State.reset with
    cores := [(0, { Core.reset with
      ctx := some 0
      gangs := [(0, { Issuer.fresh 0 1 with frags := [(0, owingFrag)], alloc := 1 })]
      probe := { Probe.reset with trctl := 0x405 } })]
    dies := [(0, { Die.reset with tlb := [{ ctx := 0, va := 0, size := 12, pa := 0, rd := true, wr := true, ex := true }] })]
    cur := some { who := .gang 0 0, entry := 0, pc := 0, at_ := 0, next := 1, role := .single, lads := none } }

/-- The step takes the halt, whose record has KIND 5 in its byte 8 (R281, R282). -/
theorem haltRecord_of_owingHalt : (nextOr owingHalt (exec plainNop owingHalt)).mem.get 8 = 5 := by decide +kernel

/-- Refutes O57: gang 0 of `owingHalt` issues NOP with no sieve set, and the halt that its fragment owes stores a HALT record. -/
theorem not_issueKeepsMemory : ¬ Obligations.IssueKeepsMemory := by
  unfold Obligations.IssueKeepsMemory
  intro h
  have rec8 := haltRecord_of_owingHalt
  cases e : exec plainNop owingHalt with
  | next t =>
    have kept : t.mem.get 8 = 0 := h plainNop owingHalt t _ (.inl rfl) rfl rfl (fun n hn => by cases hn; rfl)
      (fun _ _ => ⟨nofun, nofun, fun hi => by simp [plainNop] at hi⟩) e 8
    rw [e, nextOr_next, kept] at rec8
    exact absurd rec8 (by decide)
  | fault f | refused f =>
    rw [e] at rec8
    exact absurd (show owingHalt.mem.get 8 = 5 from rec8) (by decide)

end Sys2Proof.Proofs
end

-- Proofs: the host debug port (O42)
section
/-! The host debug port, HCTL_CLR and LOGCTL_DROP (R186, R264, R276, R285, R477): what an operation of the port comes to, what each
operation does to a stopped gang, then O42 put together. -/
namespace Sys2Proof.Proofs

open Sys2Proof Sys2Proof.Machine Sys2Proof.Laws

/-! The end of an operation. -/

/-- The port of a core has answered STATUS `st` (R276, R477). -/
def portAnswers (core st : Nat) (t : State) : Prop :=
  (t.core core).port.busy = false ∧ (t.core core).port.dres.get 0 0 = fieldAt 56 st

section
variable (s : State) (core st : Nat) (v : Option Dword) (lanes : List (Nat × Word))

theorem portAnswers_portDone : portAnswers core st (s.portDone core st v lanes) := by
  unfold portAnswers State.portDone State.updPort
  rw [core_updCore]
  refine ⟨rfl, ?_⟩
  cases v with
  | none => exact get_put ..
  | some v => exact (get_put_ne _ _ _ (by decide)).trans (get_put ..)
@[simp] theorem portDone_gangs : ((s.portDone core st v lanes).core core).gangs = (s.core core).gangs := by
  unfold State.portDone State.updPort
  rw [core_updCore]
@[simp] theorem portDone_dres_value (x : Dword) : ((s.portDone core st (some x) lanes).core core).port.dres.get 1 0 = x := by
  unfold State.portDone State.updPort
  rw [core_updCore]
  exact get_put ..

end

/-! Which operation is performed. -/

section
variable {s : State} {core : Nat} (hb : (s.core core).port.busy = true) (hs : s.portSteps core = false)
include hb hs

/-- A word that is no debug word answers BADOP (R276). -/
theorem portBadop_answers (hw : (s.core core).port.op < 0x342 ∨ 0x346 < (s.core core).port.op ∨ (s.core core).port.plain = false) :
    ∃ t, exec (.portBadop core) s = .next t ∧ portAnswers core 7 t := by
  refine ⟨_, ?_, portAnswers_portDone s core dsBadOp none []⟩
  have bad : ((s.core core).port.op < 0x342 || 0x346 < (s.core core).port.op || !(s.core core).port.plain) = true := by
    simpa [or_assoc] using hw
  show execPortBadop core s = _
  simp only [execPortBadop, hb, hs, bad, Bool.not_false, Bool.and_self, if_true]

variable (hp : (s.core core).port.plain = true)
include hp

/-- A core without a context answers NODBG (R264). -/
theorem portOp_noContext (hc : (s.core core).ctx = none) {op : Nat} (ho : (s.core core).port.op = op) (body : State → State) :
    s.portOp core op body = s.portDone core 6 none [] := by
  simp only [State.portOp, hb, hs, hp, hc, ho, Bool.not_true, Bool.or_false, ne_eq, not_true, decide_false, Bool.false_eq_true, if_false]
  rfl

/-- The port of a context with DEBUG performs the operation that its word names (R264, R477). -/
theorem portOp_performed {n : Nat} (hc : (s.core core).ctx = some n) (hd : (s.ctxOf n).debug = true)
    (hl : (s.core core).port.legal = true) {op : Nat} (ho : (s.core core).port.op = op) (body : State → State) :
    s.portOp core op body = body s := by
  simp only [State.portOp, hb, hs, hp, hc, hd, hl, ho, Bool.not_true, Bool.or_false, ne_eq, not_true, decide_false,
    Bool.false_eq_true, if_false]

end

/-! What an operation finds. -/

section
variable {s : State} {core : Nat} {d : DbgOp}

theorem dbgGang_absent (hg : (s.core core).gangs.find d.gid = none) (me : Option Who) : s.dbgGang core me d.gid = .inl 3 := by
  simp only [State.dbgGang, hg]
  rfl

/-- The host is no gang of the core, so that it may inspect every one. -/
theorem dbgGang_host {u : Issuer} (hg : (s.core core).gangs.find d.gid = some u) : s.dbgGang core none d.gid = .inr u := by
  simp only [State.dbgGang, hg, reduceCtorEq, if_false]

/-- A DSTEP or DRUN that names no block finds no gang (R276). -/
theorem dbgTarget_absent (hg : (s.core core).gangs.find d.gid = none) (hi : bitAt d.imm 23 = false) (me : Option Who) (k : Option Nat) :
    s.dbgTarget core me d k = .inl 3 := by
  simp only [State.dbgTarget, hi, dbgGang_absent hg, Bool.false_eq_true, if_false]

/-- A DSTEP or DRUN that names a fragment in STATE 5 releases it (R278). -/
theorem dbgTarget_fragment {u : Issuer} (hg : (s.core core).gangs.find d.gid = some u) (h21 : bitAt d.imm 21 = false)
    (h22 : bitAt d.imm 22 = false) (h23 : bitAt d.imm 23 = false) (ht : bitsAt d.imm 16 5 < 8)
    (hh : (u.frag (bitsAt d.imm 16 5)).st = .halted) (k : Option Nat) :
    s.dbgTarget core none d k = .inr (.gang core d.gid, bitsAt d.imm 16 5, u.release (bitsAt d.imm 16 5) k) := by
  simp only [State.dbgTarget, h21, h22, h23, dbgGang_host hg, ht, hh, beq_self_eq_true, and_self, Bool.false_eq_true, if_false, if_true]

end

/-- The value that DSTAT answers of a gang, by its class (R277, R280). -/
def dstatValue (u : Issuer) (imm : BitVec 32) : Dword :=
  let item := (u.frag (bitsAt imm 0 4)).item
  if bitsAt imm 12 4 = 0 then (if bitAt imm 4 then item.extractLsb' 64 64 else item.setWidth 64)
  else if bitsAt imm 12 4 = 1 then (match u.haltPc.find (bitsAt imm 0 5) with
    | none => 0
    | some pc => fieldAt 63 1 ||| pc.setWidth 64)
  else u.gdbg

theorem dstat_host {s : State} {core : Nat} {d : DbgOp} {u : Issuer} (hg : (s.core core).gangs.find d.gid = some u) :
    s.dstat core none d = { st := 0, val := dstatValue u d.imm, lanes := [] } := by
  simp only [State.dstat, dbgGang_host hg]
  rfl

/-! Fragments that go on (R93, R278). -/

section
variable {u : Issuer} {e : Nat} (he : e < 8) (hh : (u.frag e).st = .halted) (k : Option Nat)
include he hh

/-- The entry of a fragment in STATE 5 is listed, and its release changes it (R278). -/
theorem release_eq_updFrag : u.release e k = u.updFrag e (fun f => { f with st := .eligible, why := .none, stepsLeft := k }) := by
  have hf : u.frag e = (u.frags.find e).getD Frag.none := get_eq_find ..
  have he' : e < 16 := by omega
  cases h : u.frags.find e with
  | none => rw [hf, h] at hh; cases hh
  | some f => simp [Issuer.release, Issuer.updAt, Issuer.updFrag, he', hf, h]
theorem find_release : (u.release e k).frags.find e = some { u.frag e with st := .eligible, why := .none, stepsLeft := k } := by
  rw [release_eq_updFrag he hh]
  exact find_put ..
theorem frag_release : (u.release e k).frag e = { u.frag e with st := .eligible, why := .none, stepsLeft := k } := by
  rw [release_eq_updFrag he hh, frag_updFrag]
theorem frag_release_ne {n : Nat} (hn : n ≠ e) : (u.release e k).frag n = u.frag n := by
  rw [release_eq_updFrag he hh, frag_updFrag_ne _ _ hn]

end

/-- What a key of a table reads as stands in the table. -/
theorem mem_of_find {κ α : Type} [DecidableEq κ] {t : Tab κ α} {k : κ} {v : α} (h : Tab.find t k = some v) : (k, v) ∈ t := by
  induction t with
  | nil => cases h
  | cons p r ih =>
    obtain ⟨j, w⟩ := p
    by_cases hj : j = k
    · simp only [Tab.find, hj, if_true, Option.some.injEq] at h
      simp [hj, h]
    · simp only [Tab.find, hj, if_false] at h
      exact List.mem_cons_of_mem _ (ih h)

/-- A fragment that may issue without limit holds off the release of REGANG (R93). -/
theorem regang_eq_self {u : Issuer} {e : Nat} {f : Frag} (hf : u.frags.find e = some f) (hs : f.st = .eligible)
    (hk : f.stepsLeft = none) : u.regang = u := by
  have here : (e, f) ∈ u.atRegang := by
    simp [Issuer.atRegang, mem_of_find hf, hs, hk]
  have held : u.atRegang.all (fun p => p.2.st == FragSt.parked) = false :=
    List.all_eq_false.mpr ⟨_, here, by simp [hs]⟩
  simp only [Issuer.regang, held, Bool.not_false, Bool.or_true, if_true]

/-- Where no fragment is released, the release test leaves the inserts too (R95). -/
theorem stateRegang_eq_of_regang {s : State} {w : Who} {u : Issuer} (hu : s.issuer w = some u) (h : u.regang = u) :
    s.regang w = s.updIssuer w (fun _ => u) := by
  have same : (u.dbgFrag.isSome && u.dbgFrag.isNone) = false := by cases u.dbgFrag <;> rfl
  simp only [State.regang, hu, h, same, Bool.false_eq_true, if_false]

/-! The operations on a stopped gang. -/

theorem find_gangs_updIssuer {s : State} {core g : Nat} {u : Issuer} (hg : (s.core core).gangs.find g = some u) (f : Issuer → Issuer) :
    ((s.updIssuer (.gang core g) f).core core).gangs.find g = some (f u) := by
  have h : s.issuer (.gang core g) = some u := hg
  exact (issuer_updIssuer s (.gang core g) f).trans (congrArg _ h)

/-- DPUT of an s register of a stopped slice, with nothing on its way to it (R275, R277). -/
theorem dput_s {s : State} {core : Nat} {d : DbgOp} {u : Issuer} (hg : (s.core core).gangs.find d.gid = some u) (hc : d.cls = 1)
    (hn : d.num ≠ 0) (hstop : u.sliceStopped d.slice = true) (hpend : s.pending core d.gid u 1 d.num [d.slice] = false) (v : Dword)
    (lanes : Nat → Word) :
    s.dput core none d v lanes = (0, s.updIssuer (.gang core d.gid) (fun u => u.landAll [.s d.slice d.num v])) := by
  have open_ : u.dbgBlocked d true = dsOk := by
    simp only [Issuer.dbgBlocked, hc, hstop, hn]
    rfl
  simp [State.dput, dbgGang_host hg, open_, hc, hpend, dsOk]
theorem rdS_landAll_s (u : Issuer) {r : Nat} (hr : r ≠ 0) (j : Nat) (v : Dword) : (u.landAll [.s j r v]).rdS r j = v := by
  simp [Issuer.landAll, Issuer.land, Issuer.rdS, hr]

section
variable {s : State} {core : Nat} {d : DbgOp} {u : Issuer} (hg : (s.core core).gangs.find d.gid = some u)
  (h21 : bitAt d.imm 21 = false) (h22 : bitAt d.imm 22 = false) (h23 : bitAt d.imm 23 = false) (ht : bitsAt d.imm 16 5 < 8)
  (hh : (u.frag (bitsAt d.imm 16 5)).st = .halted)
include hg h21 h22 h23 ht hh

/-- DRUN of a fragment in STATE 5 releases it and does no more: what may issue holds off every REGANG (R93, R278). -/
theorem drun_fragment : ∃ t, s.drun core none d = (0, t) ∧ t.mem = s.mem ∧
    (t.core core).gangs.find d.gid = some (u.release (bitsAt d.imm 16 5) none) := by
  let v := u.release (bitsAt d.imm 16 5) none
  have hv : ((s.updIssuer (.gang core d.gid) (fun _ => v)).core core).gangs.find d.gid = some v := find_gangs_updIssuer hg _
  have stays : v.regang = v := regang_eq_self (find_release ht hh none) rfl rfl
  refine ⟨_, ?_, drun_mem s core none d, ?_⟩
  · simp only [State.drun, dbgTarget_fragment hg h21 h22 h23 ht hh]
    rfl
  · simp only [State.drun, dbgTarget_fragment hg h21 h22 h23 ht hh]
    rw [stateRegang_eq_of_regang (w := .gang core d.gid) (u := v) hv stays]
    exact find_gangs_updIssuer hv _

/-- DSTEP of a fragment in STATE 5 releases it for its steps (R278). -/
theorem dstep_fragment (by_ : Who) (tag sd : Nat) (sm : BitVec 8) : ∃ t v, s.dstep core none d by_ tag sd sm = .inr t ∧
    (t.core core).gangs.find d.gid = some v ∧ v.frags = (u.release (bitsAt d.imm 16 5) (some (bitsAt d.imm 0 16))).frags := by
  simp only [State.dstep, dbgTarget_fragment hg h21 h22 h23 ht hh]
  exact ⟨_, _, rfl, find_gangs_updIssuer hg _, rfl⟩

end

/-! What each operation answers. -/

/-- The operations of a port, each with the opcode of the words that ask for it (R264, R477). -/
def portOps (core : Nat) : List (Instr × Nat) :=
  [(.portDget core, 0x342), (.portDput core, 0x343), (.portDstep core, 0x344), (.portDrun core, 0x345), (.portDstat core, 0x346)]

section
variable {s : State} {core n : Nat} (hb : (s.core core).port.busy = true) (hs : s.portSteps core = false)
  (hp : (s.core core).port.plain = true)
include hb hs hp

/-- Without a context every operation answers NODBG. -/
theorem portOps_answer_noContext (hc : (s.core core).ctx = none) : ∀ x ∈ portOps core, (s.core core).port.op = x.2 →
    ∃ t, exec x.1 s = .next t ∧ portAnswers core 6 t := by
  intro x hx ho
  refine ⟨_, ?_, portAnswers_portDone s core 6 none []⟩
  simp only [portOps, List.mem_cons, List.not_mem_nil, or_false] at hx
  rcases hx with rfl | rfl | rfl | rfl | rfl
  all_goals exact congrArg _ (portOp_noContext hb hs hp hc ho _)

variable (hl : (s.core core).port.legal = true) (hc : (s.core core).ctx = some n) (hd : (s.ctxOf n).debug = true)
include hl hc hd

/-- For a gang that is not there every operation on a gang answers NOGANG. -/
theorem portOps_answer_noGang (hg : (s.core core).gangs.find (s.core core).port.dbg.gid = none) : ∀ x ∈ portOps core,
    (s.core core).port.op = x.2 → (0x344 ≤ (s.core core).port.op → (s.core core).port.op ≤ 0x345 →
    bitAt (s.core core).port.dbg.imm 23 = false) → ∃ t, exec x.1 s = .next t ∧ portAnswers core 3 t := by
  intro x hx ho h23
  refine ⟨_, ?_, portAnswers_portDone s core 3 none []⟩
  have noGang := dbgGang_absent hg none
  simp only [portOps, List.mem_cons, List.not_mem_nil, or_false] at hx
  rcases hx with rfl | rfl | rfl | rfl | rfl
  all_goals refine congrArg _ ((portOp_performed hb hs hp hc hd hl ho _).trans ?_)
  · simp only [State.dget, noGang]
    rfl
  · simp only [State.dput, noGang]
  · simp only [State.dstep, dbgTarget_absent hg (h23 (by omega) (by omega))]
  · simp only [State.drun, dbgTarget_absent hg (h23 (by omega) (by omega))]
  · simp only [State.dstat, noGang]
    rfl

variable {u : Issuer} (hg : (s.core core).gangs.find (s.core core).port.dbg.gid = some u)

theorem portDget_answers (ho : (s.core core).port.op = 0x342) : ∃ t, exec (.portDget core) s = .next t ∧
    portAnswers core (s.dget core none (s.core core).port.dbg).st t ∧ t.mem = s.mem ∧
    ((s.dget core none (s.core core).port.dbg).st = 0 → (s.dget core none (s.core core).port.dbg).lanes = [] →
      (t.core core).port.dres.get 1 0 = (s.dget core none (s.core core).port.dbg).val) := by
  refine ⟨_, congrArg Host.Outcome.next (portOp_performed hb hs hp hc hd hl ho _), portAnswers_portDone .., portDone_mem ..,
    fun h0 hn => ?_⟩
  simp only [h0, hn, dsOk, List.isEmpty_nil, and_self, if_true, portDone_dres_value]

include hg

theorem portDstat_answers (ho : (s.core core).port.op = 0x346) : ∃ t, exec (.portDstat core) s = .next t ∧ portAnswers core 0 t ∧
    t.mem = s.mem ∧ (t.core core).gangs = (s.core core).gangs ∧
    (t.core core).port.dres.get 1 0 = dstatValue u (s.core core).port.dbg.imm := by
  refine ⟨s.portDone core 0 (some (dstatValue u (s.core core).port.dbg.imm)) [], ?_, portAnswers_portDone .., portDone_mem ..,
    portDone_gangs .., portDone_dres_value ..⟩
  refine congrArg _ ((portOp_performed hb hs hp hc hd hl ho _).trans ?_)
  simp only [dstat_host hg]
  rfl

theorem portDput_answers (ho : (s.core core).port.op = 0x343) (h1 : (s.core core).port.dbg.cls = 1) (h0 : (s.core core).port.dbg.num ≠ 0)
    (hstop : u.sliceStopped (s.core core).port.dbg.slice = true)
    (hpend : s.pending core (s.core core).port.dbg.gid u 1 (s.core core).port.dbg.num [(s.core core).port.dbg.slice] = false) :
    ∃ t v, exec (.portDput core) s = .next t ∧ portAnswers core 0 t ∧
      (t.core core).gangs.find (s.core core).port.dbg.gid = some v ∧
      v.rdS (s.core core).port.dbg.num (s.core core).port.dbg.slice = (s.core core).port.darg.get 0 0 := by
  refine ⟨_, _, congrArg Host.Outcome.next (portOp_performed hb hs hp hc hd hl ho _), ?_, ?_, rdS_landAll_s u h0 _ _⟩
  · simp only [dput_s hg h1 h0 hstop hpend, portAnswers_portDone]
  · simp only [dput_s hg h1 h0 hstop hpend, portDone_gangs, find_gangs_updIssuer hg]

variable (h21 : bitAt (s.core core).port.dbg.imm 21 = false) (h22 : bitAt (s.core core).port.dbg.imm 22 = false)
  (h23 : bitAt (s.core core).port.dbg.imm 23 = false) (ht : bitsAt (s.core core).port.dbg.imm 16 5 < 8)
  (hh : (u.frag (bitsAt (s.core core).port.dbg.imm 16 5)).st = .halted)
include h21 h22 h23 ht hh

theorem portDrun_releases (ho : (s.core core).port.op = 0x345) : ∃ t, exec (.portDrun core) s = .next t ∧ portAnswers core 0 t ∧
    t.mem = s.mem ∧ (t.core core).gangs.find (s.core core).port.dbg.gid
      = some (u.release (bitsAt (s.core core).port.dbg.imm 16 5) none) := by
  obtain ⟨t, run, mem, gang⟩ := drun_fragment hg h21 h22 h23 ht hh
  refine ⟨t.portDone core 0 none [], ?_, portAnswers_portDone .., ?_, ?_⟩
  · refine congrArg _ ((portOp_performed hb hs hp hc hd hl ho _).trans ?_)
    simp only [run]
  · rw [portDone_mem, mem]
  · rw [portDone_gangs, gang]

theorem portDstep_releases (ho : (s.core core).port.op = 0x344) : ∃ t v, exec (.portDstep core) s = .next t ∧
    (t.core core).gangs.find (s.core core).port.dbg.gid = some v ∧
    v.frags = (u.release (bitsAt (s.core core).port.dbg.imm 16 5) (some (bitsAt (s.core core).port.dbg.imm 0 16))).frags := by
  obtain ⟨t, v, step, gang, frags⟩ := dstep_fragment hg h21 h22 h23 ht hh (.stream core 0) 0 0 0
  refine ⟨t, v, congrArg _ ((portOp_performed hb hs hp hc hd hl ho _).trans ?_), gang, frags⟩
  simp only [step]

end

/-- HCTL_CLR zeroes the histograms of its core (R285). -/
theorem hctlClr_histograms (s : State) (core : Nat) : ∃ t, exec (.hctlClr core) s = .next t ∧ (t.core core).probe.histe = [] ∧
    (t.core core).probe.histr = [] ∧ t.mem = s.mem := by
  refine ⟨_, rfl, ?_, ?_, rfl⟩
  all_goals
    unfold State.updProbe
    rw [core_updCore]
    rfl

/-- LOGCTL_DROP counts while a handler for a log fault runs, and leaves the log (R182, R186). -/
theorem logctlDrop_drops {s : State} {core g : Nat} {u : Issuer} (hg : (s.core core).gangs.find g = some u) (hf : u.logFlt = true) :
    ∃ t v, exec (.logctlDrop core g) s = .next t ∧ (t.core core).gangs.find g = some v ∧ v.logDropped = true ∧ v.log = u.log :=
  ⟨_, _, rfl, find_gangs_updIssuer hg _, by simp only [Issuer.logDrop, hf, if_true], by simp only [Issuer.logDrop, hf, if_true]⟩

/-- Settles O42, operation by operation. -/
theorem debugPortEvents : Obligations.DebugPortEvents := by
  intro s core p ends ops
  refine ⟨fun hb hs => ⟨portBadop_answers hb hs, fun hp hc => portOps_answer_noContext hb hs hp hc, fun n hp hl hc hd =>
    ⟨fun hg => portOps_answer_noGang hb hs hp hl hc hd hg, fun u hg => ⟨?dget, ?dstat, ?dput, ?drun, ?dstep⟩⟩⟩,
    hctlClr_histograms s core, fun g u => logctlDrop_drops⟩
  case dget =>
    intro ho
    obtain ⟨t, e, ans, mem, val⟩ := portDget_answers hb hs hp hl hc hd ho
    exact ⟨⟨t, e, ans⟩, t, e, mem, val⟩
  case dstat =>
    intro ho
    obtain ⟨t, e, ans, mem, gangs, val⟩ := portDstat_answers hb hs hp hl hc hd hg ho
    exact ⟨⟨t, e, ans⟩, t, e, mem, gangs, val⟩
  case dput =>
    intro ho h1 h0 hstop hpend
    obtain ⟨t, v, e, ans, gang, val⟩ := portDput_answers hb hs hp hl hc hd hg ho h1 h0 hstop hpend
    exact ⟨⟨t, e, ans⟩, t, v, e, gang, val⟩
  case drun =>
    intro ho h21 h22 h23 ht hh
    obtain ⟨t, e, ans, mem, gang⟩ := portDrun_releases hb hs hp hl hc hd hg h21 h22 h23 ht hh ho
    have here := frag_release ht hh none
    exact ⟨⟨t, e, ans⟩, t, _, e, mem, gang, by rw [here], by rw [here],
      by rw [release_eq_updFrag ht hh]; rfl, by rw [release_eq_updFrag ht hh]; rfl, fun k hk => frag_release_ne ht hh none hk⟩
  case dstep =>
    intro ho h21 h22 h23 ht hh
    obtain ⟨t, v, e, gang, frags⟩ := portDstep_releases hb hs hp hl hc hd hg h21 h22 h23 ht hh ho
    have here : v.frag (bitsAt p.dbg.imm 16 5) = _ := (congrArg (fun f => Tab.get f _ Frag.none) frags).trans (frag_release ht hh _)
    exact ⟨t, v, e, gang, by rw [here], by rw [here]⟩

end Sys2Proof.Proofs
end

-- Proofs: the host link, memory errors, power, boot and the time base (O41)
section
/-! The host link, memory errors, power, boot, the host registers and the time base (R188, R393, R404, R406, R410, R421, R423, R424):
one part after the other, then O41 put together. -/
namespace Sys2Proof.Proofs

open Sys2Proof Sys2Proof.Machine Sys2Proof.Safety Sys2Proof.Laws

/-! Stores under the key that package memory is under already. -/

/-- Every line of package memory that has been written was written under `key` (R405). -/
def keyedBy (s : State) (key : Nat) : Prop := ∀ l, s.lineKey.find l = none ∨ s.lineKey.find l = some key

section
variable {s : State} {key : Nat}

theorem rekey_mem_of_keyedBy (h : keyedBy s key) (line : Nat) : (s.rekey key line).mem = s.mem := by
  unfold State.rekey
  rcases h line with e | e
  · rw [e]
  · simp only [e, if_true]
theorem keyedBy_rekey (h : keyedBy s key) (line : Nat) : keyedBy (s.rekey key line) key := fun l => by
  by_cases e : l = line
  · exact .inr (e ▸ lineKey_rekey s key line)
  · rw [lineKey_rekey_ne s key e]
    exact h l
theorem rekeys_mem_of_keyedBy (h : keyedBy s key) (ls : List Nat) : (ls.foldl (fun s l => s.rekey key l) s).mem = s.mem := by
  induction ls generalizing s with
  | nil => rfl
  | cons l r ih => rw [List.foldl_cons, ih (keyedBy_rekey h l), rekey_mem_of_keyedBy h]

/-- A store under the key of all that stands stores its bytes and no more (R405). -/
theorem pkgStore_mem_of_keyedBy (h : keyedBy s key) (a : Nat) (bs : List Byte) : (s.pkgStore key a bs).mem = s.mem.write a bs :=
  congrArg (fun m : Memory => m.write a bs) (rekeys_mem_of_keyedBy h _)

end

@[simp] theorem rekey_answers (s : State) (key line : Nat) : (s.rekey key line).answers = s.answers := by
  unfold State.rekey
  split
  · split <;> rfl
  · rfl
@[simp] theorem sysStore_answers (s : State) (a : Nat) (bs : List Byte) : (s.sysStore a bs).answers = s.answers :=
  List.foldlRecOn (motive := fun t : State => t.answers = s.answers) _ _ rfl fun t ht l _ => (rekey_answers t 0 l).trans ht

/-- The bytes of package memory after a store of the package that lies within it (R404, R405). -/
theorem get_sysStore_of_keyedBy {s : State} (hm : memoryCanonical s) (hk : keyedBy s 0) {a : Nat} {bs : List Byte}
    (ha : a + bs.length ≤ Config.packageBytes) (x : Nat) :
    (s.sysStore a bs).mem.get x = if a ≤ x ∧ x < a + bs.length then bs.getD (x - a) 0 else s.mem.get x := by
  rw [State.sysStore, List.take_of_length_le (by omega), pkgStore_mem_of_keyedBy hk, get_write _ _ _ hm]

/-! The host's accesses to package memory (R404 to R406, R421). -/

/-- What the host reaches lies below the end of package memory. -/
theorem le_packageBytes_of_reached {n : Nat} (h : n ≤ Config.reservedBase) : n ≤ Config.packageBytes :=
  Nat.le_trans h (by decide)

section
variable {s : State} (hs : s.stopped = false) (hr : s.recovery = false ∨ s.linkMode = 2)
include hs hr

/-- Out of retention, and in recovery over PCIe, the link carries accesses (R421, R423). -/
theorem linkCarries : (s.stopped || (s.recovery && s.linkMode ≠ 2)) = false := by
  rcases hr with h | h <;> simp [hs, h]

theorem hostRead_answers {a n : Nat} (ha : a + n ≤ Config.reservedBase) (hp : s.poisoned a n = false) :
    exec (.hostMemoryAccess (.read a n)) s = .next { s with answers := s.answers ++ [0 :: s.sysRead a n] } := by
  show execHostMemoryAccess (.read a n) s = _
  simp only [execHostMemoryAccess, linkCarries hs hr, Bool.false_eq_true, if_false, State.hostAnswer, hostReaches, ha, hp, decide_true,
    Bool.false_and, if_true]

/-- A write of the host that ends in the reserved region is only logged (R421, R422). -/
theorem hostWrite_logged {a : Nat} {bs : List Byte} (ha : Config.reservedBase < a + bs.length) :
    exec (.hostMemoryAccess (.write a bs)) s = .next (s.logPkg a 0 10 1 0) := by
  show execHostMemoryAccess (.write a bs) s = _
  simp only [execHostMemoryAccess, linkCarries hs hr, Bool.false_eq_true, if_false, hostReaches, Nat.not_le.mpr ha, decide_false]

theorem hostWrite_stores (hm : memoryCanonical s) {a : Nat} {bs : List Byte} (ha : a + bs.length ≤ Config.reservedBase)
    (hk : keyedBy s 0) : ∃ t, exec (.hostMemoryAccess (.write a bs)) s = .next t ∧
      (∀ i, i < bs.length → t.mem.get (a + i) = bs.getD i 0) ∧
      (∀ x, x < a ∨ a + bs.length ≤ x → t.mem.get x = s.mem.get x) := by
  have stored := get_sysStore_of_keyedBy hm hk (le_packageBytes_of_reached ha)
  refine ⟨s.sysStore a bs, ?_, fun i hi => ?_, fun x hx => ?_⟩
  · show execHostMemoryAccess (.write a bs) s = _
    simp only [execHostMemoryAccess, linkCarries hs hr, Bool.false_eq_true, if_false, hostReaches, ha, decide_true, if_true]
  · rw [stored, if_pos (by omega), Nat.add_sub_cancel_left]
  · rw [stored, if_neg (by omega)]

theorem hostFetchAdd_stores (hm : memoryCanonical s) {a : Nat} (v : BitVec 64) (ha : a + 8 ≤ Config.reservedBase)
    (hp : s.poisoned a 8 = false) (hk : keyedBy s 0) :
    ∃ t, exec (.hostMemoryAccess (.fetchAdd a v)) s = .next t ∧ t.answers = s.answers ++ [0 :: s.sysRead a 8] ∧
      (∀ i, i < 8 → t.mem.get (a + i) = BitVec.ofNat 8 ((s.sysWord a + v.toNat) % 2 ^ 64 / 256 ^ i)) ∧
      (∀ x, x < a ∨ a + 8 ≤ x → t.mem.get x = s.mem.get x) := by
  have stored := get_sysStore_of_keyedBy (s := s.hostAnswer a 8) (bs := bytesOf ((s.sysWord a + v.toNat) % 2 ^ 64) 8) hm hk
    (le_packageBytes_of_reached (by simpa using ha))
  simp only [length_bytesOf, hostAnswer_mem] at stored
  refine ⟨(s.hostAnswer a 8).sysStore a (bytesOf ((s.sysWord a + v.toNat) % 2 ^ 64) 8), ?_, ?_, fun i hi => ?_, fun x hx => ?_⟩
  · show execHostMemoryAccess (.fetchAdd a v) s = _
    simp only [execHostMemoryAccess, linkCarries hs hr, Bool.false_eq_true, if_false, hostReaches, ha, hp, decide_true, Bool.not_true]
  · simp only [sysStore_answers, State.hostAnswer, hostReaches, ha, hp, decide_true, Bool.false_and, Bool.false_eq_true, if_false, if_true]
  · rw [stored, if_pos (by omega), Nat.add_sub_cancel_left, getD_bytesOf _ _ _ hi]
  · rw [stored, if_neg (by omega)]

end

/-- A counter of 16 bits stays at its greatest number. -/
theorem satAt_sixteen (n : Nat) : satAt 16 n = Nat.min 65535 n := by
  show (if n < 65536 then n else 65535) = min 65535 n
  split <;> omega

/-! Uncorrectable errors and scrubbing (R188, R406). -/

theorem mem_poison_setPoison (s : State) (g : Nat) : g ∈ (s.setPoison g).poison := by
  unfold State.setPoison
  split
  next h => simpa using h
  · exact List.mem_cons_self
@[simp] theorem logDie_poison (s : State) (d addr ctx src kind info : Nat) : (s.logDie d addr ctx src kind info).poison = s.poison := rfl
@[simp] theorem logDie_core (s : State) (d addr ctx src kind info n : Nat) : (s.logDie d addr ctx src kind info).core n = s.core n := rfl
@[simp] theorem logCell_poison (s : State) (k : Nat) : (s.logCell k).poison = s.poison := by
  simp only [State.logCell]
  repeat' split
  all_goals simp

/-- An error in a memory poisons its granule and changes no byte. -/
theorem uncorrectableCell_poisons (s : State) {k : Nat} (hk : isMemory k = true) :
    ∃ t, exec (.uncorrectableError (.cell k)) s = .next t ∧ t.mem = s.mem ∧ k / 64 ∈ t.poison := by
  refine ⟨(s.setPoison (k / 64)).logCell k, ?_, by simp, ?_⟩
  · exact congrArg Host.Outcome.next (if_pos hk)
  · rw [logCell_poison]
    exact mem_poison_setPoison ..

/-- An error in a tile poisons its row. -/
theorem uncorrectableRow_poisons (s : State) {core tile row : Nat} (hc : core < 256) (ht : tile < 8) (hr : row < 64) :
    ∃ t, exec (.uncorrectableError (.tileRow core tile row)) s = .next t ∧ t.mem = s.mem ∧
      64 * tile + row ∈ (t.core core).zpoison := by
  refine ⟨_, congrArg Host.Outcome.next (if_neg (by simp; omega)), by simp, ?_⟩
  dsimp only
  rw [logDie_core, core_updCore]
  split
  next h => simpa using h
  · exact List.mem_cons_self

theorem scrub_counts (s : State) {stack n : Nat} (hst : stack < 12) (hn : (s.ecccor.get stack 0).toNat + n < 2 ^ 32) :
    ∃ t, exec (.scrub stack n) s = .next t ∧ (t.ecccor.get stack 0).toNat = (s.ecccor.get stack 0).toNat + n ∧ t.mem = s.mem := by
  refine ⟨_, if_neg (by omega), ?_, rfl⟩
  dsimp only
  rw [get_put, satAt, if_pos hn, BitVec.toNat_ofNat, Nat.mod_eq_of_lt hn]

/-! Power (R424). -/

section
variable {s : State} (hp : s.power < 2)
include hp

theorem railAlarm_lowers : exec (.railAlarm true) s = .next { s with clockStep := s.clockStep + 1, power := 1 } :=
  if_neg (by omega)
theorem railAlarm_raises (hc : s.clockStep = 1) : exec (.railAlarm false) s = .next { s with clockStep := 0, power := 0 } := by
  refine (if_neg (by omega)).trans ?_
  simp [hc]
theorem idleGating_gates (hb : ∀ n < 256, (s.core n).blocks = []) : exec .idleGating s = .next { s with power := 2 } := by
  refine if_pos ?_
  have idle : (List.range 256).all (fun n => (s.core n).blocks.isEmpty) = true :=
    List.all_eq_true.mpr fun n hn => List.isEmpty_iff.mpr (hb n (List.mem_range.mp hn))
  simp only [idle, hp, decide_true, Bool.and_self]

end

/-! Boot and the link (R421, R423). -/

/-- A table made of its keys, one after the other. -/
theorem find_map_range {α : Type} (f : Nat → α) (n k i : Nat) :
    Tab.find ((List.range' k n).map (fun j => (j, f j))) i = if k ≤ i ∧ i < k + n then some (f i) else none := by
  induction n generalizing k with
  | zero => exact (if_neg (by omega)).symm
  | succ n ih =>
    rw [List.range'_succ, List.map_cons, Tab.find]
    by_cases h : k = i
    · subst h
      simp
    · have same : (k + 1 ≤ i ∧ i < k + 1 + n) = (k ≤ i ∧ i < k + (n + 1)) := propext (by omega)
      rw [if_neg h, ih]
      simp only [same]

/-- A reset counts one more boot in each measurement register (R423). -/
theorem packageReset_measures (s : State) (boots : Bool) : ∃ t, exec (.packageReset boots) s = .next t ∧
    t = { State.reset with
      measure := t.measure, recovery := !boots, suspst := (if boots then 0 else 4)
      agenda := s.agenda, nextKey := s.nextKey, draws := s.draws, nextId := s.nextId } ∧
    t.measure.length = 8 ∧ ∀ i < 8, t.measure.get i 0 = s.measure.get i 0 + 1 := by
  refine ⟨_, rfl, rfl, rfl, fun i hi => ?_⟩
  rw [get_eq_find, List.range_eq_range', find_map_range (fun i => s.measure.get i 0 + 1), if_pos (by omega)]
  rfl

theorem spdmRequest_answers (s : State) (code : BitVec 8) :
    ∃ t a, exec (.spdmRequest code) s = .next t ∧ t.answers = s.answers ++ [a] ∧ t.mem = s.mem := by
  show ∃ t a, execSpdmRequest code s = _ ∧ _
  unfold execSpdmRequest
  dsimp only
  split
  · exact ⟨_, _, rfl, rfl, rfl⟩
  · exact ⟨_, _, rfl, rfl, rfl⟩

theorem hostLinkTraining_sets (s : State) {mode width : Nat} (hm : mode ≤ 2) (hw : width ∈ [16, 8, 4]) :
    exec (.hostLinkTraining mode width) s = .next { s with linkMode := mode, linkWidth := width } := by
  refine if_neg ?_
  have known : [16, 8, 4].contains width = true := List.contains_iff_mem.mpr hw
  simp only [known, Bool.not_true, Bool.or_false, decide_eq_true_eq]
  omega

/-! Host registers (R410). -/

/-- A narrower write outside the queue descriptors stores nothing. -/
theorem hostRegisterWrite_narrow (s : State) {off : Nat} {w : HostStore} (hw : w.len ≠ 8) (ho : off < 0x100000 ∨ 0x110000 ≤ off) :
    exec (.hostRegisterWrite off w) s = .next s := by
  have outside : reachesQueue off w.len = false := by
    simp only [reachesQueue, Bool.and_eq_false_iff, decide_eq_false_iff_not]
    omega
  refine (if_pos hw).trans ?_
  rw [outside]
  rfl

/-! The time base (R393, R394). -/

/-- An offset of at most 1,000 ns locks the time base and is shown as it is; the time base is not stepped. -/
theorem measured_locked (s : State) {off : Int} (hl : -1000 ≤ off) (hu : off ≤ 1000) :
    s.measured off = { s with tbOffset := BitVec.ofInt 32 off, tbLocked := true } := by
  simp only [State.measured, show ¬ off < -(2 ^ 31 : Int) by omega, show ¬ (2 ^ 31 : Int) ≤ off by omega,
    show ¬ (1000000 : Int) < off by omega, show off.natAbs ≤ 1000 by omega, false_and, if_false, decide_true]

theorem precisionTimeMeasurement_locks {s : State} {t0 : BitVec 64} (hc : bitsAt s.tbcfg 0 2 = 2) (hs : s.stopped = false)
    (hl : s.tb ≤ t0.toNat) (hu : t0.toNat ≤ s.tb + 1000) :
    exec (.precisionTimeMeasurement t0) s
      = .next { s with tbOffset := BitVec.ofNat 32 (t0.toNat - s.tb), tbLocked := true } := by
  refine congrArg Host.Outcome.next ((if_pos ⟨hc, by rw [hs]; rfl⟩).trans ?_)
  rw [← Int.ofNat_sub hl, measured_locked s (by omega) (by omega), BitVec.ofInt_natCast]

theorem ptpMessage_locks {s : State} {m : Msg} {port domain : Nat} {off : Int} (ho : m.op = 12) (hd : m.dest = s.fabid.toNat)
    (hr : m.rsv = false) (hi : s.inDomain domain = true) (hf : s.followsPort port = true) (hl : -1000 ≤ off) (hu : off ≤ 1000) :
    exec (.systemMessage ⟨m, .ptp port domain off⟩) s = .next { s with tbOffset := BitVec.ofInt 32 off, tbLocked := true } := by
  show execSystemMessage _ s = _
  simp only [execSystemMessage, ho, hd, hr, hi, hf, ne_eq, not_true, or_self, if_false, Bool.false_eq_true, Bool.and_self, if_true,
    measured_locked s hl hu]

/-- Settles O41, event by event. -/
theorem packageEvents : Obligations.PackageEvents := by
  intro s hm
  refine ⟨fun hs hr => ⟨fun a n => hostRead_answers hs hr, fun a bs => hostWrite_stores hs hr hm, fun a bs ha => ?logged,
      fun a v => hostFetchAdd_stores hs hr hm v⟩,
    fun k => uncorrectableCell_poisons s, fun core tile row => uncorrectableRow_poisons s, fun st n => scrub_counts s,
    fun hp => ⟨railAlarm_lowers hp, railAlarm_raises hp, idleGating_gates hp⟩, packageReset_measures s, spdmRequest_answers s,
    fun mode width => hostLinkTraining_sets s, fun v => ⟨rfl, _, rfl, rfl, rfl⟩, fun off w => hostRegisterWrite_narrow s,
    fun t0 hc hs hl hu => ⟨_, precisionTimeMeasurement_locks hc hs hl hu, rfl, rfl, rfl⟩,
    fun m port domain off ho hd hr hi hf hl hu => ⟨_, ptpMessage_locks ho hd hr hi hf hl hu, rfl, rfl, rfl⟩⟩
  case logged => rw [hostWrite_logged hs hr ha, State.logPkg, satAt_sixteen]

end Sys2Proof.Proofs
end
